-- ==== Sys2Proof/Word.lean ====
section
/-! DEFINITION. The byte type and the two plain containers the whole model is written over:
lists of bytes read as little-endian numbers (R11), and keyed lists in rising key order. -/

namespace Sys2Proof

/-- A byte of device memory, of a Plate, of a descriptor or of a frame. -/
abbrev Byte := BitVec 8

/-- A keyed collection: pairs in strictly rising key order. -/
abbrev SMap (α : Type) := List (Nat × α)

namespace SMap
variable {α : Type}

/-- The value at a key; an unlisted key holds `d`. -/
def get (d : α) : SMap α → Nat → α
  | [], _ => d
  | (k', v) :: t, k => if k = k' then v else get d t k

/-- The value at a key, when it is listed. -/
def find? : SMap α → Nat → Option α
  | [], _ => none
  | (k', v) :: t, k => if k = k' then some v else find? t k

/-- Store a value at a key, keeping the keys rising. -/
def put : SMap α → Nat → α → SMap α
  | [], k, v => [(k, v)]
  | (k', v') :: t, k, v =>
    if k < k' then (k, v) :: (k', v') :: t
    else if k = k' then (k, v) :: t
    else (k', v') :: put t k v

/-- Remove a key. -/
def del : SMap α → Nat → SMap α
  | [], _ => []
  | (k', v') :: t, k => if k = k' then t else (k', v') :: del t k

/-- Store a value at a key in the canonical form: an entry equal to the default is not listed. -/
def set [DecidableEq α] (d : α) (m : SMap α) (k : Nat) (v : α) : SMap α :=
  if v = d then del m k else put m k v

/-- The keys rise strictly. -/
def sorted : SMap α → Bool
  | [] => true
  | [_] => true
  | (k, _) :: (k', v') :: t => decide (k < k') && sorted ((k', v') :: t)

/-- The canonical form: rising keys and no entry that equals the default. -/
def wf [DecidableEq α] (d : α) (m : SMap α) : Bool :=
  sorted m && m.all (fun p => decide (p.2 ≠ d))

end SMap

/-- The little-endian number of a list of bytes (R11). -/
def leNat : List Byte → Nat
  | [] => 0
  | b :: t => b.toNat + 256 * leNat t

/-- The `n` little-endian bytes of a number (R11). -/
def leBytes : Nat → Nat → List Byte
  | 0, _ => []
  | n + 1, v => BitVec.ofNat 8 v :: leBytes n (v / 256)

/-- The big-endian number of a list of bytes (R12: fields of published standards). -/
def beNat (l : List Byte) : Nat := l.foldl (fun a b => a * 256 + b.toNat) 0

/-- The `n` big-endian bytes of a number. -/
def beBytes (n v : Nat) : List Byte := (leBytes n v).reverse

/-- Bits [hi:lo] of a number. -/
def bits (v hi lo : Nat) : Nat := (v >>> lo) % 2 ^ (hi + 1 - lo)

/-- Bit `i` of a number. -/
def bit (v i : Nat) : Bool := v.testBit i

/-- Two's-complement reading of the low `w` bits. -/
def sext (w v : Nat) : Int :=
  let u := v % 2 ^ w
  if u < 2 ^ (w - 1) then (u : Int) else (u : Int) - (2 ^ w : Nat)

/-- The low `w` bits of an integer in two's complement. -/
def unsext (w : Nat) (x : Int) : Nat := (x % ((2 ^ w : Nat) : Int)).toNat

/-- The quotient rounded up. -/
def ceilDiv (a b : Nat) : Nat := (a + b - 1) / b

/-- A sum held at a largest value. -/
def satAdd (top a b : Nat) : Nat := min top (a + b)

/-- A 32-bit counter that saturates at FFFFFFFFh (R75, R100, R133). -/
def sat32 (a b : Nat) : Nat := satAdd 0xFFFFFFFF a b

/-- The numbers of the bits set below `n`. -/
def bitList (n v : Nat) : List Nat := (List.range n).filter (fun i => v.testBit i)

/-- `n` copies of the zero byte. -/
def zeros (n : Nat) : List Byte := List.replicate n 0#8

/-- The sub-list of `n` bytes from offset `o`, padded with zero bytes past the end. -/
def slice (l : List Byte) (o n : Nat) : List Byte :=
  let p := (l.drop o).take n
  p ++ zeros (n - p.length)

/-- The little-endian field of `n` bytes at offset `o`. -/
def field (l : List Byte) (o n : Nat) : Nat := leNat (slice l o n)

/-- Cut a list into pieces of `n`; the fuel is the number of pieces asked for. -/
def pieces {α : Type} (n : Nat) : Nat → List α → List (List α)
  | 0, _ => []
  | k + 1, l => l.take n :: pieces n k (l.drop n)

end Sys2Proof
end

