-- ==== Sys2Proof/Syntax.lean ====
section
/-! DEFINITION. The commands of the block: one constructor of `Instr` per row of the table of operations and
events, with the operands the row needs. -/

namespace Sys2Proof

/-- The two hardware threads of a core (R111). -/
inductive Thr where
  | F | B
  deriving DecidableEq, Repr

/-- Hardware errors that show themselves in a step: Plate words with a single-bit error the step corrects,
Plate words (address / 8) found with a double-bit error (R105), and a parity error of the array (R101) with
the place it is logged at. -/
structure Upset where
  plateCe : Nat := 0
  plateUe : List Nat := []
  parity : Option Nat := none
  deriving DecidableEq, Repr

/-- A VEC stroke that has started: its core, and its place among those under way there, the oldest first. -/
structure VecPlace where
  core : Nat
  place : Nat
  deriving DecidableEq, Repr

/-- Who raises a line access at a bank: its number, and the tile its request comes from. -/
structure Requester where
  num : Nat
  tile : Nat
  deriving DecidableEq, Repr

/-- A flit of a torus link (R296, R297): the header fields and the 224 BODY bytes; its FCRC is checked when it is
received (R298). -/
structure Flit where
  /-- 0 DATA, 1 CTRL, 2 NULL -/
  typ : Nat
  vc : Nat := 0
  esc : Bool := false
  sop : Bool := false
  eop : Bool := false
  seq : Nat := 0
  ack : Nat := 0
  crVc : Nat := 0
  crEsc : Bool := false
  crCount : Nat := 0
  body : List Byte := []
  deriving DecidableEq, Repr

/-- What a start-up meets that the device's state does not determine (R552, R555, R557, R559): a step that fails (0 none),
the logical cores whose test fails in step 7, the firmware copies that fail their digest or signature check (bits 0 and 1
banks 0 and 1 at the primary CMC, bits 2 and 3 at the standby), a failing vault self-test, and the 64-bit words of the
retained SRAM that fail uncorrectably; and, when the start follows a power-on reset, what the reading of the fuses finds: the
tiles whose words fail their CRC, and a disagreement on the variant (R38). -/
structure Startup where
  failStep : Nat := 0
  failCores : Nat := 0
  fwBad : Nat := 0
  vaultFails : Bool := false
  badWords : List Nat := []
  fuseCrc : Nat := 0
  fuseDisagree : Bool := false
  deriving DecidableEq, Repr

/-- What the surroundings answer to a command that asks them: the rails a margin plan needs by ROOT value and tile in mV and
the physical cores that fall short at the floor (R536, R538); corrected errors by granule and uncorrectable lines of a
burnish pass (R225); the RESULT of a core test, 0 for a pass (R584); the FORM answers that have come (R353); what the file
store holds for the READ records of a RESTORE, by device, object and bytes (R423, R429); and whether a written firmware
image's signature verifies (R560). -/
structure Outside where
  rails : List (List Nat) := []
  short : Nat := 0
  ces : List (Nat × Nat) := []
  ues : List Nat := []
  test : Nat := 0
  answers : List (Nat × Nat × Nat) := []
  store : List (Nat × Nat × List Byte) := []
  sigOk : Bool := true
  deriving DecidableEq, Repr

/-- Who writes: the principal (R482), the SEQ of its frame (R485), and whether a management frame's KEY is slot 1 (R491). -/
structure Writer where
  prin : Nat
  seq : Nat := 0
  key1 : Bool := false
  deriving DecidableEq, Repr

/-- The commands: one constructor per row of the table of operations and events; those without operands stand last. -/
inductive Instr where
  /-- MMA (R84) -/
  | mma (c : Nat) (u : Upset)
  /-- MMA_SCAN (R83) -/
  | mmaScan (c : Nat) (u : Upset)
  /-- C_LOAD (R94) -/
  | cLoad (c : Nat) (u : Upset)
  /-- OPERANDS_FREE (R85) -/
  | operandsFree (c : Nat)
  /-- DRAIN (R95) -/
  | drain (c : Nat) (u : Upset)
  /-- DRAIN_DONE (R85) -/
  | drainDone (c : Nat)
  /-- EXPAND_DECODE (R253) -/
  | expandDecode (c : Nat) (opB : Bool) (u : Upset)
  /-- ADD (R148) -/
  | add (c : Nat) (t : Thr)
  /-- SUB (R148) -/
  | sub (c : Nat) (t : Thr)
  /-- MUL (R148) -/
  | mul (c : Nat) (t : Thr)
  /-- FMA (R148) -/
  | fma (c : Nat) (t : Thr)
  /-- MAX (R172) -/
  | max (c : Nat) (t : Thr)
  /-- MIN (R172) -/
  | min (c : Nat) (t : Thr)
  /-- ABS (R172) -/
  | abs (c : Nat) (t : Thr)
  /-- NEG (R172) -/
  | neg (c : Nat) (t : Thr)
  /-- CVT (R170) -/
  | cvt (c : Nat) (t : Thr)
  /-- ADDS (R148) -/
  | adds (c : Nat) (t : Thr)
  /-- MULS (R148) -/
  | muls (c : Nat) (t : Thr)
  /-- AXPY (R148) -/
  | axpy (c : Nat) (t : Thr)
  /-- EXP2 (R173) -/
  | exp2 (c : Nat) (t : Thr)
  /-- LOG2 (R173) -/
  | log2 (c : Nat) (t : Thr)
  /-- RCP (R173) -/
  | rcp (c : Nat) (t : Thr)
  /-- RSQRT (R173) -/
  | rsqrt (c : Nat) (t : Thr)
  /-- RSUM (R175) -/
  | rsum (c : Nat) (t : Thr)
  /-- RSUMSQ (R175) -/
  | rsumsq (c : Nat) (t : Thr)
  /-- RAMAX (R176) -/
  | ramax (c : Nat) (t : Thr)
  /-- APADD (R177) -/
  | apadd (c : Nat) (t : Thr)
  /-- CMPGT (R172) -/
  | cmpgt (c : Nat) (t : Thr)
  /-- SEL (R172) -/
  | sel (c : Nat) (t : Thr)
  /-- VEC_START (R180) -/
  | vecStart (c : Nat) (u : Upset)
  /-- VEC_COMPLETE (R180) -/
  | vecComplete (v : VecPlace)
  /-- ADAMW_UPDATE (R276) -/
  | adamwUpdate (c : Nat) (u : Upset)
  /-- MOMENTUM_UPDATE (R277) -/
  | momentumUpdate (c : Nat) (u : Upset)
  /-- UPD_COMPLETE (R285) -/
  | updComplete (c : Nat)
  /-- LOAD (R152) -/
  | load (c : Nat) (t : Thr)
  /-- STORE (R152) -/
  | store (c : Nat) (t : Thr)
  /-- COPY (R152) -/
  | copy (c : Nat) (t : Thr)
  /-- PUT (R152) -/
  | put (c : Nat) (t : Thr)
  /-- QSEND (R154) -/
  | qsend (c : Nat) (t : Thr)
  /-- QPOP (R128) -/
  | qpop (c : Nat) (t : Thr)
  /-- QFLUSH (R129) -/
  | qflush (c : Nat) (t : Thr)
  /-- MOVE_START (R155) -/
  | moveStart (c : Nat) (t : Thr) (u : Upset)
  /-- MOVE_COMPLETE (R617) -/
  | moveComplete (c : Nat) (t : Thr) (remote : Nat)
  /-- WAIT (R156) -/
  | wait (c : Nat) (t : Thr)
  /-- SET (R156) -/
  | set (c : Nat) (t : Thr)
  /-- SEND (R156) -/
  | send (c : Nat) (t : Thr)
  /-- CLAIM (R157) -/
  | claim (c : Nat) (t : Thr)
  /-- FENCE (R156) -/
  | fence (c : Nat) (t : Thr)
  /-- SYNC_BARRIER (R446) -/
  | syncBarrier (c : Nat) (t : Thr)
  /-- CLAIM_SERVE (R197) -/
  | claimServe (tile : Nat)
  /-- CLAIM_RETURN (R157) -/
  | claimReturn (c : Nat) (t : Thr)
  /-- LOOP (R159) -/
  | loop (c : Nat) (t : Thr)
  /-- SKIP (R161) -/
  | skip (c : Nat) (t : Thr)
  /-- HALT (R158) -/
  | halt (c : Nat) (t : Thr)
  /-- NOP (R158) -/
  | nop (c : Nat) (t : Thr)
  /-- ALLGATHER (R326) -/
  | allgather (c : Nat)
  /-- REDUCESCATTER (R326) -/
  | reducescatter (c : Nat)
  /-- ALLREDUCE (R326) -/
  | allreduce (c : Nat)
  /-- ALLTOALL (R326) -/
  | alltoall (c : Nat)
  /-- BROADCAST (R326) -/
  | broadcast (c : Nat)
  /-- COLL_BARRIER (R330) -/
  | collBarrier (c : Nat)
  /-- COLL_CHUNK_DONE (R331) -/
  | collChunkDone (c : Nat)
  /-- BUILD (R236) -/
  | build (c : Nat)
  /-- ENCODE (R247) -/
  | encode (c : Nat)
  /-- DECODE (R258) -/
  | decode (c : Nat)
  /-- CODEC_OP_START (R254) -/
  | codecOpStart (tile : Nat) (e : Nat) (u : Upset)
  /-- CODEC_OP_COMPLETE (R256) -/
  | codecOpComplete (tile : Nat) (e : Nat)
  /-- CNTCLR (R165) -/
  | cntclr (c : Nat) (t : Thr)
  /-- TRACE (R165) -/
  | trace (c : Nat) (t : Thr)
  /-- SYS_FAULT (R165) -/
  | sysFault (c : Nat) (t : Thr)
  /-- SYS_TIME (R165) -/
  | sysTime (c : Nat) (t : Thr)
  /-- FLAGCLR (R165) -/
  | flagclr (c : Nat) (t : Thr)
  /-- TOKEN_CREDIT_MESSAGE (R116) -/
  | tokenCreditMessage (m : Nat)
  /-- QUEUE_WORD_MESSAGE (R127) -/
  | queueWordMessage (m : Nat)
  /-- QUEUE_WORD_WRITE (R126) -/
  | queueWordWrite (c : Nat)
  /-- TC_REQUEST (R221) -/
  | tcRequest (req : Requester) (act : Nat) (line : Nat) (wr : Option (Nat × List Byte)) (err : Nat)
  /-- TC_FILL_COMPLETE (R221) -/
  | tcFillComplete (line : Nat) (ces : Nat) (ue : Bool)
  /-- RETIRE_GRANULE (R226) -/
  | retireGranule (w : Writer) (granule : Nat)
  /-- BURNISH_GRANULE (R225) -/
  | burnishGranule (stack : Nat) (ces : Nat) (ues : List Nat)
  /-- BURNISH_NOW (R225) -/
  | burnishNow (w : Writer) (e : Outside)
  /-- REFRESH (R233) -/
  | refresh (stack : Nat)
  /-- CONTROLLER_READY (R231) -/
  | controllerReady (stack : Nat) (ok : Bool)
  /-- COW_COPY (R419) -/
  | cowCopy (granule : Nat)
  /-- DATA_FLIT (R299) -/
  | dataFlit (port : Nat) (raw : List Byte)
  /-- NULL_FLIT (R298) -/
  | nullFlit (port : Nat) (raw : List Byte)
  /-- FLIT_NAK (R299) -/
  | flitNak (port : Nat) (raw : List Byte)
  /-- NAK_REPEAT (R299) -/
  | nakRepeat (port : Nat)
  /-- REPLAY_LIMIT (R299) -/
  | replayLimit (port : Nat) (timeout : Bool)
  /-- FLIT_IDENT (R313) -/
  | flitIdent (port : Nat) (raw : List Byte)
  /-- FLIT_PROBE (R314) -/
  | flitProbe (port : Nat) (raw : List Byte) (t2 : Nat) (t3 : Nat)
  /-- FLIT_ECHO (R314) -/
  | flitEcho (port : Nat) (raw : List Byte) (t4 : Nat)
  /-- LANE_REQ (R311) -/
  | laneReq (port : Nat) (raw : List Byte)
  /-- LANE_ACK (R311) -/
  | laneAck (port : Nat) (raw : List Byte)
  /-- LANE_SWITCH (R311) -/
  | laneSwitch (port : Nat)
  /-- LANE_SER_WINDOW (R311) -/
  | laneSerWindow (port : Nat) (errs : List Nat) (corr : Nat) (uncorr : Nat)
  /-- FLIT_DOWN (R309) -/
  | flitDown (port : Nat) (raw : List Byte)
  /-- LOSS_OF_SIGNAL (R309) -/
  | lossOfSignal (port : Nat) (lanes : Nat) (align : Bool)
  /-- PORT_ENABLE (R309) -/
  | portEnable (w : Writer) (port : Nat) (v : Nat)
  /-- PORT_RESET (R313) -/
  | portReset (w : Writer) (port : Nat)
  /-- TRAIN_ATTEMPT (R310) -/
  | trainAttempt (port : Nat) (good : Nat)
  /-- TRAIN_COMPLETE (R313) -/
  | trainComplete (port : Nat)
  /-- RING_STATUS (R307) -/
  | ringStatus (port : Nat)
  /-- ROUTE_QUIET_EXPIRY (R307) -/
  | routeQuietExpiry (axis : Nat) (link : Nat)
  /-- ROUTE_RESTORE (R308) -/
  | routeRestore (w : Writer)
  /-- TORUS_PACKET (R301) -/
  | torusPacket (port : Nat)
  /-- GROUP_FORM (R323) -/
  | groupForm (w : Writer) (group : Nat)
  /-- GROUP_DISSOLVE (R323) -/
  | groupDissolve (w : Writer) (group : Nat)
  /-- FORM_TIMEOUT (R323) -/
  | formTimeout (group : Nat)
  /-- COLL_DATA (R330) -/
  | collData (core : Nat) (msg : List Byte)
  /-- COLL_ANCHOR (R333) -/
  | collAnchor (core : Nat) (msg : List Byte)
  /-- COLL_FORM (R323) -/
  | collForm (core : Nat) (msg : List Byte)
  /-- SUSPECT (R340) -/
  | suspect (core : Nat) (msg : List Byte)
  /-- COLL_PROBE (R340) -/
  | collProbe (core : Nat) (msg : List Byte)
  /-- REPLY (R340) -/
  | reply (core : Nat) (msg : List Byte)
  /-- EXTEND (R340) -/
  | extend (core : Nat) (msg : List Byte)
  /-- COLL_COMMIT (R342) -/
  | collCommit (core : Nat) (msg : List Byte)
  /-- ABANDON (R341) -/
  | abandon (core : Nat) (msg : List Byte)
  /-- SLOW (R346) -/
  | slow (core : Nat) (msg : List Byte)
  /-- HOLD (R347) -/
  | hold (core : Nat) (msg : List Byte)
  /-- RESUME (R347) -/
  | resume (core : Nat) (msg : List Byte)
  /-- COMMIT_REQ (R338) -/
  | commitReq (core : Nat) (msg : List Byte)
  /-- COLL_BARRIER_PASS (R330) -/
  | collBarrierPass (core : Nat) (msg : List Byte)
  /-- DEADLINE_EXPIRY (R339) -/
  | deadlineExpiry (core : Nat) (rank : Nat)
  /-- PROBE_WAIT_EXPIRY (R340) -/
  | probeWaitExpiry (group : Nat)
  /-- SUSPECT_RETRY_EXPIRY (R344) -/
  | suspectRetryExpiry (group : Nat)
  /-- SLOW_SEND (R346) -/
  | slowSend (group : Nat)
  /-- HOLD_LIMIT_EXPIRY (R347) -/
  | holdLimitExpiry (group : Nat)
  /-- IG_FORM (R353) -/
  | igForm (w : Writer) (e : Outside)
  /-- IG_JOIN (R384) -/
  | igJoin (w : Writer)
  /-- SEGMENT (R362) -/
  | segment (holder : Nat)
  /-- ROUND_END (R361) -/
  | roundEnd (holder : Nat)
  /-- RELEASE (R361) -/
  | release (holder : Nat)
  /-- LH_EGRESS (R372) -/
  | lhEgress (port : Nat) (mismatch : Bool)
  /-- IG_SEG (R375) -/
  | igSeg (port : Nat) (frame : List Byte)
  /-- IG_END (R367) -/
  | igEnd (port : Nat) (frame : List Byte)
  /-- IG_ACK (R373) -/
  | igAck (port : Nat) (frame : List Byte)
  /-- IG_NAK (R373) -/
  | igNak (port : Nat) (frame : List Byte)
  /-- IG_REPORT (R378) -/
  | igReport (port : Nat) (frame : List Byte)
  /-- IG_ADMIT (R380) -/
  | igAdmit (port : Nat) (frame : List Byte)
  /-- IG_COMMIT (R381) -/
  | igCommit (port : Nat) (frame : List Byte)
  /-- IG_KEEPALIVE (R366) -/
  | igKeepalive (port : Nat) (frame : List Byte)
  /-- IG_STATE (R385) -/
  | igState (port : Nat) (frame : List Byte)
  /-- JOIN (R384) -/
  | join (port : Nat) (frame : List Byte)
  /-- SEGMENT_COMPLETE (R375) -/
  | segmentComplete (holder : Nat) (sender : Nat) (round : Nat) (seg : Nat)
  /-- STATE_STREAM_COMPLETE (R385) -/
  | stateStreamComplete (holder : Nat)
  /-- NAK_WAIT_EXPIRY (R373) -/
  | nakWaitExpiry (holder : Nat) (sender : Nat) (round : Nat) (seg : Nat) (index : Nat) (state : Bool)
  /-- END_RESEND (R366) -/
  | endResend (holder : Nat) (sender : Nat) (round : Nat) (part : Nat)
  /-- REPORT_DEADLINE (R377) -/
  | reportDeadline (holder : Nat) (round : Nat)
  /-- REPORT_RESEND (R377) -/
  | reportResend (holder : Nat) (round : Nat)
  /-- ADMIT_WAIT_EXPIRY (R378) -/
  | admitWaitExpiry (holder : Nat) (round : Nat)
  /-- LIVENESS_EXPIRY (R381) -/
  | livenessExpiry (holder : Nat) (rank : Nat)
  /-- LH_PORT_DOWN (R386) -/
  | lhPortDown (port : Nat)
  /-- LH_PORT_UP (R386) -/
  | lhPortUp (port : Nat)
  /-- KEY_LOAD (R397) -/
  | keyLoad (w : Writer) (blob : List Byte)
  /-- KEY_ERASE (R398) -/
  | keyErase (w : Writer) (slot : Nat)
  /-- ERASE_ALL (R398) -/
  | eraseAll (w : Writer)
  /-- SELFTEST (R410) -/
  | selftest (w : Writer) (unit : Nat)
  /-- SELFTEST_COMPLETE (R410) -/
  | selftestComplete (pass : Bool)
  /-- SEAL (R403) -/
  | cipherSeal (ctx : Nat)
  /-- OPEN (R403) -/
  | cipherOpen (ctx : Nat)
  /-- CIPHER_START (R405) -/
  | cipherStart (engine : Nat)
  /-- CIPHER_COMPLETE (R406) -/
  | cipherComplete (handle : Nat) (mismatch : Bool)
  /-- VAULT_ALARM (R409) -/
  | vaultAlarm (cause : Nat) (stays : Bool)
  /-- ALARM_RECHECK (R409) -/
  | alarmRecheck (active : List Nat)
  /-- PROOF_START (R430) -/
  | proofStart (w : Writer) (arg : Nat)
  /-- PROOF_ABORT (R431) -/
  | proofAbort (w : Writer)
  /-- RESTORE (R429) -/
  | restore (w : Writer) (arg : Nat) (e : Outside)
  /-- PLATE_NOTE (R420) -/
  | plateNote (tile : Nat)
  /-- PROOF_DRAIN (R420) -/
  | proofDrain (tile : Nat) (err : Bool)
  /-- PROOF_ACK (R423) -/
  | proofAck (v : Nat)
  /-- REG_ARM (R444) -/
  | regArm (w : Writer) (arg : Nat)
  /-- REG_READY (R444) -/
  | regReady (port : Nat) (raw : List Byte)
  /-- REG_WAVE (R445) -/
  | regWave (port : Nat) (raw : List Byte)
  /-- PCIE_FAILOVER (R455) -/
  | pcieFailover (link0 : Nat) (link1 : Nat)
  /-- FAILOVER (R455) -/
  | failover (w : Writer)
  /-- FUNCTION_LEVEL_RESET (R457) -/
  | functionLevelReset (fn : Nat)
  /-- CMD_DB (R469) -/
  | cmdDb (port : Nat) (ctx : Nat) (v : Nat)
  /-- EVT_DB (R472) -/
  | evtDb (port : Nat) (ctx : Nat) (v : Nat)
  /-- MBOX_GO (R460) -/
  | mboxGo (port : Nat) (ctx : Nat) (v : Nat) (req : List Byte)
  /-- COMMAND_FETCH (R469) -/
  | commandFetch (entries : List (List Byte)) (err : Bool)
  /-- DICT (R467) -/
  | dict (ctx : Nat) (e : Outside)
  /-- LOAD_PROGRAM (R475) -/
  | loadProgram (ctx : Nat)
  /-- STOP (R474) -/
  | coreStop (ctx : Nat)
  /-- CORE_RESUME (R474) -/
  | coreResume (ctx : Nat)
  /-- CORE_RELEASE (R474) -/
  | coreRelease (ctx : Nat)
  /-- FLUSH (R474) -/
  | coreFlush (ctx : Nat)
  /-- CORE_RESET (R474) -/
  | coreReset (ctx : Nat)
  /-- MAP (R464) -/
  | mapPages (ctx : Nat)
  /-- UNMAP (R465) -/
  | unmapPages (ctx : Nat)
  /-- NOP_COMMAND (R467) -/
  | nopCommand (ctx : Nat)
  /-- CTX_OPEN (R461) -/
  | ctxOpen (w : Writer) (ctx : Nat)
  /-- CTX_CLOSE (R477) -/
  | ctxClose (w : Writer) (ctx : Nat)
  /-- JOB_START (R476) -/
  | jobStart (w : Writer) (ctx : Nat) (arg : Nat)
  /-- JOB_END (R476) -/
  | jobEnd (w : Writer) (ctx : Nat)
  /-- HANDLE_SWEEP (R470) -/
  | handleSweep (w : Writer) (ctx : Nat)
  /-- HANDLE_RECORD (R470) -/
  | handleRecord (prin : Nat) (ctx : Nat)
  /-- MSIX_MODERATION (R473) -/
  | msixModeration (ctx : Nat)
  /-- BAR2_READ (R466) -/
  | bar2Read (port : Nat) (fn : Nat) (off : Nat) (len : Nat)
  /-- BAR2_WRITE (R466) -/
  | bar2Write (port : Nat) (fn : Nat) (off : Nat) (data : List Byte)
  /-- BAR2_BASE (R466) -/
  | bar2Base (w : Writer) (fn : Nat) (v : Nat)
  /-- WDP_FRAME (R495): the frame of a torus port's oldest WDP packet, or an Ethernet frame of the management port with its frame
  check sequence -/
  | wdpFrame (torus : Bool) (port : Nat) (frame : List Byte) (fcs : List Byte)
  /-- WDP_WRITE (R484) -/
  | wdpWrite (es : List Outside)
  /-- REGISTER_WRITE (R484) -/
  | registerWrite (w : Writer) (idx : Nat) (sub : Nat) (off : Nat) (data : List Byte)
  /-- COMMIT (R487) -/
  | commit (w : Writer)
  /-- DISCARD (R486) -/
  | discard (w : Writer) (v : Nat)
  /-- KEY_PROMOTE (R498) -/
  | keyPromote (w : Writer)
  /-- CLAIM_SET (R196) -/
  | claimSet (w : Writer) (arg : Nat)
  /-- STATE_CHECK (R288) -/
  | stateCheck (w : Writer)
  /-- COUNTER_CLEAR (R134) -/
  | counterClear (w : Writer) (core : Nat)
  /-- UPD_CLEAR (R287) -/
  | updClear (w : Writer) (core : Nat)
  /-- FREEZE (R515) -/
  | freeze (w : Writer) (v : Nat)
  /-- ARB_STUCK (R516) -/
  | arbStuck (arb : Nat) (req : Nat) (unit : Nat)
  /-- RAIL_REPORT (R529) -/
  | railReport (watts : Nat) (aux : Nat) (bus : Nat)
  /-- SENSOR_READ (R531) -/
  | sensorRead (junction : List Int) (hbm : List Int) (pulse : Bool)
  /-- BUSBAR_HIGH (R614) -/
  | busbarHigh (above : Bool)
  /-- CANARY (R535) -/
  | canary (core : Nat) (hold : Nat)
  /-- ROOT_CAP (R522) -/
  | rootCap (w : Writer) (v : Nat)
  /-- POWER_LIMIT (R529) -/
  | powerLimit (w : Writer) (v : Nat)
  /-- MONITOR_READ (R534) -/
  | monitorRead (vals : List Nat)
  /-- PLAN_NOW (R536) -/
  | planNow (w : Writer) (e : Outside)
  /-- AGE_PERIOD (R536) -/
  | agePeriod (need : List (List Nat)) (short : Nat)
  /-- PERST (R544) -/
  | perst (level : Bool) (pulse : Bool)
  /-- RSTIN (R544) -/
  | rstin (level : Bool) (pulse : Bool)
  /-- DEVICE_RESET (R547) -/
  | deviceReset (w : Writer) (kind : Nat) (pulse : Bool)
  /-- SUPPLY_FAULT (R533) -/
  | supplyFault (detail : Nat) (pulse : Bool)
  /-- REFCLK_LOSS (R607) -/
  | refclkLoss (pulse : Bool)
  /-- FLASH_PULSE_END (R549) -/
  | flashPulseEnd (us : Nat)
  /-- STARTUP (R555) -/
  | startup (st : Startup)
  /-- REFCLK_PRESENT (R607) -/
  | refclkPresent (st : Startup)
  /-- FW_UPDATE (R560) -/
  | fwUpdate (w : Writer) (arg : Nat) (e : Outside)
  /-- FW_SVN_RAISE (R560) -/
  | fwSvnRaise (w : Writer) (v : Nat)
  /-- HEARTBEAT (R568) -/
  | heartbeat (port : Nat) (raw : List Byte)
  /-- PEER_LOST (R568) -/
  | peerLost (port : Nat)
  /-- HB_RESET_SEND (R571) -/
  | hbResetSend (port : Nat)
  /-- HB_RESET (R572) -/
  | hbReset (port : Nat) (raw : List Byte) (quiet : Bool) (pulse : Bool)
  /-- ESCALATE (R572) -/
  | escalate (v : Nat) (quiet : Bool) (pulse : Bool)
  /-- CMC_WATCHDOG (R573) -/
  | cmcWatchdog (standby : Bool) (hung : Option Nat) (es : List Outside) (pulse : Bool)
  /-- UNIT_STALLED (R565) -/
  | unitStalled (unit : Nat)
  /-- ENGINE_RESET (R580) -/
  | engineReset (w : Writer) (unit : Nat)
  /-- ENGINE_RESET_COMPLETE (R580) -/
  | engineResetComplete (unit : Nat)
  /-- CORE_WITHDRAW (R582) -/
  | coreWithdraw (w : Writer) (core : Nat)
  /-- CORE_TEST (R584) -/
  | coreTest (w : Writer) (core : Nat) (e : Outside)
  /-- REINSTATE (R584) -/
  | reinstate (w : Writer) (core : Nat)
  /-- NEIGHBOUR_SOLICITATION (R499): an Ethernet frame with its frame check sequence -/
  | neighbourSolicitation (frame : List Byte) (fcs : List Byte)
  /-- RING_DMA_TIMEOUT (R461) -/
  | ringDmaTimeout (ctx : Nat)
  /-- RETIRE_LIST_WRITE (R226) -/
  | retireListWrite
  /-- MEM_CALIBRATION (R233) -/
  | memCalibration
  /-- COW_WRITE_ADMIT (R419) -/
  | cowWriteAdmit
  /-- IG_FORM_TIMEOUT (R353) -/
  | igFormTimeout
  /-- KEEPALIVE_SEND (R366) -/
  | keepaliveSend
  /-- BOUNDARY_CHECK (R418) -/
  | boundaryCheck
  /-- SINK_TIMEOUT (R424) -/
  | sinkTimeout
  /-- CP_WRITE (R428) -/
  | cpWrite
  /-- REG_RELEASED (R446) -/
  | regReleased
  /-- REG_TIMEOUT (R444) -/
  | regTimeout
  /-- WDP_READ (R483) -/
  | wdpRead
  /-- WDP_RESPONSE (R503) -/
  | wdpResponse
  /-- REMOTE_RETRY (R503) -/
  | remoteRetry
  /-- MGMT_HANDLE_RECORD (R507) -/
  | mgmtHandleRecord
  /-- DISCOVERY_REPLY (R499) -/
  | discoveryReply
  /-- PLCA_FALLBACK (R500) -/
  | plcaFallback
  /-- PLCA_RESTORED (R500) -/
  | plcaRestored
  /-- THERM_ALARM_RELEASE (R531) -/
  | thermAlarmRelease
  /-- SUPPLY_DROOP (R533) -/
  | supplyDroop
  /-- SUPPLY_RECOVER (R533) -/
  | supplyRecover
  /-- SLEW_STEP (R522) -/
  | slewStep
  /-- MARGIN_APPLIED (R537) -/
  | marginApplied
  /-- POWER_ON (R544) -/
  | powerOn
  /-- SUPPLY_RESTART (R546) -/
  | supplyRestart
  /-- RESET_RELEASE (R556) -/
  | resetRelease
  /-- HEARTBEAT_ADVANCE (R567) -/
  | heartbeatAdvance
  /-- STANDBY_HEARTBEAT (R574) -/
  | standbyHeartbeat
  /-- STANDBY_RESTART (R573) -/
  | standbyRestart
  /-- AUX_SUPPLY_LOSS (R544) -/
  | auxSupplyLoss
  /-- STANDBY_PERST (R454) -/
  | standbyPerst
  deriving DecidableEq, Repr

end Sys2Proof
end

