-- ==== Sys2Proof/Config.lean ====
section
/-! DEFINITION. The configuration: status codes as the chapters' tables give them, and the values the spec
leaves open, as constants without a body. -/

namespace Sys2Proof

/-! ## Status codes (00 scope, Status codes; R15) -/

namespace Status
abbrev fuseFault : Nat := 0x0010 -- FUSE_FAULT
abbrev arbStuck : Nat := 0x0020 -- ARB_STUCK
abbrev thermalThrottle : Nat := 0x0030 -- THERMAL_THROTTLE
abbrev thermalLimit : Nat := 0x0031 -- THERMAL_LIMIT
abbrev thermalTrip : Nat := 0x0032 -- THERMAL_TRIP
abbrev marginPlanned : Nat := 0x0033 -- MARGIN_PLANNED
abbrev canary : Nat := 0x0034 -- CANARY
abbrev ageFloor : Nat := 0x0035 -- AGE_FLOOR
abbrev supplyDroop : Nat := 0x0036 -- SUPPLY_DROOP
abbrev marginApplied : Nat := 0x0037 -- MARGIN_APPLIED
abbrev formatCode : Nat := 0x0101 -- FORMAT_CODE
abbrev roundCode : Nat := 0x0102 -- ROUND_CODE
abbrev formatUse : Nat := 0x0103 -- FORMAT_USE
abbrev empty : Nat := 0x0110 -- EMPTY
abbrev mmaShape : Nat := 0x0111 -- MMA_SHAPE
abbrev arrayParity : Nat := 0x0120 -- ARRAY_PARITY
abbrev badClass : Nat := 0x0201 -- BAD_CLASS
abbrev reservedBits : Nat := 0x0202 -- RESERVED_BITS
abbrev badOp : Nat := 0x0203 -- BAD_OP
abbrev threadClass : Nat := 0x0204 -- THREAD_CLASS
abbrev badEntry : Nat := 0x0205 -- BAD_ENTRY
abbrev badField : Nat := 0x0206 -- BAD_FIELD
abbrev align : Nat := 0x0207 -- ALIGN
abbrev noCore : Nat := 0x0210 -- NO_CORE
abbrev coreBusy : Nat := 0x0211 -- CORE_BUSY
abbrev groupOverlap : Nat := 0x0212 -- GROUP_OVERLAP
abbrev groupInvalid : Nat := 0x0213 -- GROUP_INVALID
abbrev claimGrant : Nat := 0x0214 -- CLAIM_GRANT
abbrev plateRange : Nat := 0x0220 -- PLATE_RANGE
abbrev expandSize : Nat := 0x0222 -- EXPAND_SIZE
abbrev tokenOverflow : Nat := 0x0230 -- TOKEN_OVERFLOW
abbrev creditOverflow : Nat := 0x0231 -- CREDIT_OVERFLOW
abbrev counterOwner : Nat := 0x0232 -- COUNTER_OWNER
abbrev queueOverflow : Nat := 0x0240 -- QUEUE_OVERFLOW
abbrev flushed : Nat := 0x0241 -- FLUSHED
abbrev itemLength : Nat := 0x0242 -- ITEM_LENGTH
abbrev queueEmpty : Nat := 0x0243 -- QUEUE_EMPTY
abbrev noItem : Nat := 0x0244 -- NO_ITEM
abbrev queueOff : Nat := 0x0245 -- QUEUE_OFF
abbrev window : Nat := 0x0250 -- WINDOW
abbrev storeFull : Nat := 0x0260 -- STORE_FULL
abbrev runOff : Nat := 0x0261 -- RUN_OFF
abbrev loopLevel : Nat := 0x0270 -- LOOP_LEVEL
abbrev loopNest : Nat := 0x0271 -- LOOP_NEST
abbrev loopEnd : Nat := 0x0272 -- LOOP_END
abbrev skipRange : Nat := 0x0273 -- SKIP_RANGE
abbrev plateUe : Nat := 0x0280 -- PLATE_UE
abbrev userFault : Nat := 0x0290 -- USER_FAULT
abbrev memUe : Nat := 0x0301 -- MEM_UE
abbrev memRetired : Nat := 0x0302 -- MEM_RETIRED
abbrev stackFail : Nat := 0x0303 -- STACK_FAIL
abbrev memCarved : Nat := 0x0304 -- MEM_CARVED
abbrev mapBusy : Nat := 0x0310 -- MAP_BUSY
abbrev retireFull : Nat := 0x0311 -- RETIRE_FULL
abbrev sectorCrc : Nat := 0x0401 -- SECTOR_CRC
abbrev sectorLength : Nat := 0x0402 -- SECTOR_LENGTH
abbrev sectorNumber : Nat := 0x0403 -- SECTOR_NUMBER
abbrev sectorDecode : Nat := 0x0404 -- SECTOR_DECODE
abbrev noMark : Nat := 0x0405 -- NO_MARK
abbrev indexCrc : Nat := 0x0406 -- INDEX_CRC
abbrev bookInvalid : Nat := 0x0407 -- BOOK_INVALID
abbrev bocrcFail : Nat := 0x0408 -- BOCRC_FAIL
abbrev bookMismatch : Nat := 0x0409 -- BOOK_MISMATCH
abbrev sectorCount : Nat := 0x040A -- SECTOR_COUNT
abbrev stateShortfall : Nat := 0x0501 -- STATE_SHORTFALL
abbrev updTag : Nat := 0x0510 -- UPD_TAG
abbrev updSkip : Nat := 0x0511 -- UPD_SKIP
abbrev updNangrad : Nat := 0x0512 -- UPD_NANGRAD
abbrev partition : Nat := 0x0601 -- PARTITION
abbrev offSite : Nat := 0x0602 -- OFF_SITE
abbrev unreachable : Nat := 0x0603 -- UNREACHABLE
abbrev portDown : Nat := 0x0610 -- PORT_DOWN
abbrev portUp : Nat := 0x0611 -- PORT_UP
abbrev laneSpared : Nat := 0x0612 -- LANE_SPARED
abbrev portDegraded : Nat := 0x0613 -- PORT_DEGRADED
abbrev miswired : Nat := 0x0614 -- MISWIRED
abbrev peerLost : Nat := 0x0615 -- PEER_LOST
abbrev trainFail : Nat := 0x0616 -- TRAIN_FAIL
abbrev groupNotFormed : Nat := 0x0620 -- GROUP_NOT_FORMED
abbrev groupConfig : Nat := 0x0621 -- GROUP_CONFIG
abbrev groupMismatch : Nat := 0x0622 -- GROUP_MISMATCH
abbrev formTimeout : Nat := 0x0623 -- FORM_TIMEOUT
abbrev groupBusy : Nat := 0x0624 -- GROUP_BUSY
abbrev collMismatch : Nat := 0x0625 -- COLL_MISMATCH
abbrev excluded : Nat := 0x0626 -- EXCLUDED
abbrev collAbandoned : Nat := 0x0627 -- COLL_ABANDONED
abbrev epochChanged : Nat := 0x0628 -- EPOCH_CHANGED
abbrev regBusy : Nat := 0x0630 -- REG_BUSY
abbrev regMismatch : Nat := 0x0631 -- REG_MISMATCH
abbrev regTimeout : Nat := 0x0632 -- REG_TIMEOUT
abbrev regLate : Nat := 0x0633 -- REG_LATE
abbrev regReleased : Nat := 0x0634 -- REG_RELEASED
abbrev regSlew : Nat := 0x0635 -- REG_SLEW
abbrev noLongHaul : Nat := 0x0701 -- NO_LONG_HAUL
abbrev igConfig : Nat := 0x0702 -- IG_CONFIG
abbrev noRelay : Nat := 0x0703 -- NO_RELAY
abbrev igMismatch : Nat := 0x0704 -- IG_MISMATCH
abbrev igFormTimeout : Nat := 0x0705 -- IG_FORM_TIMEOUT
abbrev igMemberRemoved : Nat := 0x0712 -- IG_MEMBER_REMOVED
abbrev igAbandoned : Nat := 0x0714 -- IG_ABANDONED
abbrev igLeft : Nat := 0x0715 -- IG_LEFT
abbrev igJoined : Nat := 0x0716 -- IG_JOINED
abbrev lhFailover : Nat := 0x0721 -- LH_FAILOVER
abbrev nonceExhausted : Nat := 0x0730 -- NONCE_EXHAUSTED
abbrev igKeyLost : Nat := 0x0731 -- IG_KEY_LOST
abbrev postInvalid : Nat := 0x0740 -- POST_INVALID
abbrev logMismatch : Nat := 0x0741 -- LOG_MISMATCH
abbrev length : Nat := 0x0801 -- LENGTH
abbrev mismatch : Nat := 0x0802 -- MISMATCH
abbrev keyErased : Nat := 0x0803 -- KEY_ERASED
abbrev noKey : Nat := 0x0804 -- NO_KEY
abbrev slotGrant : Nat := 0x0805 -- SLOT_GRANT
abbrev blobAuth : Nat := 0x0806 -- BLOB_AUTH
abbrev blobFormat : Nat := 0x0807 -- BLOB_FORMAT
abbrev tagFail : Nat := 0x0808 -- TAG_FAIL
abbrev cipherReset : Nat := 0x0809 -- CIPHER_RESET
abbrev vaultAlarm : Nat := 0x080A -- VAULT_ALARM
abbrev noCipher : Nat := 0x080B -- NO_CIPHER
abbrev selftestFail : Nat := 0x080C -- SELFTEST_FAIL
abbrev vaultBusy : Nat := 0x080D -- VAULT_BUSY
abbrev proofBusy : Nat := 0x0901 -- PROOF_BUSY
abbrev planInvalid : Nat := 0x0902 -- PLAN_INVALID
abbrev notBoundary : Nat := 0x0903 -- NOT_BOUNDARY
abbrev cowFull : Nat := 0x0904 -- COW_FULL
abbrev sinkTimeout : Nat := 0x0905 -- SINK_TIMEOUT
abbrev sinkError : Nat := 0x0906 -- SINK_ERROR
abbrev digestFail : Nat := 0x0907 -- DIGEST_FAIL
abbrev objectInvalid : Nat := 0x0908 -- OBJECT_INVALID
abbrev genStale : Nat := 0x0909 -- GEN_STALE
abbrev cpTooSmall : Nat := 0x090A -- CP_TOO_SMALL
abbrev cpAbsent : Nat := 0x090B -- CP_ABSENT
abbrev proofAborted : Nat := 0x090C -- PROOF_ABORTED
abbrev sinkUnset : Nat := 0x090D -- SINK_UNSET
abbrev planMismatch : Nat := 0x090E -- PLAN_MISMATCH
abbrev proofSnapped : Nat := 0x0910 -- PROOF_SNAPPED
abbrev ctxState : Nat := 0x0A01 -- CTX_STATE
abbrev grantConflict : Nat := 0x0A02 -- GRANT_CONFLICT
abbrev pfOnly : Nat := 0x0A03 -- PF_ONLY
abbrev ringConfig : Nat := 0x0A04 -- RING_CONFIG
abbrev handlesFull : Nat := 0x0A05 -- HANDLES_FULL
abbrev ctxClosed : Nat := 0x0A06 -- CTX_CLOSED
abbrev jobRunning : Nat := 0x0A07 -- JOB_RUNNING
abbrev doorbellRange : Nat := 0x0A10 -- DOORBELL_RANGE
abbrev mapOverlap : Nat := 0x0A11 -- MAP_OVERLAP
abbrev mapOwned : Nat := 0x0A12 -- MAP_OWNED
abbrev ptFull : Nat := 0x0A13 -- PT_FULL
abbrev mapLimit : Nat := 0x0A14 -- MAP_LIMIT
abbrev unmapRange : Nat := 0x0A15 -- UNMAP_RANGE
abbrev pcieFailover : Nat := 0x0A20 -- PCIE_FAILOVER
abbrev failoverRefused : Nat := 0x0A21 -- FAILOVER_REFUSED
abbrev bar2Unmapped : Nat := 0x0A30 -- BAR2_UNMAPPED
abbrev dmaError : Nat := 0x0A31 -- DMA_ERROR
abbrev readOnly : Nat := 0x0B01 -- READ_ONLY
abbrev noObject : Nat := 0x0B02 -- NO_OBJECT
abbrev typeSize : Nat := 0x0B03 -- TYPE_SIZE
abbrev malformed : Nat := 0x0B04 -- MALFORMED
abbrev notReachable : Nat := 0x0B05 -- NOT_REACHABLE
abbrev stageFull : Nat := 0x0B06 -- STAGE_FULL
abbrev responseSize : Nat := 0x0B07 -- RESPONSE_SIZE
abbrev authRequired : Nat := 0x0B08 -- AUTH_REQUIRED
abbrev bootStale : Nat := 0x0B09 -- BOOT_STALE
abbrev sendersFull : Nat := 0x0B0A -- SENDERS_FULL
abbrev keyPromoted : Nat := 0x0B10 -- KEY_PROMOTED
abbrev plcaFallback : Nat := 0x0B11 -- PLCA_FALLBACK
abbrev plcaRestored : Nat := 0x0B12 -- PLCA_RESTORED
abbrev deviceReady : Nat := 0x0C01 -- DEVICE_READY
abbrev notReady : Nat := 0x0C02 -- NOT_READY
abbrev fwInvalid : Nat := 0x0C10 -- FW_INVALID
abbrev fwRollback : Nat := 0x0C11 -- FW_ROLLBACK
abbrev fwBankActive : Nat := 0x0C12 -- FW_BANK_ACTIVE
abbrev fwWriteFail : Nat := 0x0C13 -- FW_WRITE_FAIL
abbrev imageDigest : Nat := 0x0C20 -- IMAGE_DIGEST
abbrev coreWithdrawn : Nat := 0x0C30 -- CORE_WITHDRAWN
abbrev withdrawLimit : Nat := 0x0C31 -- WITHDRAW_LIMIT
abbrev notWithdrawn : Nat := 0x0C32 -- NOT_WITHDRAWN
abbrev testFail : Nat := 0x0C33 -- TEST_FAIL
abbrev engineReset : Nat := 0x0C34 -- ENGINE_RESET
abbrev notTested : Nat := 0x0C35 -- NOT_TESTED
abbrev ioActive : Nat := 0x0C36 -- IO_ACTIVE
abbrev unitStalled : Nat := 0x0C40 -- UNIT_STALLED
abbrev cmcFailover : Nat := 0x0C41 -- CMC_FAILOVER
abbrev standbyRestart : Nat := 0x0C42 -- STANDBY_RESTART
abbrev peerEscalated : Nat := 0x0C43 -- PEER_ESCALATED
end Status

/-! ## Free values: nothing in Lean can evaluate them or prove a value of them -/

namespace Config

/-- A free bit: whether a line of a region read while another unit writes it is already new (R118), and any
other choice of two the spec leaves open.  Applied to a number the step makes from `Dev.freeCtr`. -/
opaque freeBit : Nat → Bool

/-- A free 64-bit value, applied to a number the step makes from `Dev.freeCtr`. -/
opaque freeWord : Nat → BitVec 64

/-- The window (the low 128 bits) and the anchor (the 16 above) of an AP whose flags say that they are ignored, applied to a
number made from the operands it was formed from (R59). -/
opaque freeSpecial : Nat → BitVec 144

/-- The traffic class and flow label, and the hop limit, of the IPv6 headers the management port sends (R499). -/
opaque mgmtFlow : BitVec 28
opaque mgmtHops : BitVec 8

/-- Backup registers 1 to 7 of stepping A0: R551 states their value for B1 only. -/
opaque backupDev : Nat → BitVec 64

/-- Free bytes, applied to a number the step makes from `Dev.freeCtr` and to their number. -/
opaque freeByte : Nat → BitVec 8

end Config

end Sys2Proof
end

