-- ==== Sys2Proof/Machine/State.lean ====
section
/-! DEFINITION. The state of the block as plain data: every register, counter, buffer and record the spec
gives it, and the queue of waiting commands. -/

namespace Sys2Proof.Machine

/-- The fuse words (R35 to R37). -/
structure Fuses where
  /-- enabled cores per tile: 8, 7 or 6 (00 scope, 02 R36); fused. -/
  coresPerTile : Nat := 8
  /-- 32 or 24 populated stacks (00 scope, 02 R33); fused. -/
  hbm : Nat := 32
  /-- long-haul ports, cipher and Intaglio engines fitted (00 scope); fused. -/
  longHaul : Bool := true
  /-- stepping A0 rather than B1 (00 R5 to R7); fused. -/
  stepA0 : Bool := false
  /-- 16 × 8 bits; CORE_ENABLE_MAP (02 R36); fused. -/
  enable : List Nat := List.replicate 16 255
  /-- 12 characters; SERIAL (02 R36); fused. -/
  serial : List Byte := List.replicate 12 0x30#8
  /-- 6 bytes; MGMT_MAC (19 R506); fused. -/
  mac : List Byte := [2#8, 0#8, 0#8, 0#8, 0#8, 1#8]
  /-- 32 bits; DEVICE_UID (19 R506); fused. -/
  uid : Nat := 1
  /-- 8 bits of SVN fuses blown, FW_SVN_MIN (22 R560); fused. -/
  spare : Nat := 0
  /-- 4 bits; firmware verification keys revoked (22 R558, R559); fused. -/
  revoked : Nat := 0
  /-- 32 bytes; KDU, the device-unique wrap key (15 R396); fused. -/
  kdu : List Byte := List.replicate 32 0#8
  /-- 16 × 16 bits; VMIN in mV (21 R541); fused. -/
  vmin : List Nat := List.replicate 16 700
  /-- 16 × 16 bits; VMAX in mV (21 R541); fused. -/
  vmax : List Nat := List.replicate 16 900
  deriving DecidableEq, Repr

/-- The fifteen number formats, by their 4-bit code (R46). -/
inductive Fmt where
  | f32 | f16 | b16 | f8e5 | f8e4 | f6e3 | f6e2 | f4 | i8 | s32 | bs8 | bi8 | bs6 | bs4 | ap
  deriving DecidableEq, Repr

/-- An exact value on its way between formats: NaN, an infinity, or (−1)^neg × m × 2^e.  A zero keeps its
sign (R71). -/
inductive Num where
  | nan
  | inf (neg : Bool)
  | fin (neg : Bool) (m : Nat) (e : Int)
  deriving DecidableEq, Repr

/-- An anchored partial (R58, R59), with the array's internal bit NANSRC (R87 preamble), which no AP in
memory carries. -/
structure AP where
  w : Int := 0
  e : Int := -32768
  nan : Bool := false
  inf : Bool := false
  neg : Bool := false
  trunc : Bool := false
  ovf : Bool := false
  nansrc : Bool := false
  deriving DecidableEq, Repr

/-- The format events one operation counts (R75). -/
structure Ev where
  ovf : Nat := 0
  nan : Nat := 0
  flush : Nat := 0
  deriving DecidableEq, Repr

/-- The rounding control field RC (R64): RND 0 RNE, 1 RTZ, 2 SR; SAT. -/
structure RC where
  rnd : Nat := 0
  sat : Bool := false
  deriving DecidableEq, Repr

/-! ## A core (chapters 04 to 08) -/

/-- A thread's state (R113). -/
inductive TState where
  | idle | run | wait | halt | fault | stopped
  deriving DecidableEq, Repr

/-- A counter named by a stroke or a message: token or credit, and its index (R112, R136). -/
structure CtrRef where
  credit : Bool := false
  idx : Nat := 0
  deriving DecidableEq, Repr

/-- A thread's 48-byte fault record (R132). -/
structure FaultRec where
  status : Nat := 0
  source : Nat := 0
  resource : Nat := 0
  stroke : Nat := 0
  index : Nat := 0
  requested : Nat := 0
  limit : Nat := 0
  time : Nat := 0
  message : Nat := 0
  deriving DecidableEq, Repr

/-- An active loop level (R159): its level, the body's first and last index, its COUNT. -/
structure Loop where
  level : Nat
  start : Nat
  last : Nat
  count : Nat
  deriving DecidableEq, Repr

/-- A thread's flags (R162). -/
structure TFlags where
  claimOut : Bool := false
  prodErr : Bool := false
  epochNew : Bool := false
  empty : Bool := false
  deriving DecidableEq, Repr

/-- One hardware thread of a core (R111 to R114, R140, R159, R162). -/
structure Thread where
  /-- 3 bits; thread state (05_core R113); reset IDLE. -/
  state : TState := .idle
  /-- 16 bits; last non-OK status recorded, F_STATUS or B_STATUS (05_core R134); reset 0000h. -/
  status : Nat := 0
  /-- 14 bits; index of the next stroke, F_STROKE or B_STROKE (05_core R134); reset 0. -/
  pc : Nat := 0
  /-- 4 × 24 bits; loop counters LC0 to LC3 (05_core R111, 06 R140); reset 0. -/
  lc : List Nat := [0, 0, 0, 0]
  /-- active loop levels, newest first, at most 4 (06 R159); reset none. -/
  loops : List Loop := []
  /-- 4 bits; the flags CLAIM_OUT, PROD_ERR, EPOCH_NEW, EMPTY (06 R162); reset 0. -/
  flags : TFlags := {}
  /-- 48 bytes; the fault record (05_core R132); reset 48 zero bytes. -/
  fault : FaultRec := {}
  /-- 1 bit; a CLAIM of this thread is out and holds it (06 R157, R168); reset 0. -/
  claiming : Bool := false
  /-- 64 bits; the value a served CLAIM brings back, on its way to the core (08 R197, R200); reset none. -/
  claimRet : Option Nat := none
  /-- 1 bit; a stop command waits for the thread's next stroke boundary (05_core R114); reset 0. -/
  stopping : Bool := false
  /-- 1 bit; the next stroke was checked before an UNMAP and is checked again at issue (18 R465); reset 0. -/
  recheck : Bool := false
  /-- 32 bits; the mark a SYNC BARRIER compares REG_COUNT with (17 R446); reset REG_COUNT. -/
  mark : Nat := 0
  deriving DecidableEq, Repr

/-- Who wrote or will write Plate bytes: the units of a core that R118 orders against each other only by
tokens and credits. -/
inductive PUnit where
  | array | vector (th : Thr) | update | mover (th : Thr) | codec | coll | queue
  /-- the array's operand reads, which its own drains do not wait for (R97); it writes nothing -/
  | feeder
  deriving DecidableEq, Repr

/-- Bytes on their way to a Plate region: a run of bytes at an address. -/
structure Patch where
  addr : Nat
  data : List Byte
  deriving DecidableEq, Repr

/-- The scan of the next MMA stroke's chunk (R83, R87): the lane exponents of both operands (none is NONE). -/
structure ScanRec where
  stroke : Nat
  ea : List (Option Int)
  eb : List (Option Int)
  /-- the C load of an INIT C stroke has been done (R94) -/
  cDone : Bool := false
  deriving DecidableEq, Repr

/-- An MMA stroke with its shape entry read and its addresses evaluated (R144, R145). -/
structure MmaOp where
  stroke : Nat
  a : Nat
  as_ : Nat
  b : Nat
  bs : Nat
  set : Nat
  init : Nat
  last : Bool
  af : Fmt
  bf : Fmt
  acomp : Bool
  bcomp : Bool
  ofmt : Fmt
  cf : Fmt
  rc : RC
  orient : Nat
  m : Nat
  n : Nat
  kc : Nat
  stream : Nat
  out : Nat
  outScale : Nat
  c : Nat
  row0 : Nat
  col0 : Nat
  sig : Option CtrRef
  dsig : Option CtrRef
  deriving DecidableEq, Repr

/-- An MMA stroke that has issued and feeds its K-steps until OPERANDS_FREE (R85): its scan, its expansion buffers, and
the Plate at its issue, as each line of its operands is read old or new (R97). -/
structure FeedRec where
  op : MmaOp
  ea : List (Option Int)
  eb : List (Option Int)
  expA : Option (List Byte)
  expB : Option (List Byte)
  plate : List Host.Cell
  deriving DecidableEq, Repr

/-- A drain that waits for the path or runs (R95, R96). -/
structure DrainRec where
  stroke : Nat
  set : Nat
  rows : Nat
  cols : Nat
  fmt : Fmt
  rc : RC
  /-- 0 ROWS, 1 COLS (R95) -/
  orient : Nat
  out : Nat
  outScale : Nat
  stream : Nat
  row0 : Nat
  col0 : Nat
  dsig : Option CtrRef
  /-- the stroke still feeds (its last accumulation is not done) -/
  feeding : Bool := true
  deriving DecidableEq, Repr

/-- The Hatch array of a core (R79 to R102). -/
structure MmaState where
  /-- lane exponents of the scanned next chunk (04 R83, R87); reset none. -/
  scan : Option ScanRec := none
  /-- decoded element plane of the next stroke's coded A operand in expansion buffers A, 2 × 64 KiB (05 R130); reset none. -/
  expA : Option (List Byte) := none
  /-- as expA, for operand B (05 R130); reset none. -/
  expB : Option (List Byte) := none
  /-- the stroke that feeds its K-steps (04 R85); reset none. -/
  feed : Option FeedRec := none
  /-- drains waiting for the drain path, in program order (04 R96); reset none. -/
  waiting : List DrainRec := []
  /-- the drain on the path, with the patches it writes (04 R96); reset none. -/
  draining : Option (DrainRec × List Patch) := none
  /-- 128 × 128 APs; accumulator set 0, cell (i, j) at key 128 i + j (04 R87); reset the zero AP (04 R94). -/
  acc0 : SMap AP := []
  /-- 128 × 128 APs; accumulator set 1 (04 R87); reset the zero AP (04 R94). -/
  acc1 : SMap AP := []
  /-- 1 bit; set 0 is poisoned (04 R101); reset 0. -/
  poison0 : Bool := false
  /-- 1 bit; set 1 is poisoned (04 R101); reset 0. -/
  poison1 : Bool := false
  deriving DecidableEq, Repr

/-- A VEC stroke with its addresses, formats and coordinates evaluated when it became next (R146 to R148). -/
structure VecOp where
  th : Thr
  stroke : Nat
  fn : Nat
  s1 : Nat
  s1x : Nat
  s2 : Nat
  s2x : Nat
  d : Nat
  dx : Nat
  f1 : Fmt
  f2 : Fmt
  fd : Fmt
  rc : RC
  len : Nat
  stream : Nat
  scalar : Nat
  row0 : Nat
  col0 : Nat
  sig : Option CtrRef
  deriving DecidableEq, Repr

/-- A VEC stroke that has started: what it will write and the events it counts. -/
structure VecRun where
  op : VecOp
  patches : List Patch
  ev : Ev
  deriving DecidableEq, Repr

/-- The vector unit of a core (R169, R180). -/
structure VecState where
  /-- accepted strokes that have not started, in order (07 R169); reset none. -/
  queue : List VecOp := []
  /-- the stroke that uses the unit's cycles (07 R169); reset none. -/
  cur : Option VecRun := none
  /-- strokes past their T cycles that have not completed, oldest first (07 R169, R180); reset none. -/
  tail : List VecRun := []
  /-- the thread granted at the next contest for the unit (05 R124); reset F. -/
  favour : Thr := .F
  deriving DecidableEq, Repr

/-- An UPD stroke under way: what it will write (R149, R285). -/
structure UpdRun where
  stroke : Nat
  sig : Option CtrRef
  patches : List Patch
  ev : Ev
  /-- stripes by kind, in the order of UPD_FULL, UPD_WEIGHTS, UPD_DONE, UPD_TAGERR, UPD_PASSED (R287) -/
  counts : List Nat := [0, 0, 0, 0, 0]
  /-- the completion status of R279 and R280 -/
  status : Nat := 0
  /-- an uncorrectable word stopped it: it sends no signal (R281) -/
  stopped : Bool := false
  deriving DecidableEq, Repr

/-- A TARGET entry (R153). -/
structure Target where
  dev : Nat := 0
  core : Nat := 0
  isLocal : Bool := false
  queue : Nat := 0
  noteEn : Bool := false
  noteCredit : Bool := false
  noteCtr : Nat := 0
  noteAmt : Nat := 0
  deriving DecidableEq, Repr

/-- A MOVE stroke in its mover channel (R152 to R155, R617). -/
structure MoveOp where
  op : Nat
  stroke : Nat
  src : Nat
  dst : Nat
  /-- bytes -/
  len : Nat
  tgt : Option Target
  sig : Option CtrRef
  /-- the activity of R31 -/
  act : Nat
  /-- the stroke's injection stamp (R513) -/
  stamp : Nat := 0
  /-- the STORE carries the update write-back class (R510) -/
  wb : Bool := false
  started : Bool := false
  /-- what the transfer carries once it has started -/
  data : List Byte := []
  /-- first non-OK status returned to this producer (R127, R154) -/
  result : Nat := 0
  /-- queue words whose answers are still out -/
  awaiting : Nat := 0
  /-- Plate words of the destination that come from a poisoned line (R224) -/
  bad : List Nat := []
  /-- the uncorrectable source word at which the transfer stops (R105) -/
  ue : Option Nat := none
  deriving DecidableEq, Repr

/-- Who makes an access to device memory: the tile where it enters the mesh (R19), its activity (R30, R31), whether it
carries the update write-back class (R510), and its injection stamp (R513). -/
structure Who where
  tile : Nat := 0
  act : Nat := 4
  wb : Bool := false
  stamp : Nat := 0
  deriving DecidableEq, Repr

/-- A queue's configuration word QCFG (R109). -/
structure QCfg where
  base : Nat := 0
  log2 : Nat := 0
  token : Nat := 0
  en : Bool := false
  deriving DecidableEq, Repr

/-- A producer of queue words: SRC_DEV, SRC_TILE, SRC_CORE and SRC_UNIT (R125). -/
structure Producer where
  dev : Nat
  tile : Nat
  core : Nat
  unit : Nat
  deriving DecidableEq, Repr

/-- A reservation of a queue (R126). -/
structure QItem where
  prod : Producer
  /-- first word in the ring -/
  start : Nat
  len : Nat
  /-- words accepted by the queue port -/
  got : Nat := 0
  /-- words written into the ring -/
  wrote : Nat := 0
  void : Bool := false
  /-- deliverable: its token has been given -/
  delivered : Bool := false
  deriving DecidableEq, Repr

/-- One inbound queue of a core (R125 to R129). -/
structure Queue where
  /-- write pointer WP in words (05 R126); reset 0. -/
  wp : Nat := 0
  /-- read pointer RP in words (05 R126); reset 0. -/
  rp : Nat := 0
  /-- reservations in order: delivered items first, then items in assembly, at most 8 of these (05 R126, R127); reset none. -/
  items : List QItem := []
  /-- producers marked FLUSHED (true) or OVERFLOWED (false) (05 R127, R129); reset none. -/
  marks : List (Producer × Bool) := []
  deriving DecidableEq, Repr

/-- A queue word accepted by the queue port and not yet written into the ring (R126). -/
structure QWord where
  queue : Nat
  prod : Producer
  /-- ring position of the word -/
  pos : Nat
  word : Nat
  deriving DecidableEq, Repr

/-- An entry of a core's trace buffer (R165): MARK, the stroke index and TIME. -/
structure TraceRec where
  mark : Nat
  stroke : Nat
  time : Nat
  deriving DecidableEq, Repr

/-- Where an operand of a collective lies: device memory or the core's Plate, its element plane and the plane that
follows it (R326). -/
structure CollBuf where
  mem : Bool := false
  addr : Nat := 0
  sadr : Nat := 0
  deriving DecidableEq, Repr

/-- A record of the anchor or scale phase (R333, R335): the largest value, the smallest, and the NaN mark. -/
structure AncRec where
  mx : Int
  mn : Int
  nan : Bool
  deriving DecidableEq, Repr

/-- A poisoned chunk of a collective (R349): its direction, its PART, its first element, and under ALLTOALL the rank it comes
from. -/
structure CollMark where
  dir : Nat
  part : Nat
  elem : Nat
  src : Nat
  deriving DecidableEq, Repr

/-- What a collective is still to begin once the memory it touches can be accessed. -/
inductive CollDue where
  | nothing
  /-- its phase, or its data where it has none -/
  | start
  /-- its data, after the phase -/
  | data
  deriving DecidableEq, Repr

/-- A COLL stroke that has issued and not completed (R325 to R337). -/
structure CollRun where
  grp : Nat
  op : Nat
  stroke : Nat
  seq : Nat
  count : Nat
  ifmt : Fmt
  ofmt : Fmt
  rc : RC
  acc : Nat
  /-- chunk bytes, 2^n (R163) -/
  chunk : Nat
  /-- CFGSUM (R348) -/
  sum : Nat
  src : CollBuf
  dst : CollBuf
  chtok : Option Nat
  sig : Option CtrRef
  /-- the data phase has begun (R333, R335) -/
  data : Bool := false
  /-- the wire form of the partial sums: 1 narrow, 2 AP (R333 to R335) -/
  form : Nat := 1
  /-- records of the anchor or scale phase by unit of the whole buffer -/
  recs : SMap AncRec := []
  /-- units whose record is final -/
  recDone : Nat := 0
  /-- runs of the phase received once, as direction, part and first element -/
  seen : List (Nat × Nat × Nat) := []
  /-- output elements whose writes have been accepted, as runs -/
  finished : List (Nat × Nat) := []
  /-- output chunks finished in order in this epoch -/
  next : Nat := 0
  /-- chunk tokens sent for this collective (R342) -/
  sent : Nat := 0
  /-- the poisoned chunks this member knows of (R349) -/
  marks : List CollMark := []
  /-- what waits for memory that cannot be accessed yet (R231) -/
  due : CollDue := .nothing
  /-- the thread was stopped and the group holds (R347) -/
  paused : Bool := false
  /-- the stroke's injection stamp (20 R513) -/
  stamp : Nat := 0
  deriving DecidableEq, Repr

/-- One core, by logical number (chapters 04 to 08). -/
structure Core where
  /-- the F thread (05 R111). -/
  f : Thread := {}
  /-- the B thread (05 R111). -/
  b : Thread := {}
  /-- 16,384 × 128 bits; the stroke store (05 R109); reset 0 (05 R114). -/
  store : SMap Nat := []
  /-- 15 bits; F_LEN of the loaded image (05 R109); reset 0. -/
  fLen : Nat := 0
  /-- 15 bits; B_LEN of the loaded image (05 R109); reset 0. -/
  bLen : Nat := 0
  /-- 1 bit; ACCEPT_REMOTE of the loaded descriptor (05 R109); reset 0. -/
  acceptRemote : Bool := false
  /-- 1 bit; loaded with HOLD and not yet released (18 R475); reset 0. -/
  held : Bool := false
  /-- 4 × 64 bits; QCFG words (05 R109); reset 0. -/
  qcfg : List QCfg := [{}, {}, {}, {}]
  /-- 128 × 16 bits; token counters (05 R115); reset 0 (05 R114). -/
  tokens : SMap Nat := []
  /-- 64 × 16 bits; credit counters (05 R115); reset 0 (05 R114). -/
  credits : SMap Nat := []
  /-- the four inbound queues (05 R125); reset empty. -/
  queues : List Queue := [{}, {}, {}, {}]
  /-- the queue word that waits for the Plate write port (05 R126); reset none. -/
  qport : Option QWord := none
  /-- 12 MiB; the Plate, an unlisted byte is 00h (05 R103); reset 0 (05 R114). -/
  plate : List Host.Cell := []
  /-- Plate words (address / 8) that hold a double-bit error (05 R105); reset none. -/
  plateBad : List Nat := []
  /-- the Hatch array (04 R79). -/
  mma : MmaState := {}
  /-- the vector unit (07 R169). -/
  vec : VecState := {}
  /-- the UPD stroke in the update datapath (06 R149); reset none. -/
  upd : Option UpdRun := none
  /-- lowest byte of the nine planes of the last UPD stroke issued, and the first byte after the highest (20 R510);
  reset none. -/
  updSpan : Option (Nat × Nat) := none
  /-- the F thread's mover channel, at most 4 strokes (06 R155); reset none. -/
  movF : List MoveOp := []
  /-- the B thread's mover channel, at most 4 strokes (06 R155); reset none. -/
  movB : List MoveOp := []
  /-- the collective the core runs (13 R325); reset none. -/
  coll : Option CollRun := none
  /-- trace buffer, newest first (06 R165); reset empty. -/
  trace : List TraceRec := []
  deriving DecidableEq, Repr

/-! ## Claim counters (chapter 08) -/

/-- A claim on its way: the core and thread that wait for it and the stroke's fields (R157). -/
structure ClaimReq where
  core : Nat
  th : Thr
  /-- the physical counter (R195) -/
  ctr : Nat
  add : Nat
  limit : Nat
  /-- the core was reset meanwhile: the return is lost (R201) -/
  lost : Bool := false
  deriving DecidableEq, Repr

/-- One physical claim counter (R194). -/
structure ClaimCtr where
  /-- 64 bits; VALUE (08 R194); reset 0 (08 R201). -/
  value : Nat := 0
  /-- 64 bits; INIT (08 R194); reset 0 (08 R201). -/
  init : Nat := 0
  /-- GROUP number or none (08 R194); reset none (08 R201). -/
  group : Option Nat := none
  /-- 128 bits; the EXHAUSTED mask (08 R194); reset 0. -/
  exhausted : Nat := 0
  /-- held claims in arrival order (08 R198); reset none (08 R201). -/
  held : List ClaimReq := []
  deriving DecidableEq, Repr

/-- A stage group as committed (R191). -/
structure StageGroup where
  members : Nat := 0
  stage : Nat := 0
  context : Nat := 0
  valid : Bool := false
  deriving DecidableEq, Repr

/-! ## Contexts, handles and the Dictionary (chapters 18 and 19) -/

/-- A context's state (R461). -/
inductive CtxState where
  | free | opened | running | closing | error
  deriving DecidableEq, Repr

/-- A run of mapped pages (R464): the context address, the device address, the length in bytes. -/
structure Mapping where
  caddr : Nat
  daddr : Nat
  len : Nat
  write : Bool
  large : Bool
  /-- it is being removed, by the UNMAP of this handle or, with 0, by a close: checks find it gone, and accesses that were translated
  before complete (R465, R477) -/
  going : Option Nat := none
  deriving DecidableEq, Repr

/-- A command entry that has been fetched and has not started (R467, R468): its 128 bytes and its handle. -/
structure FetchedCmd where
  bytes : List Byte
  handle : Nat
  deriving DecidableEq, Repr

/-- One host context (R461, R462). -/
structure Context where
  /-- 3 bits; CTX_STATE (18 R461); reset FREE, OPEN for context 0. -/
  state : CtxState := .free
  /-- 32 bits; CMD_CONS, entries fetched (18 R459); reset 0. -/
  cmdCons : Nat := 0
  /-- 32 bits; the latest valid producer index P (18 R469); reset 0. -/
  cmdProd : Nat := 0
  /-- 32 bits; EVT_PROD, events written (18 R459); reset 0. -/
  evtProd : Nat := 0
  /-- 32 bits; EVT_CONS as last written (18 R459); reset 0. -/
  evtCons : Nat := 0
  /-- 32 bits; the pending loss count (18 R472); reset 0. -/
  pendLoss : Nat := 0
  /-- 20 bits; the next handle sequence number (18 R470); reset 1. -/
  seqNext : Nat := 1
  /-- the page tables, as runs of pages (18 R464); reset none. -/
  maps : List Mapping := []
  /-- fetched entries that have not started, in ring order (18 R468); reset none. -/
  fetched : List FetchedCmd := []
  /-- 2 bits; MBOX_STATE (18 R459); reset 0. -/
  mboxState : Nat := 0
  /-- 16 bits; MBOX_RLEN (18 R459); reset 0. -/
  mboxRlen : Nat := 0
  /-- 2,048 bytes; MBOX_REQ as taken at MBOX_GO (18 R459); reset 0. -/
  mboxReq : List Byte := []
  /-- 1,536 bytes; MBOX_RESP (18 R459); reset 0. -/
  mboxResp : List Byte := []
  /-- 64 bits; TIME of the last MSI-X message (18 R473); reset none sent. -/
  lastIntr : Option Nat := none
  /-- 1 bit; events were written that no message has announced (18 R473); reset 0. -/
  intrDue : Bool := false
  /-- events from EVT_CONS on, newest first, for rewriting at a failover (18 R456); reset none. -/
  events : List (List Byte) := []
  /-- 64 bits; TIME when BAR2_UNMAPPED was last posted (18 R466); reset none. -/
  lastUnmapped : Option Nat := none
  /-- JOB_START's argument while the context runs (18 R476); reset 0. -/
  job : Nat := 0
  deriving DecidableEq, Repr

/-- A handle table entry (R470). -/
structure HandleRec where
  status : Nat := 0
  complete : Bool := false
  tag : Nat := 0
  result : Nat := 0
  /-- the completion is to be posted (EVENT, or a mailbox or management command) (R472) -/
  post : Bool := true
  /-- the index of its event, once written (R470) -/
  event : Option Nat := none
  /-- the handle of a command ring entry (R468) -/
  entry : Bool := false
  /-- a NOTIFY frame goes to this sender's address (R504) -/
  notify : Option Nat := none
  deriving DecidableEq, Repr

/-- A staged value (R486). -/
structure Staged where
  idx : Nat
  sub : Nat
  val : Nat
  len : Nat
  deriving DecidableEq, Repr

/-- An entry of a write report (R485). -/
structure ReportEntry where
  idx : Nat
  sub : Nat
  cause : Nat
  bit : Nat
  width : Nat
  requested : Nat
  applied : Nat
  deriving DecidableEq, Repr

/-- A principal's write report (R485). -/
structure Report where
  seq : Nat := 0
  status : Nat := 0
  entries : List ReportEntry := []
  deriving DecidableEq, Repr

/-- What the Dictionary keeps for one principal (R482, R486, R507). -/
structure PrincipalState where
  /-- the staged set, at most 256 objects and 32 KiB (19 R486); reset empty. -/
  staged : List Staged := []
  /-- WRITE_REPORT, up to 1,552 bytes (19 R485); reset 16 zero bytes. -/
  report : Report := {}
  /-- 4 bytes each; the last handle each CMD object issued to the principal (19 R483); reset 0. -/
  handles : SMap Nat := []
  deriving DecidableEq, Repr

/-- An entry of the sender table (R496). -/
structure Sender where
  id : Nat
  /-- the highest SEQ accepted -/
  high : Nat
  /-- 32 bits: bit i is SEQ high − 1 − i -/
  bitmap : Nat
  /-- TIME of the last accepted frame -/
  last : Nat
  /-- the address responses and NOTIFY frames go to -/
  addr : Nat
  /-- cached responses: SEQ, request bytes, response bytes -/
  cache : List (Nat × List Byte × List Byte)
  deriving DecidableEq, Repr

/-! ## Memory (chapter 09) -/

/-- A line in a tile cache (R220): its line number (device address / 256) and whether it is dirty. -/
structure TcLine where
  line : Nat
  dirty : Bool
  deriving DecidableEq, Repr

/-- A line request at a bank (R219, R221): the requester's number, who it is and, for a write, the offset in the line
and the bytes. -/
structure TcWaiter where
  req : Nat
  who : Who
  write : Option (Nat × List Byte)
  deriving DecidableEq, Repr

/-- A fill outstanding in a bank (R221): its waiters in order, the first of which began it, and whether the controller
port has granted it (R509). -/
structure TcFill where
  line : Nat
  waiters : List TcWaiter
  granted : Bool := false
  deriving DecidableEq, Repr

/-- The state of a stack (R234, 3050h). -/
inductive StackState where
  | absent | ready | calibrating | retraining | selfRefresh | failed
  deriving DecidableEq, Repr

/-- One stack with its controller, by 2 t + p (R213, R225, R231, R234). -/
structure Stack where
  /-- STACK_STATE (09 R234); reset READY where populated. -/
  state : StackState := .ready
  /-- corrected errors of the current burnish period by granule (09 R226); reset none. -/
  ces : SMap Nat := []
  /-- training attempts that failed since the controller was reset (09 R232); reset 0. -/
  trainFails : Nat := 0
  /-- requests that need the stack and wait in their shares, with their line, in arrival order (09 R231); reset none. -/
  waiting : List (Nat × TcWaiter) := []
  deriving DecidableEq, Repr

/-- Device memory with its tile caches (chapter 09). -/
structure ExtMem where
  /-- device memory as every requester sees it through the home tile cache (09 R20, R21); an unlisted byte reads 00h (09 R229). -/
  bytes : List Host.Cell := []
  /-- poisoned lines, rising (09 R224); reset none. -/
  poison : List Nat := []
  /-- lines whose stack copy is poisoned under a good copy in the cache, rising (09 R224, R225); reset none. -/
  hidden : List Nat := []
  /-- writes to protected granules held at their banks, with their line, in arrival order (16 R419); reset none. -/
  cowHeld : List (Nat × TcWaiter) := []
  /-- resident lines by set, key ((tile × 16 + bank) × 512 + set), at most 12 each (09 R220); reset none. -/
  sets : SMap (List TcLine) := []
  /-- requests raised at a bank that it has not served, with their line, in arrival order, key tile × 16 + bank; of each
  activity the first in number of its share are in the input queue, the rest in the mesh (09 R219); reset none. -/
  banks : SMap (List (Nat × TcWaiter)) := []
  /-- fills outstanding by bank, key tile × 16 + bank, at most 32 each (09 R221); reset none. -/
  fills : SMap (List TcFill) := []
  /-- the stacks, key 2 t + p (09 R213). -/
  hbm : SMap Stack := []
  /-- the retirement list in flash, in order, at most 16,384 (09 R226); kept across every reset. -/
  retired : List Nat := []
  /-- retired granules not yet entered in the flash list (09 R226). -/
  retiring : List Nat := []
  /-- mapped granules retired while mapped, PENDING_COUNT (09 R227). -/
  pending : List Nat := []
  deriving DecidableEq, Repr

/-! ## Codec engines (chapter 10) -/

/-- A CODE operation held by a bulk codec engine (R164, R254), with its addresses evaluated. -/
structure CodeOp where
  core : Nat
  stroke : Nat
  op : Nat
  /-- the source is in device memory (true) or in the core's Plate -/
  srcMem : Bool
  src : Nat
  dstMem : Bool
  dst : Nat
  recMem : Bool
  recAt : Nat
  mapMem : Bool
  mapAt : Nat
  /-- LEN in sectors -/
  len : Nat
  book : Nat
  sig : Option CtrRef
  /-- the stroke's injection stamp (20 R513) -/
  stamp : Nat := 0
  /-- a segment that the tile's Intaglio engine has decoded (14 R375): holder, sender's rank, round and segment; `core` is then
  4,096, no core -/
  seg : Option (Nat × Nat × Nat × Nat) := none
  deriving DecidableEq, Repr

/-- A write an operation will make: to a core's Plate, or to device memory at a device address. -/
structure OutPatch where
  mem : Bool
  core : Nat
  addr : Nat
  data : List Byte
  deriving DecidableEq, Repr

/-- A CODE operation that has started (R254, R257): what it writes, or the fault it ends with. -/
structure CodeRun where
  op : CodeOp
  outs : List OutPatch
  fault : Nat := 0
  /-- address of the uncorrectable word, for PLATE_UE -/
  at_ : Nat := 0
  /-- what each counter of R261 gains at completion, by its number in the engine's block -/
  stats : List (Nat × Nat) := []
  deriving DecidableEq, Repr

/-- A bulk codec engine, key 2 × tile + engine (R254). -/
structure CodecEngine where
  /-- operations held and not started, at most 16 with the running one (10 R254); reset none. -/
  queue : List CodeOp := []
  /-- the running operation (10 R254); reset none. -/
  run : Option CodeRun := none
  deriving DecidableEq, Repr

/-! ## The torus (chapter 12) -/

/-- A packet of the torus (R301), with the virtual channel it travels on (R302): 0 to 3 VC0 to VC3, 4 MGMT. -/
structure Packet where
  dest : Nat
  src : Nat
  kind : Nat
  act : Nat
  addr : Nat
  data : List Byte
  vc : Nat
  /-- on the escape twin (R305) -/
  esc : Bool := false
  /-- the injection stamp (R513) -/
  stamp : Nat := 0
  deriving DecidableEq, Repr

/-- A torus port's state (R309). -/
inductive PortState where
  | disabled | training | up | degraded | down | miswired | restored
  deriving DecidableEq, Repr

/-- A lane replacement or narrowing in progress (R311, R312). -/
structure LaneSwap where
  failed : Nat
  spare : Nat
  narrow : Bool
  /-- the SWITCH codeword count -/
  switch : Nat
  /-- the other side has confirmed it -/
  acked : Bool := false
  deriving DecidableEq, Repr

/-- A DATA flit in a replay buffer (R298), and how often it has been resent (R299). -/
structure SentFlit where
  flit : Flit
  resends : Nat := 0
  deriving DecidableEq, Repr

/-- One torus port (R294 to R317). -/
structure Port where
  /-- PORT_STATE (12 R309); reset DISABLED. -/
  state : PortState := .disabled
  /-- 16 bits; SEQ of the next DATA flit sent (12 R298); reset 0 at training (12 R313). -/
  sendSeq : Nat := 0
  /-- 16 bits; SEQ the receiver expects (12 R299); reset 0 at training. -/
  expSeq : Nat := 0
  /-- 4,096 flits; the replay buffer, oldest first (12 R298); reset empty. -/
  replay : List SentFlit := []
  /-- 1 bit; a NAK was sent and the flit it asks for has not come (12 R299); reset 0. -/
  nakOut : Bool := false
  /-- send credits: VC0 to VC3 at 0 to 3, their escape twins at 4 to 7, MGMT at 8 (12 R303); reset 0. -/
  credits : List Nat := [0, 0, 0, 0, 0, 0, 0, 0, 0]
  /-- packets that wait for credits, in order (12 R303); reset none. -/
  waiting : List Packet := []
  /-- receive buffers: flits received, oldest first (12 R303); reset empty. -/
  rx : List Flit := []
  /-- lane replacements asked for, the one in progress first (12 R311, R312); reset none. -/
  swaps : List LaneSwap := []
  /-- hop-delay estimates of a measurement, in 1/32 CORE cycles (12 R314); reset none. -/
  estimates : List Int := []
  /-- 1 bit; the identity exchange of the attempt under way has passed (12 R313); reset 0. -/
  ident : Bool := false
  /-- 1 bit; a hop-delay measurement is under way (12 R314); reset 0. -/
  measuring : Bool := false
  /-- 1 bit; the link stays trained and carries MGMT although the port is DOWN with cause 3 (12 R309); reset 0. -/
  mgmtOnly : Bool := false
  /-- flit buffers freed and not yet returned, by channel as `credits` (12 R303); reset 0. -/
  crOut : List Nat := [0, 0, 0, 0, 0, 0, 0, 0, 0]
  /-- the cycle in which the last PROBE left (12 R314); reset 0. -/
  probeAt : Nat := 0
  /-- 1 bit; a training attempt has ended since the device reset (12 R310); reset 0. -/
  tried : Bool := false
  /-- 1 bit; the port has gone down since it was last in service (12 R308, R310); reset 0. -/
  fell : Bool := false
  /-- 1 bit; the port runs on 12 lanes until it is reset (12 R312); reset 0. -/
  narrow : Bool := false
  deriving DecidableEq, Repr

/-- A ring's record of a link (R307, R308): the axis (0 X, 1 Y, 2 Z) and the coordinate c of the link from c
to c + 1; down or up, and whether routes follow it yet (ROUTE_QUIET). -/
structure LinkRec where
  axis : Nat
  at_ : Nat
  down : Bool
  routed : Bool
  deriving DecidableEq, Repr

/-! ## What leaves the block -/

/-- Something the block sends to its surroundings. -/
inductive Out where
  /-- a memory write on the active PCIe port (events, mailbox pages are read by the host) -/
  | hostWrite (pasid addr : Nat) (data : List Byte)
  /-- the response of a context's mailbox (R460) -/
  | mbox (ctx : Nat) (data : List Byte)
  /-- an MSI-X message of a function's vector (R473) -/
  | msix (fn vec : Nat)
  /-- a flit on a torus port (R296) -/
  | flit (port : Nat) (f : Flit)
  /-- the status of a queue word, back to its producer on another device (R125) -/
  | queueStatus (p : Producer) (status : Nat)
  /-- the answer of a tile-cache bank to a requester (R221, R224) -/
  | lineReply (req : Nat) (data : List Byte) (poisoned : Bool)
  /-- an Ethernet frame on the management port (R499) -/
  | mgmt (frame : List Byte)
  /-- FORM for the holder at an X coordinate goes to the home engine of a rank, with the digest of R353 -/
  | form (x rank digest : Nat)
  /-- an Ethernet frame on a sub-link of a long-haul port, 2 p for A and 2 p + 1 for B (R364) -/
  | longHaul (port : Nat) (frame : List Byte)
  /-- the completion of a BAR2 read (R466): Unsupported Request, or data with the EP bit -/
  | bar2Reply (data : Option (List Byte)) (ep : Bool)
  /-- a write to another PCIe function (the sink of a proof) -/
  | peerWrite (addr : Nat) (data : List Byte)
  /-- a read request to another PCIe function (the sink of a restore, R423) -/
  | peerRead (addr len : Nat)
  /-- an event posted to the CMC (R131): status and argument -/
  | cmcEvent (status arg : Nat)
  /-- a module pin driven to a level -/
  | pin (name : String) (level : Bool)
  deriving DecidableEq, Repr

/-- A record of the error log (R579): TIME, BOOT, STATUS, SEVERITY, UNIT, PHYS and the items of DETAIL. -/
structure LogEntry where
  /-- ESEQ, the record's number since POR -/
  seq : Nat
  time : Nat
  boot : Nat
  status : Nat
  severity : Nat
  unit : Nat
  phys : Nat
  detail : List Nat
  deriving DecidableEq, Repr

/-! ## Collectives (chapter 13) -/

/-- A SUSPECT of this device that waits for EXTEND or COMMIT (R339, R344): the rank suspected, the rank it went to,
and the attempts made after the first. -/
structure SuspectRec where
  /-- the rank of the member that sent it -/
  me : Nat
  rank : Nat
  sentTo : Nat
  tries : Nat := 0
  deriving DecidableEq, Repr

/-- A suspect this device probes as coordinator (R340): its rank, the ranks that proposed it, and whether it was
found DEAD. -/
structure ProbeRec where
  rank : Nat
  proposers : List Nat
  dead : Bool := false
  deriving DecidableEq, Repr

/-- A GROUP_FORM under way (R323): its handles and the ranks that have not answered. -/
structure FormRec where
  handles : List Nat
  left : List Nat
  deriving DecidableEq, Repr

/-- A collective group of this device (R323, R324). -/
structure Group where
  /-- 3 bits; STATE (13 R324); reset 0. -/
  state : Nat := 0
  /-- 16 bits; EPOCH (13 R324); reset 0. -/
  epoch : Nat := 0
  /-- 32 bits; SEQ (13 R324); reset 0. -/
  seq : Nat := 0
  /-- 256 bits; PRESENT, one bit per coordinate or core (13 R324); reset 0. -/
  present : Nat := 0
  /-- 32 bits; REFORMS (13 R324); reset 0. -/
  reforms : Nat := 0
  /-- 64 bits; STALE_PKTS (13 R324); reset 0. -/
  stale : Nat := 0
  /-- 32 bits; SLOW_RX (13 R324); reset 0. -/
  slowRx : Nat := 0
  /-- 64 bits; COLL_TRUNC (13 R324); reset 0. -/
  trunc : Nat := 0
  /-- collectives a core has completed beyond SEQ while others of the device have not (13 R325); reset none. -/
  ahead : SMap Nat := []
  /-- 1 bit; the group's deadline timers are suspended (13 R347); reset 0. -/
  hold : Bool := false
  /-- extensions of the item expected from a rank by SLOW (13 R346); reset none. -/
  ext : SMap Nat := []
  /-- the SUSPECTs that wait for their answers, oldest first (13 R344); reset none. -/
  suspects : List SuspectRec := []
  /-- suspects this device probes as coordinator (13 R340); reset none. -/
  probing : List ProbeRec := []
  /-- a GROUP_FORM under way (13 R323); reset none. -/
  forming : Option FormRec := none
  /-- ranks whose FORM waits for this device to form the group (13 R323); reset none. -/
  asked : List Nat := []
  /-- SEQ of the collectives of this epoch in which a chunk is poisoned (13 R349); reset none. -/
  bad : List Nat := []
  /-- 1 bit; the group was dissolved after an exclusion and needs a new descriptor (13 R343); reset 0. -/
  needDesc : Bool := false
  deriving DecidableEq, Repr

/-! ## Key vault and cipher units (chapter 15) -/

/-- A loaded key slot (R392, R396): the 16-byte header of the blob and the 32-byte key. -/
structure KeySlot where
  header : List Byte
  key : List Byte
  deriving DecidableEq, Repr

/-- A SEAL or OPEN of a context on a long-haul cipher engine (R403): its regions as runs of device addresses. -/
structure CipherOp where
  engine : Nat
  ctx : Nat
  handle : Nat
  openOp : Bool
  slot : Nat
  /-- 12 bytes, the IV (R402) -/
  iv : List Byte
  aad : List (Nat × Nat)
  src : List (Nat × Nat)
  dst : List (Nat × Nat)
  tag : List (Nat × Nat)
  /-- the start transfer is over: the whole output, the tag computed, and the lines of DST written so far -/
  run : Option (List Byte × List Byte × List Nat) := none
  /-- a source line was poisoned when it was read (R224) -/
  bad : Bool := false
  /-- the descriptor's 64 bytes -/
  raw : List Byte := []
  /-- the descriptor's injection stamp (20 R513) -/
  stamp : Nat := 0
  deriving DecidableEq, Repr

/-- The state of the vault (R409). -/
inductive VaultState where
  | off | selftest | service | test | recovery | alarmed
  deriving DecidableEq, Repr

/-- A load or an erase that waits for the vault bus (R399): its handle, its slot (none: every slot), the blob of a load, who sent it
and by which source, and its injection stamp (R513). -/
structure KeyCmd where
  handle : Nat
  slot : Option Nat
  blob : List Byte := []
  prin : Nat
  src : Nat
  stamp : Nat
  deriving DecidableEq, Repr

/-- The key vault, its two copies as one slot set (R393), and the cipher units (R392 to R410). -/
structure Vault where
  /-- 3 bits; VAULT_STATE (15 R409); reset OFF. -/
  state : VaultState := .off
  /-- 256 slots, EMPTY where not listed (15 R392); reset EMPTY. -/
  slots : SMap KeySlot := []
  /-- 32 bits each; SLOT_GEN (15 R397); reset 0. -/
  gens : SMap Nat := []
  /-- alarm sources that are active: 1 glitch, 2 clock, 3 temperature (15 R408); reset none. -/
  sources : List Nat := []
  /-- 1 bit; the last self-test passed (15 R409, R410); reset 0. -/
  passed : Bool := false
  /-- units under test with the handle of the command: 0, 1 engines, 2 management (15 R411); reset none. -/
  testing : List (Nat × Option Nat) := []
  /-- descriptors accepted and not completed, in order (15 R405); reset none. -/
  ops : List CipherOp := []
  /-- loads and erases that wait for the vault bus, oldest first (15 R399, 20 R515); reset none. -/
  waits : List KeyCmd := []
  /-- 1 bit; in SERVICE, the next key copy meets a mismatch (15 R393, R407, R409); reset 0. -/
  clash : Bool := false
  deriving DecidableEq, Repr

/-! ## Intaglio (chapter 14) -/

/-- A datagram to be sent (R365, R366): its destination rank, its header fields, the payload of a control type, and the
frame itself when it is sent again from retention (R371). -/
structure Dgram where
  typ : Nat
  rank : Nat
  round : Nat
  seg : Nat := 0
  group : Nat := 0
  index : Nat := 0
  k : Nat := 0
  p : Nat := 0
  len : Nat := 0
  payload : List Byte := []
  again : Option (List Byte) := none
  /-- the holder's epoch when it was made (14 R365) -/
  epoch : Nat := 0
  /-- the injection stamp (20 R513) -/
  stamp : Nat := 0
  deriving DecidableEq, Repr

/-- A frame kept in a port's retention buffer (R372), with the datagram and the holder it was built for. -/
structure Kept where
  x : Nat
  dg : Dgram
  frame : List Byte
  deriving DecidableEq, Repr

/-- A segment of a stream while it is received (R373, R375): STREAM_LEN, its datagrams, its place in a port's intake, and whether
it has been decoded and waits for its slot set. -/
structure RecvSeg where
  len : Nat
  /-- the datagrams held, by group and index: their bytes, none of a data slice that is in the intake -/
  groups : SMap (SMap (List Byte)) := []
  decoded : Option (List Byte) := none
  /-- the port whose intake takes it (R375) -/
  port : Nat := 0
  /-- the intake's slices that are its own, in order (R375; log entry 74) -/
  place : List Nat := []
  deriving DecidableEq, Repr

/-- What a holder has of one rank's contribution to a round (R373, R377). -/
structure Contrib where
  /-- END parts by number: their STREAM_LENs (R367) -/
  parts : SMap (List Nat) := []
  nseg : Option Nat := none
  segs : SMap RecvSeg := []
  /-- segments written into the slot -/
  written : List Nat := []
  /-- damaged decodes by segment -/
  damaged : SMap Nat := []
  abandoned : Bool := false
  /-- the segments and groups a NAK has gone for (R373, R389) -/
  naked : List (Nat × Nat) := []
  deriving DecidableEq, Repr

/-- A segment the holder has posted (R362, R363): where the plane lies, the length of its stream, its codebook entry, and its
plane index as read. -/
structure PostSeg where
  plane : Nat
  len : Nat
  book : List Byte
  idx : List Byte := []
  deriving DecidableEq, Repr

/-- One round of a holder at its home engine (R352). -/
structure IgRound where
  /-- segments posted and readable -/
  segs : SMap PostSeg := []
  /-- every segment number posted -/
  posted : List Nat := []
  /-- NSEG of the ROUND_END taken (R360) -/
  ended : Option Nat := none
  /-- (rank, segment) and (rank, END part) acknowledged (R373) -/
  segAcks : List (Nat × Nat) := []
  endAcks : List (Nat × Nat) := []
  recv : SMap Contrib := []
  /-- HAVE as reported (R377) -/
  reported : Option Nat := none
  /-- DEADLINE_MS has passed (R377) -/
  late : Bool := false
  /-- ADMIT_WAIT_MS has passed at the coordinator (R378) -/
  waited : Bool := false
  /-- reports the coordinator holds, by rank (R378) -/
  reports : SMap Nat := []
  /-- the ADMIT decision: mask and epoch (R378) -/
  admitted : Option (Nat × Nat) := none
  /-- what the round log holds for the round, once it has been read in replay mode (R378) -/
  logged : Option (Option Nat) := none
  deriving DecidableEq, Repr

/-- IG_STATE (R388). -/
inductive IgState where
  | unformed | formed | running | joining | removed | abandoned | fault
  deriving DecidableEq, Repr

/-- A COMMIT a holder has taken (R366, R381): the new epoch, FROM_ROUND, PRESENT, the joiner's rank (255 none), and the rank that
sent it. -/
structure IgCommit where
  epoch : Nat
  from_ : Nat
  present : Nat
  joiner : Nat
  sender : Nat
  deriving DecidableEq, Repr

/-- A served holder's round state at its home engine (R352, R388), by X coordinate. -/
structure Holder where
  /-- 3 bits; IG_STATE (14 R388); reset 0. -/
  state : IgState := .unformed
  /-- 1 bit; the port whose engine serves the holder (14 R352, R386). -/
  port : Nat := 0
  /-- 256 bytes; the IG block as read (14 R359). -/
  block : List Byte := []
  /-- 32 bits; ROUND (14 R388); reset 0. -/
  round : Nat := 0
  /-- 16 bits; EPOCH (14 R388); reset 0. -/
  epoch : Nat := 0
  /-- 64 bits; PRESENT (14 R388); reset 0. -/
  present : Nat := 0
  /-- 64 bits; LAST_ADMIT (14 R388); reset 0. -/
  lastAdmit : Nat := 0
  /-- 6 bits; COORD (14 R388); reset 0. -/
  coord : Nat := 0
  /-- 8 bits; MISSES (14 R388); reset 0. -/
  misses : Nat := 0
  /-- consecutive misses by rank (14 R381). -/
  missBy : SMap Nat := []
  /-- 64 bits each; ROUNDS_ADMITTED, ROUNDS_MISSED, LATE, DROPPED and REMOVALS (14 R388); reset 0. -/
  counts : List Nat := [0, 0, 0, 0, 0]
  /-- 32 bits; SEQ of the next post (14 R360); reset 1. -/
  nextPost : Nat := 1
  /-- rounds released by RELEASE (14 R361). -/
  released : List Nat := []
  /-- the rounds not yet admitted (14 R374). -/
  rounds : SMap IgRound := []
  /-- a COMMIT whose FROM_ROUND is not past the round being applied took effect (14 R380). -/
  commitAt : Option Nat := none
  /-- COMMITs taken whose FROM_ROUND has not come, oldest first (14 R381, R384). -/
  commits : List IgCommit := []
  /-- rounds with the ranks that were not admitted to them (14 R379). -/
  lateOf : List (Nat × Nat) := []
  /-- ranks that asked to join (14 R384). -/
  joiners : List Nat := []
  /-- joiners whose state stream has not been acknowledged, with FROM_ROUND (14 R384). -/
  donating : SMap Nat := []
  /-- FROM_ROUND of this holder's own join (14 R385). -/
  joinFrom : Option Nat := none
  /-- the state stream while it is received (14 R385). -/
  joinRecv : Option RecvSeg := none
  /-- the groups of the state stream a NAK has gone for (14 R373). -/
  joinNaked : List Nat := []
  /-- the handles of IG_JOIN (14 R384). -/
  joinHandles : List Nat := []
  /-- the IG block is to be read (14 R359, R386). -/
  blockDue : Bool := false
  /-- datagrams to be sent, in order (14 R372). -/
  queue : List Dgram := []
  /-- TIME a datagram of a rank last arrived (14 R381). -/
  heard : SMap Nat := []
  deriving DecidableEq, Repr

/-- A long-haul port (R386, R389). -/
structure LhPort where
  /-- 1 bit; both sub-links are up (14 R386); reset 0. -/
  up : Bool := false
  /-- 1 bit; the last nonce has been used (14 R371); reset 0. -/
  exhausted : Bool := false
  /-- the retention buffer, oldest first (14 R372); reset empty. -/
  kept : List Kept := []
  /-- the destination served last: 64 x + rank (14 R372); reset 0. -/
  last : Nat := 0
  /-- frames received while the vault bus is frozen, with their TYPE, oldest first (15 R399, 20 R515); reset none. -/
  held : List (Nat × List Byte) := []
  deriving DecidableEq, Repr

/-- A read of an L-variant holder's memory over the torus (R376): the holder's X coordinate, what it asks for, and the answer once
it has come, empty where the memory is poisoned. -/
structure HoldRead where
  x : Nat
  addr : Nat
  len : Nat
  ans : Option (List Byte) := none
  deriving DecidableEq, Repr

/-- An IG_FORM under way (R353): its handles, and the counterparts (64 x + rank) that have formed. -/
structure IgFormRec where
  handles : List Nat
  formed : List Nat := []
  /-- answers that have come: X, rank and digest -/
  answers : List (Nat × Nat × Nat) := []
  /-- the IG blocks have been read and FORM has been sent -/
  sent : Bool := false
  deriving DecidableEq, Repr

/-! ## Proofs (chapter 16) -/

/-- A piece of a region that is to be drained (R419, R420): a device-memory granule, or up to 4 KiB of a Plate region as
copied into the core's proof partition. -/
structure PItem where
  region : Nat
  off : Nat
  /-- the granule number, or none for a Plate piece -/
  gran : Option Nat
  /-- the core and the Plate address a Plate piece is drained from -/
  core : Nat := 0
  addr : Nat := 0
  len : Nat
  file : Bool
  cp : Bool
  deriving DecidableEq, Repr

/-- A sink record that has not been acknowledged (R423): its SEQ. -/
structure SinkRec where
  seq : Nat
  manifest : Bool
  deriving DecidableEq, Repr

/-- A PROOF_START or a RESTORE whose plan has not been read yet (R413): its handle, context and argument, and for a RESTORE what
the file store answers to its READ records (R423, R429): device, object and bytes. -/
structure ProofCmd where
  handle : Nat
  ctx : Nat
  arg : Nat
  restore : Bool := false
  store : List (Nat × Nat × List Byte) := []
  deriving DecidableEq, Repr

/-- A piece of an object of the file store, or of the neighbour's bank, that a restore reads (R423, R429): the device and the
object that name it (0 for the bank), its offset and its length. -/
structure RPart where
  dev : Nat := 0
  object : Nat := 0
  off : Nat
  len : Nat
  deriving DecidableEq, Repr

/-- What a restore is reading or doing (R429). -/
inductive RStage where
  /-- the first 4 KiB of a manifest, or the bank header (step 1) -/
  | head
  /-- the rest of a manifest (step 1) -/
  | rest
  /-- an object, or a region of the bank (step 3) -/
  | payload
  /-- the payload that was checked is being written (step 3), or zeros are (step 4) -/
  | write
  deriving DecidableEq, Repr

/-- A restore under way (R429). -/
structure RestoreRun where
  handle : Nat
  ctx : Nat
  /-- SOURCE: 1 CP -/
  cp : Bool
  src : Nat
  gen : Nat
  plan : List (List Byte)
  store : List (Nat × Nat × List Byte)
  stage : RStage := .head
  /-- the device whose manifest is being read -/
  dev : Nat
  /-- the bytes of the manifest read so far -/
  man : List Byte := []
  /-- entries to be restored: the device that wrote them, and the entry; none before step 2 has passed -/
  todo : Option (List (Nat × List Byte)) := none
  /-- regions that the proof names -/
  named : List Nat := []
  /-- pieces to be asked for, in order -/
  reads : List RPart := []
  /-- pieces asked for: the SEQ of the READ record (0 for the bank), oldest first -/
  flight : List (Nat × RPart) := []
  /-- pieces that have come -/
  got : List (RPart × List Byte) := []
  /-- what is to be written: region, offset and bytes -/
  writes : List (Nat × Nat × List Byte) := []
  /-- what has been written: region, offset and length -/
  written : List (Nat × Nat × Nat) := []
  /-- step 4 has been begun -/
  zeroed : Bool := false
  /-- the status a failed restore ends with -/
  status : Nat := 0
  deriving DecidableEq, Repr

/-- The proof engine (R413 to R432). -/
structure Proof where
  /-- 3 bits; PROOF_STATE (16 R430): 0 IDLE to 5 ABORTING; reset IDLE. -/
  state : Nat := 0
  ctx : Nat := 0
  handle : Nat := 0
  gen : Nat := 0
  /-- [0] FILE, [1] CP (16 R430) -/
  dest : Nat := 0
  note : Nat := 0
  step : Nat := 0
  /-- the physical claim counter that triggers the arm, none for an immediate one (16 R417) -/
  trigger : Option Nat := none
  thresh : Nat := 0
  /-- the plan's entries, 32 bytes each, as read at PROOF_START (16 R413) -/
  plan : List (List Byte) := []
  /-- granules protected and neither copied nor drained (16 R419) -/
  guard : List Nat := []
  /-- copies in the COW buffer, oldest first: the granule, and the granule of the COW region that holds its copy (16 R419) -/
  cow : List (Nat × Nat) := []
  /-- granules whose writes are held because the COW buffer is full (16 R421, HELD_WRITES) -/
  full : List Nat := []
  /-- pieces not drained, in plan order (16 R420) -/
  left : List PItem := []
  /-- tiles whose Plate regions have been copied (16 R420) -/
  copied : List Nat := []
  /-- drained bytes by (region, offset), for the digests (16 R425) -/
  got : List (Nat × Nat × List Byte) := []
  /-- objects whose header record has been sent (16 R425) -/
  headed : List Nat := []
  /-- the sealed manifest that a bulk mover is to write (16 R426) -/
  manifest : Option (List Byte) := none
  /-- slot 2 was erased during sealing (16 R431) -/
  keyLost : Bool := false
  /-- the status an aborting proof ends with (16 R431) -/
  status : Nat := 0
  /-- 32 bits; SEQ of the next sink record (16 R423); reset 1. -/
  seqNext : Nat := 1
  /-- records in flight, oldest first (16 R423) -/
  flight : List SinkRec := []
  /-- PROOF_START and RESTORE commands whose plan has not been read, oldest first (16 R413) -/
  waits : List ProofCmd := []
  /-- restores under way (16 R429) -/
  restores : List RestoreRun := []
  deriving DecidableEq, Repr

/-! ## Clocks, power and ageing (chapter 21), and the registration barrier (chapter 17) -/

/-- A voltage margin plan (R536): ROOT_PLANNED in MHz and the rail of each tile in mV. -/
structure MarginPlan where
  root : Nat
  rails : List Nat
  deriving DecidableEq, Repr

/-- The Power Manager (R529 to R540). -/
structure Power where
  /-- a plan that waits, PLAN_PENDING (21 R537); reset none. -/
  waiting : Option MarginPlan := none
  /-- the last applied plan, in flash (21 R537); kept across every reset. -/
  flash : Option MarginPlan := none
  /-- 1 bit; a plan has been applied and MARGIN_APPLIED follows the end of its slew (21 R537); reset 0. -/
  applying : Bool := false
  /-- 65,536 × 64 bytes; the ageing log in flash, by RSEQ mod 65,536 (21 R540); kept across every reset. -/
  ageLog : SMap (List Byte) := []
  /-- hottest tile since the last record, in 1/16 °C (21 R540); reset none. -/
  tmax : Option Int := none
  /-- the hottest sensor at the last reading, in 1/16 °C, also in reset (21 R532); reset 0. -/
  hottest : Int := 0
  /-- temperature range of each tile at its last reading: 0 below 100 °C, 1, 2, 3 (21 R531); reset 0. -/
  range : SMap Nat := []
  /-- 1 bit; THERM_ALARM_N is asserted (21 R531); reset 0. -/
  alarm : Bool := false
  /-- 6 bits; the cycle of the issue gate's frame (21 R527); reset 0. -/
  frame : Nat := 0
  /-- G of each tile in this frame, and the subindex of the counter of the controller that set it (21 R527, R528); reset 64. -/
  gates : SMap (Nat × Nat) := []
  /-- a thermal trip whose 10 ms have not passed: its tile, the cycle in which the device enters reset, and whether a flash pulse was
  under way (21 R532, 22 R549); reset none. -/
  trip : Option (Nat × Nat × Bool) := none
  /-- 1 bit; the busbar fell below 46 V and has not been above 47 V for 1 ms since (21 R533); reset 0. -/
  low : Bool := false
  /-- 1 bit; the busbar rose above 58 V and has not been at or below 57.5 V for 1 ms since (25 R614); reset 0. -/
  high : Bool := false
  deriving DecidableEq, Repr

/-- A REG_READY as received (R444): REG_ID, ROOT_DEV and FAIL. -/
structure RegMsg where
  id : Nat
  root : Nat
  fail : Bool
  deriving DecidableEq, Repr

/-- The registration barrier (R443 to R447); REG_STATE, REG_COUNT and the rest are objects C000h. -/
structure Reg where
  /-- the handle of REG_ARM (17 R451); reset none. -/
  handle : Option Nat := none
  /-- 32 bits; REG_ID of the barrier armed (17 R444); reset 0. -/
  id : Nat := 0
  /-- 16 bits; ROOT_DEV of the barrier armed (17 R443); reset 0. -/
  root : Nat := 0
  /-- 64 bits; RELEASE of the wave (17 R445); reset 0. -/
  release : Nat := 0
  /-- REG_READY received and not used, by port (17 R444); reset none. -/
  ready : SMap RegMsg := []
  deriving DecidableEq, Repr

/-! ## Reset, start-up and recovery (chapters 22 and 23) -/

/-- The kinds of a device reset (R543), the most severe first. -/
inductive RKind where
  | por | cold | warm
  deriving DecidableEq, Repr

/-- A device reset requested or under way (R544, R549, R553): its kind, cause and detail. -/
structure RReq where
  kind : RKind
  cause : Nat
  detail : Nat
  deriving DecidableEq, Repr

/-- Reset and start-up (R543 to R560).  DEVICE_STATE, RESET_CAUSE and the rest are objects A000h. -/
structure Rst where
  /-- 16 bits; tiles whose fuse words failed their CRC-16 when they were last read (02 R38); reset 0. -/
  fuseCrc : Nat := 0
  /-- 1 bit; the tiles' words, as last read, disagree on CORES, STACKS or W (02 R38); reset 0. -/
  fuseDisagree : Bool := false
  /-- the sequence under way: none while the device runs (22 R546); reset none. -/
  cur : Option RReq := none
  /-- 1 bit; the device is held in reset and its release has not come (22 R556); reset 0. -/
  held : Bool := false
  /-- a request that waits for a flash pulse to end (22 R549); reset none. -/
  deferred : Option RReq := none
  /-- RESET_OTHER of the deferred request: the further requests taken since (22 R546); reset 0. -/
  deferOther : Nat := 0
  /-- 1 bit; P12V_AUX is good (22 R544, 25 R605); reset 1. -/
  aux : Bool := true
  /-- 1 bit; the device waits for the supply after a supply fault (22 R546); reset 0. -/
  supplyWait : Bool := false
  /-- DEVICE_RESET has answered and 1 ms has not passed (22 R547); reset none. -/
  due : Option RReq := none
  /-- 1 bit; PERST# of the active port is asserted (22 R544); reset 0. -/
  perst : Bool := false
  /-- 1 bit; RSTIN_N is asserted (22 R544); reset 0. -/
  rstin : Bool := false
  /-- 1 bit; HELD of the record: a pin held the reset (22 R553); reset 0. -/
  wasHeld : Bool := false
  /-- 1 bit; DEFERRED of the record: a flash pulse delayed the reset (22 R549, R553); reset 0. -/
  wasDeferred : Bool := false
  /-- 32 bits; DEFER_US of the record (22 R553); reset 0. -/
  deferUs : Nat := 0
  /-- 1 bit; a crash dump was written before the reset that is due or under way (22 R553, 23 R576); reset 0. -/
  dumped : Bool := false
  /-- what the record says of the run that ended: BOOT, HOURS and TIME (22 R553) -/
  endBoot : Nat := 0
  endHours : Nat := 0
  endTime : Nat := 0
  /-- reset history in retained SRAM, newest first, at most 16 records of 32 bytes (22 R553); zero at POR. -/
  history : List (List Byte) := []
  /-- reset history in flash, newest first (22 R553); kept across every reset. -/
  flashHistory : List (List Byte) := []
  /-- the cycle in which the reset under way was taken (23 R586) -/
  takenAt : Nat := 0
  /-- 1 bit; REFCLK is present (25 R607); reset 1. -/
  refclk : Bool := true
  /-- 1 bit; start-up waits for REFCLK in step 4 (25 R607); reset 0. -/
  awaitRefclk : Bool := false
  /-- the firmware banks in flash: VERSION and SVN of a valid image, none where invalid (22 R558, R560); kept. -/
  banks : List (Option (Nat × Nat)) := [some (0, 0), none]
  /-- FW_BANK_NEXT in flash (22 R560); kept. -/
  bankNext : Nat := 0
  deriving DecidableEq, Repr

/-- What a port has heard of its neighbour's heartbeat (R567, R568): BOOT and HB_EPOCH × 2^32 + HB_SEQ of the last valid
flit, and the HB_RESET flits sent (R571). -/
structure Beat where
  boot : Nat
  seq : Nat
  resets : Nat := 0
  deriving DecidableEq, Repr

/-- A withdrawal, test or reinstatement that waits for the one before it (R582): 0 withdraw, 1 test, 2 reinstate. -/
structure WdReq where
  op : Nat
  core : Nat
  handle : Option Nat
  /-- the RESULT word of a failed test, 0 for a pass (R584) -/
  result : Nat := 0
  deriving DecidableEq, Repr

/-- Recovery (R564 to R587). -/
structure Recov where
  /-- CORE STOP commands that have not completed: handle and core mask (18 R474); reset none. -/
  stops : List (Nat × Nat) := []
  /-- withdrawals, tests and reinstatements under way and waiting, in order (23 R582); reset none. -/
  wd : List WdReq := []
  /-- 1 bit; the first of `wd` has begun (23 R582); reset 0. -/
  wdBusy : Bool := false
  /-- stalled units with their progress at the stall (23 R565); reset none. -/
  stalled : SMap Nat := []
  /-- 128 bits; cores with a passing CORE_TEST since their last fault (23 R584); reset 0. -/
  tested : Nat := 0
  /-- 128 bits; cores the CMC is to withdraw once no thread is RUN, WAIT or STOPPED (23 R583); reset 0. -/
  failing : Nat := 0
  /-- heartbeats heard, by port (23 R568); reset none. -/
  beats : SMap Beat := []
  /-- 1 bit; the standby CMC sends the heartbeats (23 R574); reset 0. -/
  standbySends : Bool := false
  /-- a heartbeat that waits for its tag, and whether the standby sends it (15 R399, 20 R515); reset none. -/
  beatDue : Option Bool := none
  /-- heartbeats received that wait for the check of their tag: the port and the arguments (15 R399, 20 R515); reset none. -/
  beatsIn : List (Nat × List Byte) := []
  /-- 1 bit; the standby CMC is ready (23 R573); reset 1. -/
  standbyReady : Bool := true
  /-- 1 bit; the two CMCs started from different banks (22 R559); reset 0. -/
  standbyStopped : Bool := false
  /-- NEXT of the crash dump directory (23 R577); reset 65,536. -/
  dumpNext : Nat := 65536
  /-- RECORDS since POR (23 R577); reset 0. -/
  dumpRecords : Nat := 0
  /-- WRAPS (23 R577); reset 0. -/
  dumpWraps : Nat := 0
  /-- 64 bits each; the progress counters of classes 2 to 8, by their PROGRESS index (23 R564, R569); reset 0. -/
  progress : SMap Nat := []
  /-- 32 bits; ESEQ of the next error log record (23 R579); zero at POR. -/
  logSeq : Nat := 0
  /-- the error log records in flash, newest first (23 R579); kept across every reset. -/
  flashLog : List LogEntry := []
  deriving DecidableEq, Repr

/-! ## The host interface and the management port (chapters 18 and 19) -/

/-- A frame that waits for service (R489): its source (a context's mailbox, 4,096 the management port, 4,097 the torus; 4,098
for a response to a request of the device's own), the address it came from, its bytes without the tag, and the key that
verified it, empty for an untagged frame. -/
structure WdpIn where
  src : Nat
  addr : Nat
  bytes : List Byte
  key : List Byte := []
  deriving DecidableEq, Repr

/-- A remote request this device made for context 0's mailbox (R503): its SEQ, the frame sent, the request frame, and the
retries made; `boot` while the target's BOOT is being read. -/
structure RemoteReq where
  seq : Nat
  frame : List Byte
  request : List Byte
  boot : Bool
  stale : Bool := false
  tries : Nat := 0
  deriving DecidableEq, Repr

/-- A context that closes (R477): the handle of its CTX_CLOSE, none for an FLR, and the step it is to take next. -/
structure CloseRun where
  ctx : Nat
  handle : Option Nat
  step : Nat := 2
  deriving DecidableEq, Repr

/-- A COMMIT that waits for cores it removes from a grant (R463): its handle, its principal and its staged set. -/
structure CommitRun where
  handle : Nat
  prin : Nat
  set : List Staged
  deriving DecidableEq, Repr

/-- An FW_UPDATE that reads its image from memory (R560): its handle, its argument, and whether the written image's signature
verifies and the flash took every byte. -/
structure FwReq where
  handle : Nat
  arg : Nat
  sigOk : Bool
  deriving DecidableEq, Repr

/-- A LOAD that waits for memory (R231, R475): its handle, context, descriptor address and HOLD. -/
structure LoadReq where
  handle : Nat
  ctx : Nat
  desc : Nat
  hold : Bool
  deriving DecidableEq, Repr

/-- A JOB_START that reads the identity of its relay (R476): its handle, context and argument, and once it has been sent the READ frame
with its SEQ and the retries made. -/
structure RelayReq where
  handle : Nat
  ctx : Nat
  arg : Nat
  seq : Nat := 0
  frame : List Byte := []
  tries : Nat := 0
  deriving DecidableEq, Repr

/-- A BAR2 access that has been translated (R465, R466): who it is, its runs of device memory, and the bytes of a write. -/
structure Bar2Acc where
  who : Who
  runs : List (Nat × Nat)
  data : Option (List Byte)
  deriving DecidableEq, Repr

/-- Host and management port (R453 to R507). -/
structure HostIf where
  /-- frames that wait for service, oldest first (19 R490); reset none. -/
  queue : List WdpIn := []
  /-- the source served last (19 R489); reset 4,097. -/
  lastSrc : Nat := 4097
  /-- the sender table, at most 64 entries (19 R496); reset none. -/
  senders : List Sender := []
  /-- the retired list, oldest first, at most 4,096 pairs (19 R496); reset none. -/
  retired : List (Nat × Nat) := []
  /-- 32 bits; the next SEQ of the device's own frames, none once exhausted (24 R593); reset 1. -/
  ownSeq : Option Nat := some 1
  /-- a remote request under way (19 R503); reset none. -/
  remote : Option RemoteReq := none
  /-- discovery READs that wait for their time: address and frame (19 R499); reset none. -/
  discovery : List (Nat × List Byte) := []
  /-- the context served last by the command processor (18 R469); reset 4,095. -/
  lastCtx : Nat := 4095
  /-- what waits at the frozen PCIe egress, oldest first, with its injection stamp (20 R513, R515); reset none. -/
  heldOut : List (Nat × Out) := []
  /-- the handles of KEY_PROMOTE commands that have not been carried out (19 R498); reset none. -/
  promote : List Nat := []
  /-- contexts that close, with the step of R477 each has come to (18 R477); reset none. -/
  closes : List CloseRun := []
  /-- COMMITs that wait for the reset of cores they remove (18 R463); reset none. -/
  commits : List CommitRun := []
  /-- LOADs that wait for memory (18 R475); reset none. -/
  loads : List LoadReq := []
  /-- FW_UPDATEs that wait for memory (22 R560); reset none. -/
  fws : List FwReq := []
  /-- JOB_STARTs that read the identity of their relays, oldest first (18 R476); reset none. -/
  relays : List RelayReq := []
  /-- BAR2 accesses translated and not complete, oldest first (18 R465, R466); reset none. -/
  bar2 : List Bar2Acc := []
  /-- tagged frames received while the management cipher unit cannot copy a key: source, address and bytes, oldest first
  (15 R399, 20 R515); reset none. -/
  heldIn : List (Nat × Nat × List Byte) := []
  /-- frames to be tagged and sent once it can: address, key and bytes, oldest first (15 R399, 20 R515); reset none. -/
  sealing : List (Nat × List Byte × List Byte) := []
  /-- the management port's transmit queue, oldest first (19 R499); reset empty. -/
  txq : List (List Byte) := []
  /-- the cycle from which the management port's line is free (19 R499); reset 0. -/
  txFree : Nat := 0
  deriving DecidableEq, Repr

/-- A request raised at an arbiter (R509 to R513): the requester's place in R509's list, its number within it, its rank
where it is privileged, and its injection stamp. -/
structure Ask where
  kind : Nat
  num : Nat := 0
  priv : Option Nat := none
  stamp : Nat := 0
  deriving DecidableEq, Repr

/-- What a message on the mesh carries: a token or credit message or a queue word of 128 bits (R119, R125), or a
collective packet with the core it goes to (R348). -/
inductive MeshBody where
  | token (m : Nat)
  | word (m : Nat)
  | coll (core : Nat) (msg : List Byte)
  deriving DecidableEq, Repr

/-- A message on the mesh (R19): the tiles it goes from and to, its activity class, its injection stamp (R513), and what
it carries. -/
structure MeshMsg where
  src : Nat
  dst : Nat
  act : Nat
  stamp : Nat
  body : MeshBody
  deriving DecidableEq, Repr

/-- An arbiter (R509 to R518), by its ID. -/
structure Arb where
  /-- FREEZE (20 R515); reset 0. -/
  freeze : Bool := false
  /-- GRANTS, RESERVED_GRANTS, PRIV_GRANTS, PEAK_AGE, WDOG_BITES (20 R518); reset 0. -/
  counts : List Nat := [0, 0, 0, 0, 0]
  /-- the ordinary requester granted last, as 256 × its place in R509's list + its number (20 R511); reset none. -/
  last : Option Nat := none
  deriving DecidableEq, Repr

/-- A unit reset under way (R580, R581): the unit ID, what triggered it (R577), the status that led to it, and the
handles that complete with it. -/
structure ResetRun where
  unit : Nat
  trigger : Nat
  status : Nat
  handles : List Nat
  /-- NO_DUMP of the request (R576, R580) -/
  noDump : Bool := false
  /-- its dump has been written and its state cleared -/
  cleared : Bool := false
  /-- the cycle it was taken in (R586) -/
  since : Nat := 0
  deriving DecidableEq, Repr

/-- Everything of the block that changes (State without the fuses and the queue). -/
structure Dev where
  /-- 64 bits; TIME in CORE cycles (17 R442); reset 0. -/
  time : Nat := 0
  /-- 4 bits; the fraction of TIME in 1/16 cycle (17 R442); reset 0. -/
  frac : Nat := 0
  /-- the cycles the block has run, which the timers of R442 that TIME does not move are read from; reset 0. -/
  cyc : Nat := 0
  /-- the model's own counter for free values, not the spec's (log entry 1). -/
  freeCtr : Nat := 0
  /-- the cores, by logical number. -/
  cores : SMap Core := []
  /-- plain Dictionary objects, key index × 256 + subindex; an unlisted object holds its default (19 R481). -/
  objs : SMap Nat := []
  mem : ExtMem := {}
  /-- per core, the TIMEs of its ARRAY_PARITY and PLATE_UE faults of the last 24 hours, newest first (23 R583); reset none. -/
  coreFaults : SMap (List Nat) := []
  claims : SMap ClaimCtr := []
  claimQ : SMap (List ClaimReq) := []
  codecs : SMap CodecEngine := []
  ctxs : SMap Context := []
  handles : SMap HandleRec := []
  princ : SMap PrincipalState := []
  /-- the TIME until which a canary holds a tile's issue gate shut (21 R535); reset 0. -/
  gateShut : SMap Nat := []
  /-- the torus ports XP, XN, YP, YN, ZP, ZN at 0 to 5 (12 R317). -/
  ports : SMap Port := []
  /-- this device's records of broken links (12 R307); reset none. -/
  links : List LinkRec := []
  /-- packets held until ROUTE_QUIET has passed (12 R307); reset none. -/
  heldPkts : List (Option Nat × Packet) := []
  /-- packets of kinds 6, 7 and 8 received and not yet handled, with the port they came by (12 R301); reset none. -/
  inbox : List (Nat × Packet) := []
  /-- messages on the mesh, oldest first (01 R19, 05 R119, R125, 13 R348); reset none. -/
  mesh : List MeshMsg := []
  /-- the collective groups, by number (13 R324). -/
  groups : SMap Group := []
  /-- what the block has sent, newest first (the model's own field; log entry 3). -/
  out : List Out := []
  /-- the error log, newest first (23 R579). -/
  errLog : List LogEntry := []
  /-- unit resets under way (23 R580); reset none. -/
  resets : List ResetRun := []
  vault : Vault := {}
  proof : Proof := {}
  /-- the holders served, by X coordinate (14 R352). -/
  holders : SMap Holder := []
  /-- the long-haul ports W0 and W1 (14 R389). -/
  lh : SMap LhPort := []
  /-- the peer table as read at IG_FORM, by 256 × rank + X: 32 bytes each (14 R390); reset none. -/
  igPeers : SMap (List Byte) := []
  /-- an IG_FORM under way (14 R353); reset none. -/
  igForm : Option IgFormRec := none
  /-- reads of the memory of L-variant holders over the torus, oldest first (14 R376); reset none. -/
  igReads : List HoldRead := []
  power : Power := {}
  reg : Reg := {}
  rst : Rst := {}
  recov : Recov := {}
  host : HostIf := {}
  /-- the arbiters, by ID (20 R518). -/
  arbs : SMap Arb := []
  deriving DecidableEq, Repr

structure State where
  fuses : Fuses := {}
  dev : Dev := {}
  pending : List Instr := []
  deriving DecidableEq, Repr
/-! ## Outcomes and reset -/

/-- The reasons for which the block stops.  There are none: the spec gives every row an effect, and a row whose conditions
do not hold changes nothing. -/
inductive Fault where
  deriving DecidableEq, Repr

/-- The commands the model gives no meaning to. -/
inductive Refusal where
  /-- A row of the table without a meaning, by its mnemonic; raised by no arm of exec.  Safe: the model says nothing of what the
  hardware does there. -/
  | notModelled (mnemonic : String)
  deriving DecidableEq, Repr

/-- The block right after its reset: the power-on reset has been taken and start-up has not run (R546, R550, R555), context 0 is
OPEN (R461), and every register, memory and queue holds its reset value. -/
def State.reset : State :=
  let rst : Rst := { cur := some ⟨.por, 1, 0⟩ }
  { fuses := {}, dev := { ctxs := [(0, { state := .opened })], rst := rst }, pending := [] }

end Sys2Proof.Machine
end

