-- ==== Sys2Proof/Machine/Operands.lean ====
section
/-! DEFINITION. The number formats: reading an element of every format as an exact value, rounding an exact
value to every format, block encoding, and the arithmetic of the anchored partial (R46 to R78). -/

namespace Sys2Proof.Machine

/-- The format a 4-bit code names (R46); code 15 names none (R47). -/
def Fmt.ofCode : Nat → Option Fmt
  | 0 => some .f32 | 1 => some .f16 | 2 => some .b16 | 3 => some .f8e5 | 4 => some .f8e4
  | 5 => some .f6e3 | 6 => some .f6e2 | 7 => some .f4 | 8 => some .i8 | 9 => some .s32
  | 10 => some .bs8 | 11 => some .bi8 | 12 => some .bs6 | 13 => some .bs4 | 14 => some .ap
  | _ => none

/-- Block-scaled formats (R55). -/
def Fmt.isBlock : Fmt → Bool
  | .bs8 | .bi8 | .bs6 | .bs4 => true
  | _ => false

/-- The element format of a block-scaled format, and the format itself otherwise (R46, R55). -/
def Fmt.elem : Fmt → Fmt
  | .bs8 => .f8e4 | .bi8 => .i8 | .bs6 => .f6e2 | .bs4 => .f4 | f => f

/-- Bits per element of a format's (element) plane; for S32 those of its H plane (R46, R53, R58). -/
def Fmt.width : Fmt → Nat
  | .f32 => 32 | .f16 | .b16 | .s32 => 16 | .f8e5 | .f8e4 | .i8 | .bs8 | .bi8 => 8
  | .f6e3 | .f6e2 | .bs6 => 6 | .f4 | .bs4 => 4 | .ap => 160

/-- Exponent width, mantissa width and bias of a floating-point format (R48). -/
def Fmt.fields : Fmt → Nat × Nat × Nat
  | .f32 | .s32 => (8, 23, 127) | .f16 => (5, 10, 15) | .b16 => (8, 7, 127) | .f8e5 => (5, 2, 15)
  | .f8e4 => (4, 3, 7) | .f6e3 => (3, 2, 3) | .f6e2 => (2, 3, 1) | .f4 => (2, 1, 1) | _ => (8, 23, 127)

/-- The exponent field of all ones holds ∞ and NaN (R49). -/
def Fmt.ieee : Fmt → Bool
  | .f32 | .f16 | .b16 | .f8e5 | .s32 => true
  | _ => false

/-- The encoding of the largest finite magnitude (R48). -/
def Fmt.maxEnc : Fmt → Nat
  | .f32 | .s32 => 0x7F7FFFFF | .f16 => 0x7BFF | .b16 => 0x7F7F | .f8e5 => 0x7B | .f8e4 => 0x7E
  | .f6e3 => 0x1F | .f6e2 => 0x1F | .f4 => 0x7 | _ => 0x7F

/-- The canonical NaN, where the format has one (R48, R50). -/
def Fmt.canonNan : Fmt → Nat
  | .f32 | .s32 => 0x7FC00000 | .f16 => 0x7E00 | .b16 => 0x7FC0 | .f8e5 => 0x7E | .f8e4 => 0x7F | _ => 0

/-- +∞, where the format has one (R48). -/
def Fmt.infEnc : Fmt → Nat
  | .f32 | .s32 => 0x7F800000 | .f16 => 0x7C00 | .b16 => 0x7F80 | .f8e5 => 0x7C | _ => 0

/-- The sign bit of an encoding of a floating-point format (R48). -/
def Fmt.signBit (f : Fmt) : Nat := 2 ^ (f.fields.1 + f.fields.2.1)

/-- The value of a floating-point encoding (R49). -/
def decodeFloat (f : Fmt) (b : Nat) : Num :=
  let (eb, mb, bias) := f.fields
  let neg := b.testBit (eb + mb)
  let ex := (b >>> mb) % 2 ^ eb
  let mant := b % 2 ^ mb
  if f.ieee && ex == 2 ^ eb - 1 then (if mant == 0 then .inf neg else .nan)
  else if f = .f8e4 ∧ b % 128 = 127 then .nan
  else if ex == 0 then .fin neg mant (1 - (bias : Int) - mb)
  else .fin neg (2 ^ mb + mant) ((ex : Int) - bias - mb)

/-- The value of an integer. -/
def Num.ofInt (x : Int) : Num := .fin (decide (x < 0)) x.natAbs 0

/-- The value of an element's encoding in a plain format or an element format: floating point by R49, I8 by
R51, S32 from its H and L halves joined (R53, R54). -/
def decodeElem (f : Fmt) (b : Nat) : Num :=
  match f with
  | .i8 => .ofInt (sext 8 b)
  | .s32 => if (b >>> 23) % 256 = 255 then decodeFloat .b16 (b >>> 16) else decodeFloat .f32 b
  | f => decodeFloat f b

/-- Multiply by a power of two. -/
def Num.scale (x : Num) (k : Int) : Num :=
  match x with
  | .fin n m e => .fin n m (e + k)
  | x => x

/-- The value of an element of a block with scale byte `s` (R56, R57). -/
def decodeBlockElem (f : Fmt) (s b : Nat) : Num :=
  if s = 255 then .nan else (decodeElem f.elem b).scale ((s : Int) - 127)

/-- floor(log2 |x|) of a finite nonzero value. -/
def exOf (m : Nat) (e : Int) : Int := (Nat.log2 m : Int) + e

/-- m × 2^e ≥ m' × 2^e'. -/
def magGe (m : Nat) (e : Int) (m' : Nat) (e' : Int) : Bool :=
  if e ≥ e' then decide (m * 2 ^ (e - e').toNat ≥ m') else decide (m ≥ m' * 2 ^ (e' - e).toNat)

/-- The significand kept by R66 at weight 2^q: floor, and the step up by RND with noise `n16`. -/
def roundSig (m : Nat) (e q : Int) (rnd n16 : Nat) : Nat :=
  if e ≥ q then m * 2 ^ (e - q).toNat
  else
    let sh := (q - e).toNat
    let n := m >>> sh
    let r := m % 2 ^ sh
    let up := if rnd = 0 then decide (2 * r > 2 ^ sh ∨ (2 * r = 2 ^ sh ∧ n % 2 = 1))
      else if rnd = 2 then decide ((r * 65536) >>> sh + n16 ≥ 65536)
      else false
    if up then n + 1 else n

/-- A finite magnitude rounded by R66 to a floating-point format, as an encoding without its sign; `false`
when it overflows by R68. -/
def roundFloat (f : Fmt) (rnd n16 : Nat) (m : Nat) (e : Int) : Nat × Bool :=
  if m = 0 then (0, true)
  else
    let (_, mb, bias) := f.fields
    let q := max (exOf m e) (1 - (bias : Int)) - mb
    let n := roundSig m e q rnd n16
    let enc := (q + mb + bias - 1).toNat * 2 ^ mb + n
    let big := match decodeFloat f f.maxEnc with
      | .fin _ mm me =>
        if rnd = 0 then magGe m e (2 * mm + 1) (me - 1)
        else if rnd = 1 then magGe m e (mm + 1) me
        else decide (enc > f.maxEnc)
      | _ => false
    (if enc > f.maxEnc then f.maxEnc else enc, !big)

def Ev.add (a b : Ev) : Ev := ⟨a.ovf + b.ovf, a.nan + b.nan, a.flush + b.flush⟩

/-- Put the sign on a magnitude encoding of a floating-point format. -/
def withSign (f : Fmt) (neg : Bool) (enc : Nat) : Nat := if neg then enc + f.signBit else enc

/-- Convert an exact value to a floating-point format: R65, R66 and the overflow and special-value rules
R68 to R71.  The events are those R75 counts. -/
def toFloat (f : Fmt) (rc : RC) (n16 : Nat) (x : Num) : Nat × Ev :=
  match x with
  | .nan =>
    if f.ieee || f == .f8e4 then (f.canonNan, {}) else (0, { nan := 1 })
  | .inf neg =>
    if f.ieee then (withSign f neg f.infEnc, {})
    else if f = .f8e4 then
      (if rc.sat then (withSign f neg f.maxEnc, { ovf := 1 }) else (f.canonNan, { nan := 1 }))
    else (withSign f neg f.maxEnc, { ovf := 1 })
  | .fin neg m e =>
    let (enc, ok) := roundFloat f rc.rnd n16 m e
    if ok then (withSign f neg enc, {})
    else if rc.sat || rc.rnd == 1 then (withSign f neg f.maxEnc, { ovf := 1 })
    else if f.ieee then (withSign f neg f.infEnc, { ovf := 1 })
    else if f = .f8e4 then (f.canonNan, { ovf := 1, nan := 1 })
    else (withSign f neg f.maxEnc, { ovf := 1 })

/-- Convert an exact value to I8 (R70, R74).  127.5 under RNE rounds to 128, an integer outside the range, and counts as an
overflow by R66 and R68, where the table of R69 says "above 127.5" (DEDUCED, log entry 138). -/
def toI8 (rc : RC) (n16 : Nat) (x : Num) : Nat × Ev :=
  match x with
  | .nan => (0, { nan := 1 })
  | .inf neg => (if neg then 0x80 else 0x7F, { ovf := 1 })
  | .fin neg m e =>
    let n := roundSig m e 0 rc.rnd n16
    if neg then (if n > 128 then (0x80, { ovf := 1 }) else ((256 - n) % 256, {}))
    else (if n > 127 then (0x7F, { ovf := 1 }) else (n, {}))

/-- Convert an exact value to a plain format; S32 as its 32 joined bits H:L (R54). -/
def toPlain (f : Fmt) (rc : RC) (n16 : Nat) (x : Num) : Nat × Ev :=
  match f with
  | .i8 => toI8 rc n16 x
  | .s32 => toFloat .f32 rc n16 x
  | f => toFloat f rc n16 x

/-- ETOP and MAXE of R73: the exponent of the element format's largest finite value, and that value as a
significand and an exponent. -/
def blockTop : Fmt → Int × Nat × Int
  | .f8e4 => (8, 448, 0) | .i8 => (6, 127, 0) | .f6e2 => (2, 15, -1) | _ => (2, 6, 0)

/-- The largest of the finite magnitudes of a list, as a significand and an exponent. -/
def magMax (xs : List Num) : Nat × Int :=
  xs.foldl (fun a x => match x with
    | .fin _ m e => if m ≠ 0 ∧ (a.1 = 0 ∨ magGe m e a.1 a.2 = true) then (m, e) else a
    | _ => a) (0, 0)

def Num.isNan : Num → Bool
  | .nan => true
  | _ => false

def Num.isInf : Num → Bool
  | .inf _ => true
  | _ => false

/-- One element of a block rounded against the scale 2^s (R73). -/
def encodeBlockElem (f : Fmt) (rc : RC) (s : Int) (n16 : Nat) (x : Num) : Nat × Ev :=
  match x with
  | .fin neg m e =>
    if f = .i8 then
      let n := roundSig m (e - s) 0 rc.rnd n16
      let (n, ev) : Nat × Ev := if n > 127 then (127, { ovf := 1 }) else (n, {})
      (if neg then (256 - n) % 256 else n, ev)
    else
      let (_, mb, bias) := f.fields
      if m = 0 then (withSign f neg 0, {})
      else
        let q := max (exOf m (e - s)) (1 - (bias : Int)) - mb
        let enc := (q + mb + bias - 1).toNat * 2 ^ mb + roundSig m (e - s) q rc.rnd n16
        if enc > f.maxEnc then (withSign f neg f.maxEnc, { ovf := 1 }) else (withSign f neg enc, {})
  | _ => (0, {})

/-- Encode thirty-two exact values into a block of element format `f` (R73): the scale byte, the element
encodings and the events. -/
def encodeBlock (f : Fmt) (rc : RC) (noise : List Nat) (xs : List Num) : Nat × List Nat × Ev :=
  if xs.any Num.isNan then (255, xs.map (fun _ => 0), {})
  else if xs.any Num.isInf then (255, xs.map (fun _ => 0), { nan := 1 })
  else
    let (am, ae) := magMax xs
    if am = 0 then
      (0, xs.map (fun x => match x with | .fin true _ _ => (if f = .i8 then 0 else f.signBit) | _ => 0), {})
    else
      let (etop, mm, me) := blockTop f
      let s0 := exOf am ae - etop
      let s1 := if magGe mm (me + s0) am ae then s0 else s0 + 1
      let s := max (-127) (min 127 s1)
      let es := (xs.zip (noise ++ List.replicate xs.length 0)).map
        (fun p => encodeBlockElem f rc s p.2 p.1)
      ((s + 127).toNat, es.map Prod.fst, es.foldl (fun a p => a.add p.2) {})

/-! ## Exact arithmetic on values -/

def Num.neg : Num → Num
  | .nan => .nan
  | .inf n => .inf (!n)
  | .fin n m e => .fin (!n) m e

/-- The integer significand of a finite value at exponent `e'`, no larger than its own. -/
def sigAt (neg : Bool) (m : Nat) (e e' : Int) : Int :=
  let v : Int := (m * 2 ^ (e - e').toNat : Nat)
  if neg then -v else v

/-- The exact sum of two values; two zeros of one sign keep it, and an exact cancellation is +0 (R71, R77
item 1; roundTiesToEven and roundTowardZero give +0). -/
def Num.add (x y : Num) : Num :=
  match x, y with
  | .nan, _ => .nan
  | _, .nan => .nan
  | .inf a, .inf b => if a = b then .inf a else .nan
  | .inf a, _ => .inf a
  | _, .inf b => .inf b
  | .fin n1 m1 e1, .fin n2 m2 e2 =>
    if m1 = 0 ∧ m2 = 0 then .fin (n1 && n2) 0 0
    else if m1 = 0 then .fin n2 m2 e2
    else if m2 = 0 then .fin n1 m1 e1
    else
      let e := min e1 e2
      let s := sigAt n1 m1 e1 e + sigAt n2 m2 e2 e
      .fin (decide (s < 0)) s.natAbs e

/-- The exact product (R90 for the special products). -/
def Num.mul (x y : Num) : Num :=
  match x, y with
  | .nan, _ => .nan
  | _, .nan => .nan
  | .inf a, .inf b => .inf (a != b)
  | .inf a, .fin b m _ => if m = 0 then .nan else .inf (a != b)
  | .fin a m _, .inf b => if m = 0 then .nan else .inf (a != b)
  | .fin n1 m1 e1, .fin n2 m2 e2 => .fin (n1 != n2) (m1 * m2) (e1 + e2)

/-- x < y on values that are not NaN; the two zeros are equal. -/
def Num.lt (x y : Num) : Bool :=
  match x, y with
  | .nan, _ => false
  | _, .nan => false
  | .inf a, .inf b => a && !b
  | .inf a, _ => a
  | _, .inf b => !b
  | .fin n1 m1 e1, .fin n2 m2 e2 =>
    let e := min e1 e2
    decide (sigAt n1 m1 e1 e < sigAt n2 m2 e2 e)

def Num.isZero : Num → Bool
  | .fin _ m _ => m == 0
  | _ => false

/-! ## The anchored partial -/

/-- The zero AP (R60). -/
def AP.zero : AP := {}

/-- The AP reads as NaN: NAN or OVF (R59, R62). -/
def AP.isNan (a : AP) : Bool := a.nan || a.ovf

/-- Neither NaN nor infinite (R60). -/
def AP.isFinite (a : AP) : Bool := !a.nan && !a.ovf && !a.inf

/-- Align to a larger anchor (R61). -/
def AP.align (a : AP) (e2 : Int) : AP :=
  if e2 ≤ a.e then a
  else
    let d := (e2 - a.e).toNat
    let mag := a.w.natAbs
    let k := if d ≥ 128 then 0 else mag >>> d
    let lost := decide (k * 2 ^ d ≠ mag)
    { a with w := if a.w < 0 then -(k : Int) else k, e := e2, trunc := a.trunc || lost }

/-- The window of an exact integer and whether it overflowed (R62 step 3, R89). -/
def windowOf (s : Int) : Int × Bool :=
  (sext 128 (unsext 128 s), decide (s < -(2 ^ 127) ∨ s > 2 ^ 127 - 1))

/-- An AP with the W and E that its flags say are ignored: free values of the operands it was formed from, given as a number
(R59; log entry 6). -/
def AP.withFree (a : AP) (k : Nat) : AP :=
  let v := (Config.freeSpecial k).toNat
  { a with w := sext 128 v, e := sext 16 (v / 2 ^ 128) }

/-- The bits of an AP as a number (R58, R59). -/
def AP.code (a : AP) : Nat :=
  unsext 128 a.w + 2 ^ 128 * unsext 16 a.e + 2 ^ 144 * ((if a.nan then 1 else 0) + (if a.inf then 2 else 0) +
    (if a.neg then 4 else 0) + (if a.trunc then 8 else 0) + (if a.ovf then 16 else 0))

/-- NAN, INF and NEG of a sum with a special operand (R62); a result that has NAN carries no INF (log entry 6). -/
def AP.combineSpecial (a b : AP) : AP :=
  if a.isNan || b.isNan || (a.inf && b.inf && a.neg != b.neg) then { nan := true }
  else { inf := true, neg := if a.inf then a.neg else b.neg }

/-- The sum of two APs (R62). -/
def AP.add (a b : AP) : AP :=
  if a.isFinite && b.isFinite then
    let e := max a.e b.e
    let x := a.align e
    let y := b.align e
    let (w, o) := windowOf (x.w + y.w)
    { w := w, e := e, ovf := o, trunc := x.trunc || y.trunc }
  else
    AP.withFree { AP.combineSpecial a b with trunc := a.trunc || b.trunc } (2 + a.code + 2 ^ 160 * b.code)

/-- An exact value as an AP (R63); the W and E of an infinity are not stated, and are free values of its sign alone. -/
def Num.toAP (x : Num) : AP :=
  match x with
  | .nan => { nan := true }
  | .inf n => AP.withFree { inf := true, neg := n } (if n then 1 else 0)
  | .fin n m e =>
    if m = 0 then {}
    else
      let an := exOf m e + 24
      { w := sigAt n m e (an - 126), e := an }

/-- The exact value of an AP (R60, R70, R71): a zero window is +0; NAN and OVF are NaN. -/
def AP.toNum (a : AP) : Num :=
  if a.isNan then .nan
  else if a.inf then .inf a.neg
  else if a.w = 0 then .fin false 0 0
  else .fin (decide (a.w < 0)) a.w.natAbs (a.e - 126)

/-- The twenty bytes of an AP (R58, R59); the device writes the reserved flags as 0. -/
def AP.toBytes (a : AP) : List Byte :=
  leBytes 20 a.code

/-- An AP read from its twenty bytes; the reserved flags are ignored (R59). -/
def AP.ofBytes (l : List Byte) : AP :=
  let fl := field l 18 2
  { w := sext 128 (field l 0 16), e := sext 16 (field l 16 2), nan := fl.testBit 0, inf := fl.testBit 1,
    neg := fl.testBit 2, trunc := fl.testBit 3, ovf := fl.testBit 4 }

/-! ## Element planes as bytes -/

/-- The element encodings of a plane of `w`-bit elements packed densely (R52); the 20 bytes of an AP are one element (R58). -/
def unpackPlane (w n : Nat) (l : List Byte) : List Nat :=
  if w = 8 then (slice l 0 n).map BitVec.toNat
  else if w % 8 = 0 then (pieces (w / 8) n l).map leNat
  else
    -- whole groups of elements that fill whole bytes: 2 of 4 bits, 4 of 6 bits
    let g := if w = 4 then 1 else 3
    let k := g * 8 / w
    ((pieces g (ceilDiv n k) l).map (fun p => let v := leNat p; (List.range k).map (fun i => (v >>> (w * i)) % 2 ^ w))).flatten.take n

/-- The bytes of a plane of `w`-bit elements packed densely (R52). -/
def packPlane (w : Nat) (es : List Nat) : List Byte :=
  if w = 8 then es.map (BitVec.ofNat 8)
  else if w % 8 = 0 then (es.map (leBytes (w / 8))).flatten
  else
    let g := if w = 4 then 1 else 3
    let k := g * 8 / w
    ((pieces k (ceilDiv es.length k) es).map (fun p =>
      leBytes g ((p.zipIdx).foldl (fun a q => a + (q.1 % 2 ^ w) <<< (w * q.2)) 0))).flatten

/-- The bytes a plane of `n` elements of `w` bits fills (R52). -/
def planeBytes (w n : Nat) : Nat := ceilDiv (w * n) 8

end Sys2Proof.Machine
end

