-- ==== Sys2Proof/Machine/Codec.lean ====
section
/-! DEFINITION. The Aquatint codec as a function of bytes: check values, codebooks, sectors and planes, coding
and decoding with its checks, and the search for sync marks (R236 to R259). -/

namespace Sys2Proof.Machine

/-! ## Check values -/

/-- One bit of a reflected CRC with the reversed polynomial `p`. -/
def crcBit (p c : Nat) : Nat := if c % 2 = 1 then (c / 2) ^^^ p else c / 2

/-- One byte into a reflected CRC. -/
def crcByte (p c : Nat) (b : Byte) : Nat :=
  crcBit p (crcBit p (crcBit p (crcBit p (crcBit p (crcBit p (crcBit p (crcBit p (c ^^^ b.toNat))))))))

/-- CRC-32C (R242). -/
def crc32c (l : List Byte) : Nat :=
  (l.foldl (crcByte 0x82F63B78) 0xFFFFFFFF) ^^^ 0xFFFFFFFF

/-! ## Codebooks -/

/-- The histogram of a source (R236): the count of every symbol. -/
def histogram (l : List Byte) : List Nat :=
  let m := l.foldl (fun (m : SMap Nat) b => m.put b.toNat (m.get 0 b.toNat + 1)) []
  (List.range 256).map (fun s => m.get 0 s)

/-- A node of the code tree: its weight, its key and the depth of every leaf below it (R237). -/
structure HNode where
  w : Nat
  key : Nat
  leaves : List (Nat × Nat)
  deriving DecidableEq, Repr

/-- The node with the smallest (weight, key), and the others. -/
def HNode.takeMin : List HNode → Option (HNode × List HNode)
  | [] => none
  | n :: t =>
    match takeMin t with
    | none => some (n, [])
    | some (m, r) =>
      if n.w < m.w ∨ (n.w = m.w ∧ n.key < m.key) then some (n, m :: r) else some (m, n :: r)

/-- Join the two smallest nodes until one remains; the fuel is the number of joins. -/
def HNode.joinAll : Nat → Nat → List HNode → List HNode
  | 0, _, ns => ns
  | fuel + 1, k, ns =>
    match takeMin ns with
    | none => ns
    | some (x, r) =>
      match takeMin r with
      | none => ns
      | some (y, r) =>
        joinAll fuel (k + 1)
          ({ w := x.w + y.w, key := k, leaves := (x.leaves ++ y.leaves).map (fun p => (p.1, p.2 + 1)) } :: r)

/-- The Kraft sum in units of 2^−12 (R237). -/
def kraft (ls : List Nat) : Nat := (ls.map (fun l => 2 ^ (12 - l))).sum

/-- The symbol `limit` lengthens next: among those shorter than 12 the longest; ties the smallest weight,
then the largest symbol (R237). -/
def limitPick (ls ws : List Nat) : Option Nat :=
  ((List.range 256).foldl (fun (best : Option Nat) s =>
    let l := ls.getD s 0
    let w := ws.getD s 0
    if l ≥ 12 then best
    else match best with
      | none => some s
      | some b =>
        let lb := ls.getD b 0
        let wb := ws.getD b 0
        if l > lb ∨ (l = lb ∧ w ≤ wb) then some s else best) none)

/-- First loop of `limit` (R237). -/
def limitDown : Nat → List Nat → List Nat → List Nat
  | 0, ls, _ => ls
  | fuel + 1, ls, ws =>
    if kraft ls ≤ 4096 then ls
    else match limitPick ls ws with
      | none => ls
      | some s => limitDown fuel (ls.set s (ls.getD s 0 + 1)) ws

/-- Insert into a list kept by descending weight, ties by ascending symbol. -/
def insertDesc (ws : List Nat) (s : Nat) : List Nat → List Nat
  | [] => [s]
  | t :: r => if ws.getD s 0 > ws.getD t 0 ∨ (ws.getD s 0 = ws.getD t 0 ∧ s < t) then s :: t :: r
      else t :: insertDesc ws s r

/-- Shorten one symbol while the Kraft sum allows it (R237); a length has at most 11 steps. -/
def shorten : Nat → Nat → List Nat → List Nat
  | 0, _, ls => ls
  | fuel + 1, s, ls =>
    let l := ls.getD s 0
    if l > 1 ∧ kraft ls + 2 ^ (12 - l) ≤ 4096 then shorten fuel s (ls.set s (l - 1)) else ls

/-- Code lengths of a histogram (R237). -/
def buildLengths (counts : List Nat) : List Nat :=
  let ws := counts.map (· + 1)
  let leaves := ws.zipIdx.map (fun p => ({ w := p.1, key := p.2, leaves := [(p.2, 0)] } : HNode))
  let depth := match HNode.joinAll 255 256 leaves with
    | n :: _ => n.leaves
    | [] => []
  let m := depth.foldl (fun (m : SMap Nat) p => m.put p.1 p.2) []
  let ls := (List.range 256).map (fun s => m.get 8 s)
  if ls.all (· ≤ 12) then ls
  else
    let ls := limitDown 3072 (ls.map (min 12)) ws
    let order := (List.range 256).foldl (fun o s => insertDesc ws s o) []
    order.foldl (fun ls s => shorten 12 s ls) ls

/-- The symbols of each length, ascending (R238). -/
def symbolsOf (ls : List Nat) (l : Nat) : List Nat := (List.range ls.length).filter (fun s => ls.getD s 0 = l)

/-- First code and symbols of every length 1 to 12 (R238). -/
def codeTable (ls : List Nat) : List (Nat × List Nat) :=
  ((List.range 12).foldl (fun (a : Nat × List (Nat × List Nat)) i =>
    let ss := symbolsOf ls (i + 1)
    ((a.1 + ss.length) * 2, a.2 ++ [(a.1, ss)])) (0, [])).2

/-- The code of each symbol as its bits, most significant first (R238). -/
def codeBits (ls : List Nat) : List (List Bool) :=
  let t := codeTable ls
  let m : SMap (List Bool) := (t.zipIdx).foldl (fun m p =>
    (p.1.2.zipIdx).foldl (fun m q =>
      m.put q.1 ((List.range (p.2 + 1)).map (fun i => (p.1.1 + q.2).testBit (p.2 - i)))) m) []
  (List.range ls.length).map (fun s => m.get [] s)

/-- A codebook entry of 256 bytes (R239). -/
def bookEntry (id total : Nat) (ls : List Nat) : List Byte :=
  let body := leBytes 2 id ++ [1#8, 1#8] ++ zeros 4 ++ leBytes 8 total ++ packPlane 4 ls ++ zeros 108
  body ++ leBytes 4 (crc32c body)

/-- A codebook as a unit works from it (R240): its lengths and BOOKSUM. -/
structure Book where
  lengths : List Nat
  sum : Nat
  deriving DecidableEq, Repr

/-- The check of an entry that has been read (R240): the codebook, or the status. -/
def checkBook (id : Nat) (e : List Byte) : Except Nat Book :=
  let ls := unpackPlane 4 256 (slice e 16 128)
  if field e 0 2 ≠ id ∨ field e 2 1 ≠ 1 ∨ (field e 3 1).testBit 0 = false ∨
      ls.any (fun l => l < 1 || l > 12) = true then .error 0x0407
  else if crc32c (slice e 0 252) ≠ field e 252 4 then .error 0x0408
  else if kraft ls > 4096 then .error 0x0407
  else .ok { lengths := ls, sum := field e 252 2 }

/-! ## Sectors -/

/-- Pack a bit string, bit 0 first, into whole bytes (R245); the fuel is the number of bytes. -/
def packBits : Nat → List Bool → List Byte
  | 0, _ => []
  | n + 1, bs =>
    BitVec.ofNat 8 (((bs.take 8).zipIdx).foldl (fun a p => if p.1 then a + 2 ^ p.2 else a) 0) ::
      packBits n (bs.drop 8)

/-- The bytes of sub-stream `j` of a 4,096-byte source (R245). -/
def subStream (cb : List (List Bool)) (src : List Byte) (j : Nat) : List Byte :=
  let syms := (pieces 32 128 src).map (fun p => (p.getD j 0#8).toNat)
  let bs := (syms.map (fun s => cb.getD s [])).flatten
  packBits (ceilDiv bs.length 8) bs

/-- A sector's header of 80 bytes (R244). -/
def sectorHeader (secno clen book flags sum : Nat) (soff : List Nat) : List Byte :=
  leBytes 4 0x4E1BD7A3 ++ leBytes 4 secno ++ leBytes 2 clen ++ leBytes 2 book ++
    leBytes 1 flags ++ leBytes 1 0 ++ leBytes 2 sum ++ (soff.map (leBytes 2)).flatten

/-- Close a sector with its padding and check value (R244). -/
def closeSector (clen : Nat) (b : List Byte) : List Byte :=
  let p := b ++ zeros (clen - 4 - b.length)
  p ++ leBytes 4 (crc32c p)

/-- Encode one sector (R246): its bytes and whether it was written raw. -/
def encodeSector (secno book : Nat) (bk : Book) (src : List Byte) : List Byte × Bool :=
  let cb := codeBits bk.lengths
  let subs := (List.range 32).map (subStream cb src)
  let soff := (subs.foldl (fun (a : Nat × List Nat) s => (a.1 + s.length, a.2 ++ [a.1])) (0, [])).2
  let p := (subs.map List.length).sum
  let clen := 84 + p + (16 - (84 + p) % 16) % 16
  if clen ≥ 4192 then
    (closeSector 4192 (sectorHeader secno 4192 0 1 0 (List.replicate 32 0) ++ src), true)
  else
    (closeSector clen (sectorHeader secno clen book 0 bk.sum soff ++ subs.flatten), false)

/-- The index length X of a plane of `n` sectors (R243). -/
def planeX (n : Nat) : Nat := 16 * ceilDiv (4 * n + 20) 16

/-- A coded plane of the given sectors (R243). -/
def codedPlane (secbase : Nat) (secs : List (List Byte)) : List Byte :=
  let n := secs.length
  let offs := (secs.foldl (fun (a : List Nat × Nat) s => (a.1 ++ [a.2 + s.length], a.2 + s.length))
    ([planeX n], planeX n)).1
  let h := leBytes 4 secbase ++ leBytes 4 n ++ zeros 4
  let o := (offs.map (leBytes 4)).flatten
  let idx := h ++ leBytes 4 (crc32c (h ++ o)) ++ o
  idx ++ zeros (planeX n - idx.length) ++ secs.flatten

/-- ENCODE of a source (R247): the plane and the number of raw sectors. -/
def encodePlane (secbase book : Nat) (bk : Book) (src : List Byte) : List Byte × Nat :=
  let n := src.length / 4096
  let ss := (pieces 4096 n src).zipIdx.map (fun p => encodeSector ((secbase + p.2) % 2 ^ 32) book bk p.1)
  (codedPlane secbase (ss.map Prod.fst), (ss.filter Prod.snd).length)

/-! ## Decoding -/

/-- Decode one symbol (R249): read bits lowest first until the value is a code. -/
def decodeSymbol : List (Nat × List Nat) → Nat → List Bool → Option (Nat × List Bool)
  | [], _, _ => none
  | _, _, [] => none
  | (fc, ss) :: t, c, b :: bs =>
    let c := 2 * c + (if b then 1 else 0)
    if fc ≤ c ∧ c < fc + ss.length then some (ss.getD (c - fc) 0, bs) else decodeSymbol t c bs

/-- Decode `n` symbols: the symbols and the bits left over. -/
def decodeSymbols (t : List (Nat × List Nat)) : Nat → List Bool → Option (List Nat × List Bool)
  | 0, bs => some ([], bs)
  | n + 1, bs =>
    match decodeSymbol t 0 bs with
    | none => none
    | some (s, bs) =>
      match decodeSymbols t n bs with
      | none => none
      | some (l, r) => some (s :: l, r)

/-- The bits of bytes, bit 0 first. -/
def bitsOf (l : List Byte) : List Bool := (l.map (fun b => (List.range 8).map (fun i => b.toNat.testBit i))).flatten

/-- One sub-stream decoded from its bytes (R248 check 8): 128 symbols and a tail of 0 bits shorter than a
byte. -/
def decodeSub (t : List (Nat × List Nat)) (l : List Byte) : Option (List Nat) :=
  match decodeSymbols t 128 (bitsOf l) with
  | some (ss, rest) => if rest.length < 8 ∧ rest.all (! ·) = true then some ss else none
  | none => none

/-- The last sub-stream, whose end is not given by an offset: it is decoded from the bytes up to the check
value, and what follows its last byte is padding of fewer than 16 zero bytes (R248 check 8). -/
def decodeLast (t : List (Nat × List Nat)) (l : List Byte) : Option (List Nat) :=
  match decodeSymbols t 128 (bitsOf l) with
  | some (ss, rest) => if rest.length < 8 + 128 ∧ rest.all (! ·) = true ∧ rest.length / 8 < 16 then some ss else none
  | none => none

/-- Put sub-streams back into source order (R245). -/
def interleave (subs : List (List Nat)) : List Byte :=
  ((List.range 128).map (fun i => subs.map (fun s => BitVec.ofNat 8 (s.getD i 0)))).flatten

/-- SOFF of a sector (R244). -/
def sectorSoff (s : List Byte) : List Nat := (pieces 2 32 (slice s 16 64)).map leNat

/-- The checks 3 and 5 of R248 on a sector's CLEN bytes; `number` is check 4.  The codebook a coded sector names, none for a raw
sector. -/
def sectorForm (s : List Byte) (number : Nat → Bool) : Except Nat (Option Nat) :=
  let clen := s.length
  let soff := sectorSoff s
  if crc32c (s.take (clen - 4)) ≠ field s (clen - 4) 4 then .error 0x0401
  else if number (field s 4 4) = false then .error 0x0403
  else if field s 12 1 / 2 ≠ 0 ∨ field s 13 1 ≠ 0 then .error 0x0404
  else if (field s 12 1).testBit 0 then
    if field s 10 2 ≠ 0 ∨ field s 14 2 ≠ 0 ∨ soff.any (· ≠ 0) = true then .error 0x0404 else .ok none
  else if soff.getD 0 0 ≠ 0 ∨ (soff.zip (soff.drop 1)).any (fun p => decide (p.2 < p.1)) = true then .error 0x0404
  else .ok (some (field s 10 2))

/-- The checks 7 and 8 of R248 on a coded sector's CLEN bytes, decoded with its codebook. -/
def decodeCoded (bk : Book) (s : List Byte) : Except Nat (List Byte) :=
  if field s 14 2 ≠ bk.sum then .error 0x0409
  else
    let soff := sectorSoff s
    let t := codeTable bk.lengths
    let body := (s.drop 80).take (s.length - 84)
    let subs := (List.range 31).map (fun j =>
      decodeSub t (slice body (soff.getD j 0) (soff.getD (j + 1) 0 - soff.getD j 0)))
    match subs.all Option.isSome, decodeLast t (body.drop (soff.getD 31 0)) with
    | true, some last =>
      if soff.getD 31 0 ≤ body.length then .ok (interleave (subs.map (fun o => o.getD []) ++ [last])) else .error 0x0404
    | _, _ => .error 0x0404

/-- The checks 3 and 5 to 8 of R248 on a sector's CLEN bytes; `number` is check 4. -/
def decodeSectorBody (books : Nat → Except Nat Book) (s : List Byte) (number : Nat → Bool) : Except Nat (List Byte) :=
  match sectorForm s number with
  | .error e => .error e
  | .ok none => .ok (slice s 80 4096)
  | .ok (some b) => match books b with
    | .error e => .error e
    | .ok bk => decodeCoded bk s

/-- The codebook check 6 of R248 asks for: that of a coded sector that passes the checks before it. -/
def bookAsked (s : List Byte) (number : Nat → Bool) : List Nat :=
  match sectorForm s number with
  | .ok (some b) => [b]
  | _ => []

/-- Check 2 of R248 on a header, without the comparison of offsets. -/
def clenOk (s : List Byte) : Bool :=
  let clen := field s 8 2
  clen % 16 == 0 && (if (field s 12 1).testBit 0 then clen == 4192 else decide (608 ≤ clen ∧ clen ≤ 4176))

/-- The checks 1 and 2 of R248 at an indexed offset: the sector's bytes, or the status of its damage. -/
def sectorAt (plane : List Byte) (off next : Nat) : Except Nat (List Byte) :=
  let s := plane.drop off
  if field s 0 4 ≠ 0x4E1BD7A3 then .error 0x0405
  else if clenOk s = false ∨ field s 8 2 ≠ next - off then .error 0x0402
  else .ok (s.take (next - off))

/-- The sector at an indexed offset (R248): its 4,096 bytes, or the status of its damage. -/
def decodeSector (books : Nat → Except Nat Book) (plane : List Byte) (off next want : Nat) : Except Nat (List Byte) :=
  match sectorAt plane off next with
  | .error e => .error e
  | .ok s => decodeSectorBody books s (fun n => n == want)

/-- Bytes of the plane index a decoder reads, of `room` bytes it may read: X of the stored NSEC, or the index's head where that
NSEC is past 65,535 or its index past the region (R250). -/
def indexSpan (room : Nat) (plane : List Byte) : Nat :=
  let n := field plane 4 4
  if n ≤ 65535 ∧ 4 * n + 20 ≤ room then min room (planeX n) else 16

/-- The plane index check (R250) on the bytes an operation may read: the offsets, or the status. -/
def checkIndex (plane : List Byte) (expect : Nat) : Except Nat (List Nat) :=
  let n := field plane 4 4
  let offs := (pieces 4 (n + 1) (slice plane 16 (4 * n + 4))).map leNat
  if n > 65535 ∨ 4 * n + 20 > plane.length then .error 0x0406
  else if crc32c (plane.take 12 ++ slice plane 16 (4 * n + 4)) ≠ field plane 12 4 then .error 0x0406
  else if n ≠ expect then .error 0x040A
  else if offs.getD 0 0 ≠ planeX n ∨ (offs.zip (offs.drop 1)).any (fun p =>
      decide (p.2 < p.1 + 608 ∨ p.2 > p.1 + 4192 ∨ (p.2 - p.1) % 16 ≠ 0)) = true then .error 0x0406
  else .ok offs

/-- What a DECODE gives (R256 to R258): the status, each sector's bytes or none where it is damaged, and the
counts of sectors found by search and marks rejected; with the codebooks it reads and the bytes of the plane it reads. -/
structure DecodeOut where
  status : Nat
  sectors : List (Option (List Byte))
  indexFail : Bool
  found : Nat := 0
  falseMarks : Nat := 0
  books : List Nat := []
  span : Nat := 0
  deriving DecidableEq, Repr

/-- The bytes of a plane from bit position `p` on. -/
def fromBit (plane : List Byte) (p n : Nat) : List Byte :=
  if p % 8 = 0 then (plane.drop (p / 8)).take n
  else leBytes n (leNat ((plane.drop (p / 8)).take (n + 1)) >>> (p % 8))

/-- Search mode (R258), bit position by bit position: `q` is the first position a mark may take; the fuel is
the number of positions.  Bytes that `bad` names take part in no mark and no accepted sector (R257). -/
def searchPlane (books : Nat → Except Nat Book) (bad : Nat → Nat → Option Nat) (plane : List Byte) (base len : Nat) :
    Nat → Nat → Nat → Option Nat → DecodeOut → DecodeOut
  | 0, _, _, _, o => o
  | fuel + 1, p, q, e, o =>
    if p ≥ 8 * plane.length then o
    else if p < q then searchPlane books bad plane base len fuel (p + 1) q e o
    else if leNat (fromBit plane p 4) ≠ 0x4E1BD7A3 ∨ p + 32 > 8 * plane.length ∨
        (bad (p / 8) (if p % 8 = 0 then 4 else 5)).isSome = true then searchPlane books bad plane base len fuel (p + 1) q e o
    else
      let h := fromBit plane p 80
      let clen := field h 8 2
      let i := (field h 4 4 + 2 ^ 32 - base % 2 ^ 32) % 2 ^ 32
      let later := match e with
        | none => true
        | some k => decide (k < i)
      let body := fromBit plane p clen
      let o := { o with books := if clenOk h then o.books ++ bookAsked body (fun _ => true) else o.books }
      match clenOk h && decide (p + 8 * clen ≤ 8 * plane.length) && later && decide (i < len) &&
          (bad (p / 8) (if p % 8 = 0 then clen else clen + 1)).isNone,
          decodeSectorBody books body (fun _ => true) with
      | true, .ok b =>
        searchPlane books bad plane base len fuel (p + 1) (p + 8 * clen) (some i)
          { o with sectors := o.sectors.set i (some b), found := o.found + 1 }
      | _, _ => searchPlane books bad plane base len fuel (p + 1) q e { o with falseMarks := o.falseMarks + 1 }

/-- DECODE of a plane of `len` sectors (R258).  `bad` says that a byte range holds a poisoned line or an
uncorrectable word, with the status. -/
def decodePlane (books : Nat → Except Nat Book) (bad : Nat → Nat → Option Nat) (plane : List Byte) (len : Nat) : DecodeOut :=
  let x := planeX len
  match (if (bad 0 (indexSpan plane.length plane)).isSome then .error 0x0406 else checkIndex plane len) with
  | .ok offs =>
    let want := fun (i : Nat) => (field plane 0 4 + i) % 2 ^ 32
    let rs := (List.range len).map (fun i =>
      let o := offs.getD i 0
      let n := offs.getD (i + 1) 0
      match bad o (n - o) with
      | some st => (Except.error st : Except Nat (List Byte))
      | none => decodeSector books plane o n (want i))
    let asked := (List.range len).map (fun i =>
      let o := offs.getD i 0
      let n := offs.getD (i + 1) 0
      match (bad o (n - o)).isNone, sectorAt plane o n with
      | true, .ok s => bookAsked s (fun k => k == want i)
      | _, _ => [])
    let st := (rs.foldl (fun (a : Nat) r => if a ≠ 0 then a else match r with | .error e => e | .ok _ => 0) 0)
    { status := st, sectors := rs.map (fun r => match r with | .ok b => some b | .error _ => none), indexFail := false,
      books := asked.flatten.eraseDups, span := offs.getD len 0 }
  | .error st =>
    let o := searchPlane books bad plane (field plane 0 4) len (8 * plane.length - 8 * x) (8 * x) (8 * x) none
      { status := st, sectors := List.replicate len none, indexFail := true, span := plane.length }
    { o with books := o.books.eraseDups }

end Sys2Proof.Machine
end

