-- ==== Sys2Proof/Machine/Objects.lean ====
section
/-! DEFINITION. The Dictionary's objects as the chapters' tables declare them (R481): index and subindex
range, type, access, wire size, default and the constraint R484 clamps a written value to. -/

namespace Sys2Proof.Machine

/-- Object types (R481). -/
inductive OTy where
  | bool | u8 | u16 | u32 | u64 | i32 | str | blob | cmd
  deriving DecidableEq, Repr

/-- Access codes (00 scope, Registers, fields and the Dictionary). -/
inductive Acc where
  | ro | rw | wo | rws | cmd
  deriving DecidableEq, Repr

/-- The constraint on a written value (R484). -/
inductive Clamp where
  /-- every value of the type -/
  | full
  /-- 1 for any nonzero byte -/
  | bool
  /-- a minimum and a maximum -/
  | range (lo hi : Nat)
  /-- a minimum, a maximum and a multiple -/
  | rangeStep (lo hi m : Nat)
  /-- a multiple, no bound below that of the type -/
  | step (m : Nat)
  /-- 0 or a range -/
  | zeroOr (lo hi : Nat)
  /-- a range or one further value above it -/
  | orAlt (lo hi alt : Nat)
  /-- 0, or a power of 2 in a range -/
  | pow2 (lo hi : Nat)
  /-- the bits that are not reserved -/
  | bits (mask : Nat)
  /-- a multiple of 64 GiB below 2^48 -/
  | bar2
  /-- the chapter's own fields (Sys2Proof.Machine.clampCustom) -/
  | custom
  deriving DecidableEq, Repr

/-- One row of the Dictionary tables. -/
structure Obj where
  iLo : Nat
  iHi : Nat
  sLo : Nat
  sHi : Nat
  ty : OTy
  acc : Acc
  len : Nat
  dflt : Nat
  cl : Clamp
  deriving DecidableEq, Repr

/-- Objects of 1000h to 1FFFh as the chapters' tables give them. -/
def objTable1 : List Obj := [
  ⟨0x1000, 0x1000, 0x0, 0x0, .str, .ro, 9, 0, .full⟩ /- ORDER_CODE R36 -/,
  ⟨0x1000, 0x1000, 0x1, 0x1, .str, .ro, 2, 0, .full⟩ /- STEPPING R36 -/,
  ⟨0x1000, 0x1000, 0x2, 0x2, .u32, .ro, 4, 0, .full⟩ /- VARIANT_WORD R36 -/,
  ⟨0x1000, 0x1000, 0x3, 0x3, .u8, .ro, 1, 0, .full⟩ /- CORE_COUNT R36 -/,
  ⟨0x1000, 0x1000, 0x4, 0x4, .u8, .ro, 1, 0, .full⟩ /- CORES_PER_TILE R36 -/,
  ⟨0x1000, 0x1000, 0x5, 0x5, .u8, .ro, 1, 0, .full⟩ /- STACK_COUNT R36 -/,
  ⟨0x1000, 0x1000, 0x6, 0x6, .u32, .ro, 4, 0, .full⟩ /- STACK_MAP R36 -/,
  ⟨0x1000, 0x1000, 0x7, 0x7, .bool, .ro, 1, 0, .full⟩ /- LONG_HAUL R36 -/,
  ⟨0x1000, 0x1000, 0x8, 0x8, .u64, .ro, 8, 0, .full⟩ /- EXT_MEM_BYTES R36 -/,
  ⟨0x1000, 0x1000, 0x9, 0x9, .str, .ro, 12, 0, .full⟩ /- SERIAL R36 -/,
  ⟨0x1000, 0x1000, 0xA, 0xA, .u16, .ro, 2, 0, .full⟩ /- FUSE_CHECK R36 -/,
  ⟨0x1010, 0x1010, 0x0, 0xF, .u8, .ro, 1, 0, .full⟩ /- CORE_ENABLE_MAP R36 -/,
  ⟨0x1100, 0x1100, 0x0, 0x7F, .u8, .ro, 1, 0, .full⟩ /- LOG_TO_PHYS R36 -/,
  ⟨0x1101, 0x1101, 0x0, 0x7F, .u8, .ro, 1, 0, .full⟩ /- PHYS_TO_LOG R36 -/]

/-- Objects of 2000h to 2FFFh as the chapters' tables give them. -/
def objTable2 : List Obj := [
  ⟨0x2000, 0x2000, 0x0, 0x0, .u16, .ro, 2, 4800, .full⟩ /- ROOT_MHZ R541 -/,
  ⟨0x2000, 0x2000, 0x1, 0x1, .u16, .rw, 2, 4800, .rangeStep 4500 4800 50⟩ /- ROOT_CAP R541 -/,
  ⟨0x2000, 0x2000, 0x2, 0x2, .u16, .ro, 2, 0, .full⟩ /- ROOT_PLANNED R541 -/,
  ⟨0x2000, 0x2000, 0x3, 0x3, .bool, .ro, 1, 0, .full⟩ /- SLEWING R541 -/,
  ⟨0x2000, 0x2000, 0x4, 0x4, .u32, .ro, 4, 655360, .full⟩ /- TICK_INC R541 -/,
  ⟨0x2010, 0x2010, 0x0, 0x0, .u16, .rw, 2, 0, .custom⟩ /- POWER_LIMIT R541 -/,
  ⟨0x2010, 0x2010, 0x1, 0x1, .u16, .ro, 2, 0, .full⟩ /- POWER_W R541 -/,
  ⟨0x2010, 0x2010, 0x2, 0x2, .u8, .ro, 1, 0, .full⟩ /- AUX_W R541 -/,
  ⟨0x2010, 0x2010, 0x3, 0x3, .u16, .ro, 2, 0, .full⟩ /- BUS_MV R541 -/,
  ⟨0x2010, 0x2010, 0x4, 0x4, .u8, .ro, 1, 64, .full⟩ /- G_POWER R541 -/,
  ⟨0x2010, 0x2010, 0x5, 0x5, .u8, .ro, 1, 64, .full⟩ /- G_SUPPLY R541 -/,
  ⟨0x2020, 0x202F, 0x0, 0x0, .i32, .ro, 4, 0, .full⟩ /- TILE_TEMP R541 -/,
  ⟨0x2020, 0x202F, 0x1, 0x1, .blob, .ro, 4, 0, .full⟩ /- STACK_TEMP R541 -/,
  ⟨0x2020, 0x202F, 0x2, 0x2, .u8, .ro, 1, 64, .full⟩ /- G_THERM R541 -/,
  ⟨0x2020, 0x202F, 0x3, 0x3, .u64, .ro, 8, 0, .full⟩ /- GATED_PWR R541 -/,
  ⟨0x2020, 0x202F, 0x4, 0x4, .u64, .ro, 8, 0, .full⟩ /- GATED_THERM R541 -/,
  ⟨0x2020, 0x202F, 0x5, 0x5, .u64, .ro, 8, 0, .full⟩ /- GATED_SUPPLY R541 -/,
  ⟨0x2020, 0x202F, 0x6, 0x6, .u16, .ro, 2, 0, .full⟩ /- RAIL_MV R541 -/,
  ⟨0x2020, 0x202F, 0x7, 0x7, .u16, .ro, 2, 0, .full⟩ /- VMIN R541 -/,
  ⟨0x2020, 0x202F, 0x8, 0x8, .u16, .ro, 2, 0, .full⟩ /- VMAX R541 -/,
  ⟨0x2020, 0x202F, 0x9, 0x9, .u32, .ro, 4, 0, .full⟩ /- CANARIES R541 -/,
  ⟨0x2100, 0x2100, 0x0, 0x0, .u16, .rw, 2, 500, .range 24 2000⟩ /- AGE_PERIOD_H R541 -/,
  ⟨0x2100, 0x2100, 0x1, 0x1, .u16, .ro, 2, 25, .full⟩ /- GUARD_PS R541 -/,
  ⟨0x2100, 0x2100, 0x2, 0x2, .cmd, .cmd, 0, 0, .full⟩ /- PLAN_NOW R541 -/,
  ⟨0x2100, 0x2100, 0x3, 0x3, .bool, .ro, 1, 0, .full⟩ /- PLAN_PENDING R541 -/,
  ⟨0x2100, 0x2100, 0x4, 0x4, .u32, .ro, 4, 0, .full⟩ /- HOURS R541 -/,
  ⟨0x2100, 0x2100, 0x5, 0x5, .blob, .ro, 2048, 0, .full⟩ /- MONITORS R541 -/,
  ⟨0x2200, 0x2200, 0x0, 0x0, .u16, .rw, 2, 0, .full⟩ /- LOG_SELECT R541 -/,
  ⟨0x2200, 0x2200, 0x1, 0x1, .blob, .ro, 64, 0, .full⟩ /- LOG_RECORD R541 -/,
  ⟨0x2200, 0x2200, 0x2, 0x2, .u32, .ro, 4, 0, .full⟩ /- LOG_NEXT R541 -/]

/-- Objects of 3000h to 3FFFh as the chapters' tables give them. -/
def objTable3a : List Obj := [
  ⟨0x3000, 0x3000, 0x0, 0x0, .u32, .ro, 4, 4096, .full⟩ /- GRANULE R234 -/,
  ⟨0x3000, 0x3000, 0x1, 0x1, .u8, .ro, 1, 0, .full⟩ /- SLOTS R234 -/,
  ⟨0x3000, 0x3000, 0x2, 0x2, .u64, .ro, 8, 0, .full⟩ /- JOB_TOP R234 -/,
  ⟨0x3000, 0x3000, 0x3, 0x3, .u64, .ro, 8, 0, .full⟩ /- USABLE_BYTES R234 -/,
  ⟨0x3010, 0x3010, 0x0, 0x0, .u8, .rws, 1, 32, .range 1 60⟩ /- QSHARE_COMPUTE R234 -/,
  ⟨0x3010, 0x3010, 0x1, 0x1, .u8, .rws, 1, 12, .range 0 32⟩ /- QSHARE_COLL R234 -/,
  ⟨0x3010, 0x3010, 0x2, 0x2, .u8, .rws, 1, 8, .range 0 32⟩ /- QSHARE_PROOF R234 -/,
  ⟨0x3010, 0x3010, 0x3, 0x3, .u8, .rws, 1, 8, .range 0 32⟩ /- QSHARE_INTAGLIO R234 -/,
  ⟨0x3010, 0x3010, 0x4, 0x4, .u8, .rws, 1, 4, .range 2 8⟩ /- QSHARE_MGMT R234 -/,
  ⟨0x3020, 0x3020, 0x0, 0x0, .u16, .rws, 2, 16, .custom⟩ /- LH_BUF R234 -/,
  ⟨0x3020, 0x3020, 0x1, 0x1, .u16, .rws, 2, 8, .range 0 64⟩ /- COW R234 -/,
  ⟨0x3020, 0x3020, 0x2, 0x2, .u16, .rws, 2, 0, .range 0 512⟩ /- CPROOF R234 -/,
  ⟨0x3020, 0x3020, 0x8, 0xE, .u64, .ro, 8, 0, .full⟩ /- BASE_CPROOF R234 -/,
  ⟨0x3030, 0x3030, 0x0, 0x0, .u16, .rw, 2, 24, .range 1 720⟩ /- BURNISH_HOURS R234 -/,
  ⟨0x3030, 0x3030, 0x1, 0x1, .bool, .rw, 1, 1, .bool⟩ /- BURNISH_EN R234 -/,
  ⟨0x3030, 0x3030, 0x2, 0x2, .cmd, .cmd, 0, 0, .full⟩ /- BURNISH_NOW R234 -/,
  ⟨0x3031, 0x3031, 0x0, 0x1F, .u32, .ro, 4, 0, .full⟩ /- BURNISH_DONE R234 -/,
  ⟨0x3040, 0x3040, 0x0, 0x0, .u16, .rw, 2, 8, .range 1 1000⟩ /- CE_LIMIT R234 -/,
  ⟨0x3040, 0x3040, 0x1, 0x1, .u32, .ro, 4, 0, .full⟩ /- RETIRED_COUNT R234 -/,
  ⟨0x3040, 0x3040, 0x2, 0x2, .blob, .ro, 65536, 0, .full⟩ /- RETIRED_LIST R234 -/,
  ⟨0x3040, 0x3040, 0x3, 0x3, .u32, .ro, 4, 0, .full⟩ /- PENDING_COUNT R234 -/,
  ⟨0x3040, 0x3040, 0x4, 0x4, .cmd, .cmd, 4, 0, .full⟩ /- RETIRE_GRANULE R234 -/,
  ⟨0x3050, 0x3050, 0x0, 0x1F, .u8, .ro, 1, 0, .full⟩ /- STACK_STATE R234 -/,
  ⟨0x3060, 0x306F, 0x0, 0x0, .u64, .ro, 8, 0, .full⟩ /- TC_HIT R234 -/,
  ⟨0x3060, 0x306F, 0x1, 0x1, .u64, .ro, 8, 0, .full⟩ /- TC_MISS R234 -/,
  ⟨0x3060, 0x306F, 0x2, 0x2, .u64, .ro, 8, 0, .full⟩ /- TC_WB R234 -/,
  ⟨0x3060, 0x306F, 0x3, 0x3, .u64, .ro, 8, 0, .full⟩ /- TC_COMBINE R234 -/,
  ⟨0x3060, 0x306F, 0x4, 0x4, .u64, .ro, 8, 0, .full⟩ /- HOT_STALL R234 -/,
  ⟨0x3060, 0x306F, 0x5, 0x5, .u32, .ro, 4, 0, .full⟩ /- TC_CE R234 -/,
  ⟨0x3060, 0x306F, 0x6, 0x6, .u32, .ro, 4, 0, .full⟩ /- TC_UE R234 -/]

/-- Objects of 3000h to 3FFFh as the chapters' tables give them. -/
def objTable3b : List Obj := [
  ⟨0x3060, 0x306F, 0x7, 0x7, .u32, .ro, 4, 0, .full⟩ /- MEM_CE R234 -/,
  ⟨0x3060, 0x306F, 0x8, 0x8, .u32, .ro, 4, 0, .full⟩ /- MEM_UE R234 -/,
  ⟨0x3060, 0x306F, 0x9, 0x9, .u32, .ro, 4, 0, .full⟩ /- POISON_READ R234 -/,
  ⟨0x3100, 0x3100, 0x0, 0x0, .u32, .rws, 4, 10752, .rangeStep 0 12288 64⟩ /- PART_COMPUTE R106 -/,
  ⟨0x3100, 0x3100, 0x1, 0x1, .u32, .rws, 4, 512, .rangeStep 0 12288 64⟩ /- PART_EXCH R106 -/,
  ⟨0x3100, 0x3100, 0x2, 0x2, .u32, .rws, 4, 1024, .rangeStep 0 12288 64⟩ /- PART_COLL R106 -/,
  ⟨0x3100, 0x3100, 0x3, 0x3, .u32, .rws, 4, 0, .rangeStep 0 1024 64⟩ /- PART_PROOF R106 -/,
  ⟨0x3100, 0x3100, 0x8, 0x8, .u32, .ro, 4, 0, .full⟩ /- BASE_COMPUTE R106 -/,
  ⟨0x3100, 0x3100, 0x9, 0x9, .u32, .ro, 4, 11010048, .full⟩ /- BASE_EXCH R106 -/,
  ⟨0x3100, 0x3100, 0xA, 0xA, .u32, .ro, 4, 11534336, .full⟩ /- BASE_COLL R106 -/,
  ⟨0x3100, 0x3100, 0xB, 0xB, .u32, .ro, 4, 12582912, .full⟩ /- BASE_PROOF R106 -/,
  ⟨0x3140, 0x3140, 0x0, 0x0, .cmd, .cmd, 16, 0, .full⟩ /- CLAIM_SET R196 -/,
  ⟨0x3141, 0x3141, 0x0, 0x0, .u16, .rw, 2, 0, .full⟩ /- CLAIM_SELECT R196 -/,
  ⟨0x3141, 0x3141, 0x1, 0x1, .u64, .ro, 8, 0, .full⟩ /- CLAIM_VALUE R196 -/,
  ⟨0x3141, 0x3141, 0x2, 0x2, .u64, .ro, 8, 0, .full⟩ /- CLAIM_INIT R196 -/,
  ⟨0x3141, 0x3141, 0x3, 0x3, .u8, .ro, 1, 255, .full⟩ /- CLAIM_GROUP R196 -/,
  ⟨0x3141, 0x3141, 0x4, 0x4, .blob, .ro, 16, 0, .full⟩ /- CLAIM_EXHAUSTED R196 -/,
  ⟨0x3141, 0x3141, 0x5, 0x5, .u8, .ro, 1, 0, .full⟩ /- CLAIM_HELD R196 -/,
  ⟨0x3180, 0x3180, 0x0, 0x7F, .blob, .rws, 32, 0, .bits 0x1FFFFFFFFFFFFFFFFFFFFFFFFFFFFFFFFFFFFFFFFF⟩ /- STAGE_GROUP R191 -/,
  ⟨0x3190, 0x3190, 0x0, 0x0, .blob, .rws, 32, 0, .custom⟩ /- STATE_PLAN R288 -/,
  ⟨0x3190, 0x3190, 0x1, 0x1, .cmd, .cmd, 0, 0, .full⟩ /- STATE_CHECK R288 -/,
  ⟨0x3191, 0x3191, 0x0, 0x0, .blob, .ro, 128, 0, .full⟩ /- SHORTFALL_REPORT R288 -/]

/-- Objects of 4000h to 4FFFh as the chapters' tables give them. -/
def objTable4a : List Obj := [
  ⟨0x4000, 0x4000, 0x0, 0x0, .u16, .rws, 2, 0, .full⟩ /- DEV_ADDR R292 -/,
  ⟨0x4000, 0x4000, 0x1, 0x1, .u8, .rws, 1, 4, .range 0 6⟩ /- SITE_BITS R292 -/,
  ⟨0x4000, 0x4000, 0x2, 0x2, .u8, .rws, 1, 4, .range 0 8⟩ /- X_BITS R292 -/,
  ⟨0x4000, 0x4000, 0x3, 0x3, .u8, .rws, 1, 4, .range 0 8⟩ /- Y_BITS R292 -/,
  ⟨0x4000, 0x4000, 0x4, 0x4, .u8, .ro, 1, 4, .full⟩ /- Z_BITS R292 -/,
  ⟨0x4000, 0x4000, 0x5, 0x5, .u16, .rws, 2, 16, .range 1 256⟩ /- X_SIZE R292 -/,
  ⟨0x4000, 0x4000, 0x6, 0x6, .u16, .rws, 2, 16, .range 1 256⟩ /- Y_SIZE R292 -/,
  ⟨0x4000, 0x4000, 0x7, 0x7, .u16, .rws, 2, 16, .range 1 256⟩ /- Z_SIZE R292 -/,
  ⟨0x4000, 0x4000, 0x8, 0x8, .bool, .ro, 1, 0, .full⟩ /- ADDR_VALID R292 -/,
  ⟨0x4000, 0x4000, 0x9, 0x9, .u32, .ro, 4, 548, .full⟩ /- PART_WORD R292 -/,
  ⟨0x4010, 0x4015, 0x0, 0x0, .u8, .ro, 1, 0, .full⟩ /- PORT_STATE R317 -/,
  ⟨0x4010, 0x4015, 0x1, 0x1, .u32, .ro, 4, 0, .full⟩ /- ACTIVE_MASK R317 -/,
  ⟨0x4010, 0x4015, 0x2, 0x2, .u32, .ro, 4, 0, .full⟩ /- FAILED_MASK R317 -/,
  ⟨0x4010, 0x4015, 0x3, 0x3, .u32, .ro, 4, 0, .full⟩ /- HOP_DELAY R317 -/,
  ⟨0x4010, 0x4015, 0x4, 0x4, .u16, .ro, 2, 0, .full⟩ /- PEER_ADDR R317 -/,
  ⟨0x4010, 0x4015, 0x5, 0x5, .str, .ro, 12, 0, .full⟩ /- PEER_SERIAL R317 -/,
  ⟨0x4010, 0x4015, 0x6, 0x6, .u8, .ro, 1, 0, .full⟩ /- DOWN_CAUSE R317 -/,
  ⟨0x4010, 0x4015, 0x7, 0x7, .bool, .rw, 1, 1, .bool⟩ /- PORT_ENABLE R317 -/,
  ⟨0x4010, 0x4015, 0x8, 0x8, .cmd, .cmd, 0, 0, .full⟩ /- PORT_RESET R317 -/,
  ⟨0x4010, 0x4015, 0x9, 0x9, .u16, .rw, 2, 100, .range 1 1000⟩ /- SPARE_SER R317 -/,
  ⟨0x4010, 0x4015, 0xA, 0xA, .blob, .ro, 104, 0, .full⟩ /- LANE_SER R317 -/,
  ⟨0x4010, 0x4015, 0x10, 0x10, .u64, .ro, 8, 0, .full⟩ /- FEC_CORR R317 -/,
  ⟨0x4010, 0x4015, 0x11, 0x11, .u64, .ro, 8, 0, .full⟩ /- FEC_UNCORR R317 -/,
  ⟨0x4010, 0x4015, 0x12, 0x12, .u64, .ro, 8, 0, .full⟩ /- CRC_ERR R317 -/,
  ⟨0x4010, 0x4015, 0x13, 0x13, .u64, .ro, 8, 0, .full⟩ /- REPLAYS R317 -/,
  ⟨0x4010, 0x4015, 0x14, 0x14, .u64, .ro, 8, 0, .full⟩ /- PKT_DROPPED R317 -/,
  ⟨0x4010, 0x4015, 0x15, 0x15, .u32, .ro, 4, 0, .full⟩ /- LANE_SWAPS R317 -/,
  ⟨0x4010, 0x4015, 0x16, 0x16, .u32, .ro, 4, 0, .full⟩ /- DOWN_COUNT R317 -/,
  ⟨0x4020, 0x4020, 0x0, 0x0, .cmd, .cmd, 0, 0, .full⟩ /- ROUTE_RESTORE R317 -/,
  ⟨0x4020, 0x4020, 0x1, 0x1, .u32, .rw, 4, 50, .range 20 1000⟩ /- ROUTE_QUIET R317 -/]

/-- Objects of 4000h to 4FFFh as the chapters' tables give them. -/
def objTable4b : List Obj := [
  ⟨0x4020, 0x4020, 0x2, 0x2, .blob, .ro, 48, 0, .full⟩ /- RING_STATUS R317 -/,
  ⟨0x4020, 0x4020, 0x3, 0x3, .u64, .ro, 8, 0, .full⟩ /- PKT_UNREACH R317 -/]

/-- Objects of 5000h to 5FFFh as the chapters' tables give them. -/
def objTable5a : List Obj := [
  ⟨0x5000, 0x5000, 0x0, 0x0, .u8, .rws, 1, 1, .range 0 2⟩ /- IG_MODE R388 -/,
  ⟨0x5000, 0x5000, 0x1, 0x1, .u8, .rws, 1, 0, .range 0 1⟩ /- STALENESS R388 -/,
  ⟨0x5000, 0x5000, 0x2, 0x2, .u8, .rws, 1, 0, .range 0 1⟩ /- LATE_POLICY R388 -/,
  ⟨0x5000, 0x5000, 0x3, 0x3, .u32, .rws, 4, 60000, .range 10 3600000⟩ /- DEADLINE_MS R388 -/,
  ⟨0x5000, 0x5000, 0x4, 0x4, .u32, .rws, 4, 200, .range 10 60000⟩ /- ADMIT_WAIT_MS R388 -/,
  ⟨0x5000, 0x5000, 0x5, 0x5, .u8, .rws, 1, 3, .range 1 255⟩ /- MISS_LIMIT R388 -/,
  ⟨0x5000, 0x5000, 0x6, 0x6, .u8, .rws, 1, 1, .range 1 64⟩ /- MIN_SITES R388 -/,
  ⟨0x5000, 0x5000, 0x7, 0x7, .u8, .rws, 1, 200, .range 1 254⟩ /- IG_K R388 -/,
  ⟨0x5000, 0x5000, 0x8, 0x8, .u8, .rws, 1, 20, .range 0 127⟩ /- IG_P R388 -/,
  ⟨0x5000, 0x5000, 0x9, 0x9, .u16, .rws, 2, 8192, .rangeStep 1024 8192 16⟩ /- SLICE R388 -/,
  ⟨0x5000, 0x5000, 0xA, 0xA, .u64, .rws, 8, 0, .custom⟩ /- SITES R388 -/,
  ⟨0x5000, 0x5000, 0xB, 0xB, .u32, .rws, 4, 0, .full⟩ /- ROUND0 R388 -/,
  ⟨0x5000, 0x5000, 0xC, 0xC, .u16, .rws, 2, 0, .full⟩ /- EPOCH0 R388 -/,
  ⟨0x5000, 0x5000, 0xD, 0xD, .u16, .rws, 2, 0, .range 0 32768⟩ /- IG_BOOK_BASE R388 -/,
  ⟨0x5000, 0x5000, 0xE, 0xE, .u64, .rws, 8, 0, .step 32⟩ /- PEER_TABLE R388 -/,
  ⟨0x5000, 0x5000, 0xF, 0xF, .u16, .rws, 2, 0, .range 0 16384⟩ /- PEER_COUNT R388 -/,
  ⟨0x5000, 0x5000, 0x10, 0x10, .u32, .rws, 4, 2000, .range 100 1000000⟩ /- NAK_WAIT_US R388 -/,
  ⟨0x5000, 0x5000, 0x11, 0x11, .u16, .rws, 2, 5, .range 1 1000⟩ /- POLL_US R388 -/,
  ⟨0x5000, 0x5000, 0x12, 0x12, .u32, .rws, 4, 10000, .range 1000 600000⟩ /- LIVENESS_MS R388 -/,
  ⟨0x5000, 0x5000, 0x18, 0x18, .cmd, .cmd, 0, 0, .full⟩ /- IG_FORM R388 -/,
  ⟨0x5000, 0x5000, 0x19, 0x19, .cmd, .cmd, 0, 0, .full⟩ /- IG_JOIN R388 -/,
  ⟨0x5000, 0x5000, 0x1A, 0x1A, .u8, .rw, 1, 0, .full⟩ /- IG_SELECT R388 -/,
  ⟨0x5001, 0x5001, 0x0, 0x0, .u8, .ro, 1, 0, .full⟩ /- IG_STATE R388 -/,
  ⟨0x5001, 0x5001, 0x1, 0x1, .u32, .ro, 4, 0, .full⟩ /- ROUND R388 -/,
  ⟨0x5001, 0x5001, 0x2, 0x2, .u16, .ro, 2, 0, .full⟩ /- EPOCH R388 -/,
  ⟨0x5001, 0x5001, 0x3, 0x3, .u64, .ro, 8, 0, .full⟩ /- PRESENT R388 -/,
  ⟨0x5001, 0x5001, 0x4, 0x4, .u64, .ro, 8, 0, .full⟩ /- LAST_ADMIT R388 -/,
  ⟨0x5001, 0x5001, 0x5, 0x5, .u8, .ro, 1, 0, .full⟩ /- COORD R388 -/,
  ⟨0x5001, 0x5001, 0x6, 0x6, .u8, .ro, 1, 0, .full⟩ /- MISSES R388 -/,
  ⟨0x5002, 0x5002, 0x0, 0x0, .u64, .ro, 8, 0, .full⟩ /- ROUNDS_ADMITTED R388 -/]

/-- Objects of 5000h to 5FFFh as the chapters' tables give them. -/
def objTable5b : List Obj := [
  ⟨0x5002, 0x5002, 0x1, 0x1, .u64, .ro, 8, 0, .full⟩ /- ROUNDS_MISSED R388 -/,
  ⟨0x5002, 0x5002, 0x2, 0x2, .u64, .ro, 8, 0, .full⟩ /- LATE R388 -/,
  ⟨0x5002, 0x5002, 0x3, 0x3, .u64, .ro, 8, 0, .full⟩ /- DROPPED R388 -/,
  ⟨0x5002, 0x5002, 0x4, 0x4, .u32, .ro, 4, 0, .full⟩ /- REMOVALS R388 -/,
  ⟨0x5010, 0x5011, 0x0, 0x0, .u8, .ro, 1, 0, .full⟩ /- LH_STATE R389 -/,
  ⟨0x5010, 0x5011, 0x1, 0x1, .blob, .rws, 6, 0, .full⟩ /- PORT_MAC R389 -/,
  ⟨0x5010, 0x5011, 0x2, 0x2, .blob, .rws, 6, 0, .full⟩ /- NEXTHOP_MAC R389 -/,
  ⟨0x5010, 0x5011, 0x3, 0x3, .u16, .rws, 2, 0, .full⟩ /- VLAN R389 -/,
  ⟨0x5010, 0x5011, 0x4, 0x4, .blob, .rws, 16, 0, .full⟩ /- IPV6_ADDR R389 -/,
  ⟨0x5010, 0x5011, 0x5, 0x5, .u16, .rws, 2, 47104, .range 1024 65520⟩ /- UDP_PORT R389 -/,
  ⟨0x5010, 0x5011, 0x6, 0x6, .u8, .rws, 1, 0, .range 0 63⟩ /- DSCP R389 -/,
  ⟨0x5010, 0x5011, 0x7, 0x7, .u8, .rws, 1, 64, .range 1 255⟩ /- HOP_LIMIT R389 -/,
  ⟨0x5010, 0x5011, 0x8, 0x8, .u32, .rws, 4, 0, .full⟩ /- NONCE_PREFIX R389 -/,
  ⟨0x5010, 0x5011, 0x9, 0x9, .u64, .rws, 8, 0, .full⟩ /- NONCE_NEXT R389 -/,
  ⟨0x5010, 0x5011, 0xA, 0xA, .u64, .rws, 8, 0, .step 4096⟩ /- INTAKE_ADDR R389 -/,
  ⟨0x5010, 0x5011, 0xB, 0xB, .u64, .rws, 8, 0, .rangeStep 0 0x400000000 0x100000⟩ /- INTAKE_BYTES R389 -/,
  ⟨0x5010, 0x5011, 0xC, 0xC, .bool, .rw, 1, 1, .bool⟩ /- PORT_ENABLE R389 -/,
  ⟨0x5010, 0x5011, 0xD, 0xD, .cmd, .cmd, 0, 0, .full⟩ /- PORT_RESET R389 -/,
  ⟨0x5010, 0x5011, 0x10, 0x10, .u64, .ro, 8, 0, .full⟩ /- TX_FRAMES R389 -/,
  ⟨0x5010, 0x5011, 0x11, 0x11, .u64, .ro, 8, 0, .full⟩ /- RX_FRAMES R389 -/,
  ⟨0x5010, 0x5011, 0x12, 0x12, .u64, .ro, 8, 0, .full⟩ /- RX_DROPPED R389 -/,
  ⟨0x5010, 0x5011, 0x13, 0x13, .u64, .ro, 8, 0, .full⟩ /- AUTH_FAIL R389 -/,
  ⟨0x5010, 0x5011, 0x14, 0x14, .u64, .ro, 8, 0, .full⟩ /- RESENT R389 -/,
  ⟨0x5010, 0x5011, 0x15, 0x15, .u64, .ro, 8, 0, .full⟩ /- REBUILT R389 -/,
  ⟨0x5010, 0x5011, 0x16, 0x16, .u64, .ro, 8, 0, .full⟩ /- GROUPS_RECOVERED R389 -/,
  ⟨0x5010, 0x5011, 0x17, 0x17, .u64, .ro, 8, 0, .full⟩ /- GROUPS_NAKED R389 -/,
  ⟨0x5010, 0x5011, 0x18, 0x18, .u64, .ro, 8, 0, .full⟩ /- INTAKE_FULL R389 -/,
  ⟨0x5010, 0x5011, 0x19, 0x19, .u64, .ro, 8, 0, .full⟩ /- STALE R389 -/,
  ⟨0x5030, 0x5030, 0x0, 0x3F, .u8, .rws, 1, 0, .zeroOr 4 255⟩ /- TX_KEY R388 -/,
  ⟨0x5031, 0x5031, 0x0, 0x3F, .u8, .rws, 1, 0, .zeroOr 4 255⟩ /- RX_KEY R388 -/]

/-- Objects of 5000h to 5FFFh as the chapters' tables give them. -/
def objTable5c : List Obj := [
  ⟨0x5040, 0x5040, 0x0, 0xFF, .u64, .rws, 8, 0, .step 256⟩ /- SERVED_BLOCK R388 -/]

/-- Objects of 6000h to 6FFFh as the chapters' tables give them. -/
def objTable6 : List Obj := [
  ⟨0x6000, 0x6000, 0x0, 0x0, .u8, .ro, 1, 0, .full⟩ /- VAULT_STATE R411 -/,
  ⟨0x6000, 0x6000, 0x1, 0x1, .cmd, .cmd, 72, 0, .full⟩ /- KEY_LOAD R411 -/,
  ⟨0x6000, 0x6000, 0x2, 0x2, .cmd, .cmd, 1, 0, .full⟩ /- KEY_ERASE R411 -/,
  ⟨0x6000, 0x6000, 0x3, 0x3, .cmd, .cmd, 0, 0, .full⟩ /- ERASE_ALL R411 -/,
  ⟨0x6000, 0x6000, 0x4, 0x4, .u8, .rw, 1, 0, .full⟩ /- SLOT_SELECT R411 -/,
  ⟨0x6000, 0x6000, 0x5, 0x5, .u8, .ro, 1, 0, .full⟩ /- SLOT_STATE R411 -/,
  ⟨0x6000, 0x6000, 0x6, 0x6, .u32, .ro, 4, 0, .full⟩ /- SLOT_KEY_ID R411 -/,
  ⟨0x6000, 0x6000, 0x7, 0x7, .u8, .ro, 1, 0, .full⟩ /- SLOT_USE R411 -/,
  ⟨0x6000, 0x6000, 0x8, 0x8, .u32, .ro, 4, 0, .full⟩ /- SLOT_GEN R411 -/,
  ⟨0x6000, 0x6000, 0x9, 0x9, .blob, .ro, 32, 0, .full⟩ /- SLOT_MAP R411 -/,
  ⟨0x6000, 0x6000, 0xA, 0xA, .u8, .ro, 1, 0, .full⟩ /- ALARM_CAUSE R411 -/,
  ⟨0x6000, 0x6000, 0xB, 0xB, .u32, .ro, 4, 0, .full⟩ /- ALARM_COUNT R411 -/,
  ⟨0x6000, 0x6000, 0xC, 0xC, .u32, .ro, 4, 0, .full⟩ /- BLOB_FAIL R411 -/,
  ⟨0x6000, 0x6000, 0xD, 0xD, .cmd, .cmd, 1, 0, .full⟩ /- SELFTEST R411 -/,
  ⟨0x6000, 0x6000, 0x10, 0x10, .u64, .ro, 8, 0, .full⟩ /- OPS R411 -/,
  ⟨0x6000, 0x6000, 0x11, 0x11, .u64, .ro, 8, 0, .full⟩ /- BYTES R411 -/,
  ⟨0x6000, 0x6000, 0x12, 0x12, .u32, .ro, 4, 0, .full⟩ /- MISMATCH R411 -/,
  ⟨0x6000, 0x6000, 0x13, 0x13, .u64, .ro, 8, 0, .full⟩ /- TAG_FAILS R411 -/,
  ⟨0x6000, 0x6000, 0x14, 0x14, .u32, .ro, 4, 0, .full⟩ /- ERASE_ABORTS R411 -/,
  ⟨0x6000, 0x6000, 0x15, 0x15, .u32, .ro, 4, 0, .full⟩ /- LENGTH_REFUSED R411 -/,
  ⟨0x6000, 0x6000, 0x16, 0x16, .u32, .ro, 4, 0, .full⟩ /- MGMT_MISMATCH R411 -/,
  ⟨0x6000, 0x6000, 0x18, 0x18, .u64, .ro, 8, 0, .full⟩ /- OPS R411 -/,
  ⟨0x6000, 0x6000, 0x19, 0x19, .u64, .ro, 8, 0, .full⟩ /- BYTES R411 -/,
  ⟨0x6000, 0x6000, 0x1A, 0x1A, .u32, .ro, 4, 0, .full⟩ /- MISMATCH R411 -/,
  ⟨0x6000, 0x6000, 0x1B, 0x1B, .u64, .ro, 8, 0, .full⟩ /- TAG_FAILS R411 -/,
  ⟨0x6000, 0x6000, 0x1C, 0x1C, .u32, .ro, 4, 0, .full⟩ /- ERASE_ABORTS R411 -/,
  ⟨0x6000, 0x6000, 0x1D, 0x1D, .u32, .ro, 4, 0, .full⟩ /- LENGTH_REFUSED R411 -/]

/-- Objects of 7000h to 7FFFh as the chapters' tables give them. -/
def objTable7 : List Obj := [
  ⟨0x7000, 0x7FFF, 0x0, 0x0, .u8, .ro, 1, 0, .full⟩ /- CTX_STATE R462 -/,
  ⟨0x7000, 0x7FFF, 0x1, 0x1, .u8, .rws, 1, 0, .full⟩ /- FUNCTION R462 -/,
  ⟨0x7000, 0x7FFF, 0x2, 0x2, .u32, .rws, 4, 0, .bits 0x800FFFFF⟩ /- PASID R462 -/,
  ⟨0x7000, 0x7FFF, 0x3, 0x3, .u64, .rws, 8, 0, .step 4096⟩ /- CMD_RING R462 -/,
  ⟨0x7000, 0x7FFF, 0x4, 0x4, .u32, .rws, 4, 0, .pow2 16 65536⟩ /- CMD_ENTRIES R462 -/,
  ⟨0x7000, 0x7FFF, 0x5, 0x5, .u64, .rws, 8, 0, .step 4096⟩ /- EVT_RING R462 -/,
  ⟨0x7000, 0x7FFF, 0x6, 0x6, .u32, .rws, 4, 0, .pow2 64 65536⟩ /- EVT_ENTRIES R462 -/,
  ⟨0x7000, 0x7FFF, 0x7, 0x7, .u16, .rws, 2, 65535, .custom⟩ /- MSIX_VECTOR R462 -/,
  ⟨0x7000, 0x7FFF, 0x8, 0x8, .u16, .rw, 2, 0, .range 0 10000⟩ /- INTR_US R462 -/,
  ⟨0x7000, 0x7FFF, 0x9, 0x9, .blob, .rws, 16, 0, .full⟩ /- CORE_GRANT R462 -/,
  ⟨0x7000, 0x7FFF, 0xA, 0xA, .blob, .rws, 32, 0, .bits 0xFFFFFFFFFFFFFFFFFFFFFFFFFFFFFFFFFFFFFFFFFFFFFFFFFFFFFFFFFFFFFFF0⟩ /- KEY_GRANT R462 -/,
  ⟨0x7000, 0x7FFF, 0xB, 0xB, .u32, .rws, 4, 0, .rangeStep 0 65520 16⟩ /- CLAIM_BASE R462 -/,
  ⟨0x7000, 0x7FFF, 0xC, 0xC, .u32, .rws, 4, 0, .rangeStep 0 65536 16⟩ /- CLAIM_COUNT R462 -/,
  ⟨0x7000, 0x7FFF, 0xD, 0xD, .u32, .rws, 4, 0, .range 0 65536⟩ /- HANDLE_GRANT R462 -/,
  ⟨0x7000, 0x7FFF, 0xE, 0xE, .u64, .rws, 8, 0, .step 4096⟩ /- MEM_LIMIT R462 -/,
  ⟨0x7000, 0x7FFF, 0x10, 0x10, .u64, .ro, 8, 0, .full⟩ /- MAPPED_BYTES R462 -/,
  ⟨0x7000, 0x7FFF, 0x11, 0x11, .u64, .ro, 8, 0, .full⟩ /- EVT_LOST R462 -/,
  ⟨0x7000, 0x7FFF, 0x12, 0x12, .u32, .ro, 4, 0, .full⟩ /- DB_BAD R462 -/,
  ⟨0x7000, 0x7FFF, 0x13, 0x13, .u32, .ro, 4, 0, .full⟩ /- HANDLES_USED R462 -/,
  ⟨0x7000, 0x7FFF, 0x14, 0x14, .u64, .ro, 8, 0, .full⟩ /- CMD_DONE R462 -/,
  ⟨0x7000, 0x7FFF, 0x18, 0x18, .cmd, .cmd, 0, 0, .full⟩ /- CTX_OPEN R462 -/,
  ⟨0x7000, 0x7FFF, 0x19, 0x19, .cmd, .cmd, 0, 0, .full⟩ /- CTX_CLOSE R462 -/,
  ⟨0x7000, 0x7FFF, 0x1A, 0x1A, .cmd, .cmd, 16, 0, .full⟩ /- JOB_START R462 -/,
  ⟨0x7000, 0x7FFF, 0x1B, 0x1B, .cmd, .cmd, 0, 0, .full⟩ /- JOB_END R462 -/,
  ⟨0x7000, 0x7FFF, 0x20, 0x20, .u32, .rw, 4, 0, .full⟩ /- HANDLE_SELECT R462 -/,
  ⟨0x7000, 0x7FFF, 0x21, 0x21, .blob, .ro, 16, 0, .full⟩ /- HANDLE_RECORD R462 -/,
  ⟨0x7000, 0x7FFF, 0x22, 0x22, .cmd, .cmd, 0, 0, .full⟩ /- HANDLE_SWEEP R462 -/]

/-- Objects of 8000h to 8FFFh as the chapters' tables give them. -/
def objTable8 : List Obj := [
  ⟨0x8000, 0x8000, 0x0, 0x0, .u16, .rw, 2, 0, .range 0 4095⟩ /- GROUP_SELECT R320 -/,
  ⟨0x8001, 0x8001, 0x0, 0x0, .u8, .ro, 1, 0, .full⟩ /- STATE R324 -/,
  ⟨0x8001, 0x8001, 0x1, 0x1, .u16, .ro, 2, 0, .full⟩ /- EPOCH R324 -/,
  ⟨0x8001, 0x8001, 0x2, 0x2, .u32, .ro, 4, 0, .full⟩ /- SEQ R324 -/,
  ⟨0x8001, 0x8001, 0x3, 0x3, .blob, .ro, 32, 0, .full⟩ /- PRESENT R324 -/,
  ⟨0x8001, 0x8001, 0x4, 0x4, .u32, .ro, 4, 0, .full⟩ /- REFORMS R324 -/,
  ⟨0x8001, 0x8001, 0x5, 0x5, .u64, .ro, 8, 0, .full⟩ /- STALE_PKTS R324 -/,
  ⟨0x8001, 0x8001, 0x6, 0x6, .u32, .ro, 4, 0, .full⟩ /- SLOW_RX R324 -/,
  ⟨0x8001, 0x8001, 0x7, 0x7, .u64, .ro, 8, 0, .full⟩ /- COLL_TRUNC R324 -/,
  ⟨0x8002, 0x8002, 0x0, 0x0, .cmd, .cmd, 2, 0, .full⟩ /- GROUP_FORM R320 -/,
  ⟨0x8002, 0x8002, 0x1, 0x1, .cmd, .cmd, 2, 0, .full⟩ /- GROUP_DISSOLVE R320 -/,
  ⟨0x8010, 0x801F, 0x0, 0xFF, .blob, .rws, 64, 0, .custom⟩ /- GROUP_DESC R320 -/,
  ⟨0x8100, 0x8100, 0x0, 0x0, .u16, .rw, 2, 4096, .custom⟩ /- ARB_SELECT R518 -/,
  ⟨0x8100, 0x8100, 0x1, 0x1, .bool, .rw, 1, 0, .bool⟩ /- FREEZE R518 -/,
  ⟨0x8100, 0x8100, 0x2, 0x2, .bool, .ro, 1, 0, .full⟩ /- FROZEN R518 -/,
  ⟨0x8100, 0x8100, 0x3, 0x3, .u64, .ro, 8, 0, .full⟩ /- GRANTS R518 -/,
  ⟨0x8100, 0x8100, 0x4, 0x4, .u64, .ro, 8, 0, .full⟩ /- RESERVED_GRANTS R518 -/,
  ⟨0x8100, 0x8100, 0x5, 0x5, .u64, .ro, 8, 0, .full⟩ /- PRIV_GRANTS R518 -/,
  ⟨0x8100, 0x8100, 0x6, 0x6, .u32, .ro, 4, 0, .full⟩ /- PEAK_AGE R518 -/,
  ⟨0x8100, 0x8100, 0x7, 0x7, .u32, .ro, 4, 0, .full⟩ /- WDOG_BITES R518 -/,
  ⟨0x8110, 0x8110, 0x1, 0x8, .u8, .rw, 1, 16, .range 4 64⟩ /- STARVE_N R518 -/,
  ⟨0x8120, 0x8120, 0x0, 0x0, .u32, .rw, 4, 50, .range 1 1000⟩ /- RES_WDOG_MS R518 -/]

/-- Objects of 9000h to 9FFFh as the chapters' tables give them. -/
def objTable9a : List Obj := [
  ⟨0x9000, 0x9000, 0x0, 0x0, .u64, .rws, 8, 0, .step 32⟩ /- PLAN_ADDR R432 -/,
  ⟨0x9000, 0x9000, 0x1, 0x1, .u16, .rws, 2, 0, .range 0 4096⟩ /- PLAN_ENTRIES R432 -/,
  ⟨0x9000, 0x9000, 0x2, 0x2, .cmd, .cmd, 32, 0, .full⟩ /- PROOF_START R432 -/,
  ⟨0x9000, 0x9000, 0x3, 0x3, .cmd, .cmd, 0, 0, .full⟩ /- PROOF_ABORT R432 -/,
  ⟨0x9000, 0x9000, 0x4, 0x4, .cmd, .cmd, 12, 0, .full⟩ /- RESTORE R432 -/,
  ⟨0x9000, 0x9000, 0x5, 0x5, .u8, .rw, 1, 100, .range 1 100⟩ /- PROOF_RATE R432 -/,
  ⟨0x9000, 0x9000, 0x6, 0x6, .u8, .rw, 1, 0, .range 0 1⟩ /- COW_POLICY R432 -/,
  ⟨0x9000, 0x9000, 0x7, 0x7, .u32, .rw, 4, 30000, .range 100 600000⟩ /- SINK_TIMEOUT_MS R432 -/,
  ⟨0x9010, 0x9010, 0x0, 0x0, .u64, .rws, 8, 0, .step 4096⟩ /- SINK_BUF R432 -/,
  ⟨0x9010, 0x9010, 0x1, 0x1, .u32, .rws, 4, 4194304, .pow2 0x100000 0x4000000⟩ /- SINK_BUF_SIZE R432 -/,
  ⟨0x9010, 0x9010, 0x2, 0x2, .u16, .rws, 2, 0, .zeroOr 2 256⟩ /- SINK_BUF_COUNT R432 -/,
  ⟨0x9010, 0x9010, 0x3, 0x3, .u64, .rws, 8, 0, .step 64⟩ /- SINK_REC R432 -/,
  ⟨0x9010, 0x9010, 0x4, 0x4, .u64, .rws, 8, 0, .step 4⟩ /- SINK_DB R432 -/,
  ⟨0x9020, 0x9020, 0x0, 0x0, .u8, .ro, 1, 0, .full⟩ /- PROOF_STATE R432 -/,
  ⟨0x9020, 0x9020, 0x1, 0x1, .u32, .ro, 4, 0, .full⟩ /- PROOF_GEN R432 -/,
  ⟨0x9020, 0x9020, 0x2, 0x2, .u32, .ro, 4, 0, .full⟩ /- LAST_GEN R432 -/,
  ⟨0x9020, 0x9020, 0x3, 0x3, .u64, .ro, 8, 0, .full⟩ /- SNAP_STEP R432 -/,
  ⟨0x9020, 0x9020, 0x4, 0x4, .u64, .ro, 8, 0, .full⟩ /- BYTES_PLANNED R432 -/,
  ⟨0x9020, 0x9020, 0x5, 0x5, .u64, .ro, 8, 0, .full⟩ /- BYTES_DRAINED R432 -/,
  ⟨0x9020, 0x9020, 0x6, 0x6, .u64, .ro, 8, 0, .full⟩ /- COW_USED R432 -/,
  ⟨0x9020, 0x9020, 0x7, 0x7, .u64, .ro, 8, 0, .full⟩ /- COW_PEAK R432 -/,
  ⟨0x9020, 0x9020, 0x8, 0x8, .u64, .ro, 8, 0, .full⟩ /- COW_COPIES R432 -/,
  ⟨0x9020, 0x9020, 0x9, 0x9, .u64, .ro, 8, 0, .full⟩ /- HELD_WRITES R432 -/,
  ⟨0x9020, 0x9020, 0xA, 0xA, .u16, .ro, 2, 0, .full⟩ /- LAST_STATUS R432 -/,
  ⟨0x9030, 0x9030, 0x0, 0x0, .u8, .rws, 1, 2, .orAlt 0 5 0xFF⟩ /- CP_TO R432 -/,
  ⟨0x9030, 0x9030, 0x1, 0x1, .u8, .rws, 1, 3, .orAlt 0 5 0xFF⟩ /- CP_FROM R432 -/,
  ⟨0x9030, 0x9030, 0x2, 0x2, .u8, .ro, 1, 0, .full⟩ /- CP_STATE R432 -/,
  ⟨0x9030, 0x9030, 0x3, 0x3, .u16, .ro, 2, 0, .full⟩ /- CP_SRC R432 -/,
  ⟨0x9030, 0x9030, 0x4, 0x4, .u32, .ro, 4, 0, .full⟩ /- CP_GEN R432 -/,
  ⟨0x9030, 0x9030, 0x5, 0x5, .u64, .ro, 8, 0, .full⟩ /- CP_STEP R432 -/]

/-- Objects of 9000h to 9FFFh as the chapters' tables give them. -/
def objTable9b : List Obj := [
  ⟨0x9030, 0x9030, 0x6, 0x6, .u64, .ro, 8, 0, .full⟩ /- CP_REJECTED R432 -/]

/-- Objects of A000h to AFFFh as the chapters' tables give them. -/
def objTableAa : List Obj := [
  ⟨0xA000, 0xA000, 0x0, 0x0, .u8, .ro, 1, 0, .full⟩ /- DEVICE_STATE R562 -/,
  ⟨0xA000, 0xA000, 0x1, 0x1, .u8, .ro, 1, 1, .full⟩ /- RESET_CAUSE R562 -/,
  ⟨0xA000, 0xA000, 0x2, 0x2, .u8, .ro, 1, 0, .full⟩ /- RESET_DETAIL R562 -/,
  ⟨0xA000, 0xA000, 0x3, 0x3, .u16, .ro, 2, 0, .full⟩ /- RESET_OTHER R562 -/,
  ⟨0xA000, 0xA000, 0x4, 0x4, .blob, .ro, 512, 0, .full⟩ /- RESET_HISTORY R562 -/,
  ⟨0xA000, 0xA000, 0x5, 0x5, .u32, .ro, 4, 0, .full⟩ /- WARM_RESETS R562 -/,
  ⟨0xA000, 0xA000, 0x6, 0x6, .u8, .ro, 1, 0, .full⟩ /- START_STEP R562 -/,
  ⟨0xA000, 0xA000, 0x7, 0x7, .u16, .ro, 2, 0, .full⟩ /- FW_STATUS R562 -/,
  ⟨0xA000, 0xA000, 0x8, 0x8, .u32, .ro, 4, 0, .full⟩ /- RETAINED_UE R562 -/,
  ⟨0xA000, 0xA000, 0x10, 0x10, .cmd, .cmd, 1, 0, .full⟩ /- DEVICE_RESET R562 -/,
  ⟨0xA010, 0xA010, 0x0, 0x0, .u64, .ro, 8, 0, .full⟩ /- LAST_GEN R562 -/,
  ⟨0xA010, 0xA010, 0x1, 0x7, .u64, .ro, 8, 0, .full⟩ /- BACKUP_DEV R562 -/,
  ⟨0xA010, 0xA010, 0x8, 0x1F, .u64, .rw, 8, 0, .full⟩ /- BACKUP R562 -/,
  ⟨0xA011, 0xA011, 0x0, 0x0, .blob, .rw, 49152, 0, .full⟩ /- RETAINED R562 -/,
  ⟨0xA020, 0xA020, 0x0, 0x0, .u8, .ro, 1, 0, .full⟩ /- FW_BANK_ACTIVE R562 -/,
  ⟨0xA020, 0xA020, 0x1, 0x1, .u8, .rws, 1, 0, .range 0 1⟩ /- FW_BANK_NEXT R562 -/,
  ⟨0xA020, 0xA020, 0x2, 0x2, .u32, .ro, 4, 0, .full⟩ /- FW_VERSION0 R562 -/,
  ⟨0xA020, 0xA020, 0x3, 0x3, .u32, .ro, 4, 0, .full⟩ /- FW_VERSION1 R562 -/,
  ⟨0xA020, 0xA020, 0x4, 0x4, .u8, .ro, 1, 0, .full⟩ /- FW_SVN_MIN R562 -/,
  ⟨0xA020, 0xA020, 0x5, 0x5, .u8, .ro, 1, 0, .full⟩ /- FW_VALID R562 -/,
  ⟨0xA020, 0xA020, 0x8, 0x8, .cmd, .cmd, 16, 0, .full⟩ /- FW_UPDATE R562 -/,
  ⟨0xA020, 0xA020, 0x9, 0x9, .cmd, .cmd, 1, 0, .full⟩ /- FW_SVN_RAISE R562 -/,
  ⟨0xA030, 0xA030, 0x0, 0x0, .cmd, .cmd, 4, 0, .full⟩ /- ENGINE_RESET R587 -/,
  ⟨0xA030, 0xA030, 0x1, 0x1, .blob, .ro, 64, 0, .full⟩ /- STALLED R587 -/,
  ⟨0xA030, 0xA030, 0x2, 0x2, .u16, .rw, 2, 0, .range 0 511⟩ /- PROGRESS_SELECT R587 -/,
  ⟨0xA030, 0xA030, 0x3, 0x3, .u64, .ro, 8, 0, .full⟩ /- PROGRESS R587 -/,
  ⟨0xA031, 0xA031, 0x1, 0x8, .u32, .rw, 4, 1000, .range 10 3600000⟩ /- STALL_MS R587 -/,
  ⟨0xA031, 0xA031, 0x10, 0x10, .u16, .rw, 2, 0, .bits 0x1FE⟩ /- AUTO_RESET R587 -/,
  ⟨0xA031, 0xA031, 0x11, 0x11, .u32, .rw, 4, 0, .rangeStep 0 12578816 4096⟩ /- SAMPLE_BASE R587 -/,
  ⟨0xA031, 0xA031, 0x12, 0x12, .u16, .rw, 2, 64, .rangeStep 0 12288 4⟩ /- SAMPLE_KB R587 -/]

/-- Objects of A000h to AFFFh as the chapters' tables give them. -/
def objTableAb : List Obj := [
  ⟨0xA031, 0xA031, 0x13, 0x13, .bool, .rw, 1, 1, .bool⟩ /- DUMP_ON_RESET R587 -/,
  ⟨0xA040, 0xA040, 0x0, 0x0, .blob, .ro, 16, 0, .full⟩ /- WITHDRAWN R587 -/,
  ⟨0xA040, 0xA040, 0x1, 0x1, .cmd, .cmd, 1, 0, .full⟩ /- CORE_WITHDRAW R587 -/,
  ⟨0xA040, 0xA040, 0x2, 0x2, .cmd, .cmd, 1, 0, .full⟩ /- CORE_TEST R587 -/,
  ⟨0xA040, 0xA040, 0x3, 0x3, .cmd, .cmd, 1, 0, .full⟩ /- REINSTATE R587 -/,
  ⟨0xA050, 0xA050, 0x0, 0x0, .u8, .rws, 1, 0, .range 0 1⟩ /- HB_MODE R587 -/,
  ⟨0xA050, 0xA050, 0x1, 0x1, .bool, .ro, 1, 0, .full⟩ /- HB_ACTIVE R587 -/,
  ⟨0xA050, 0xA050, 0x2, 0x2, .u32, .ro, 4, 0, .full⟩ /- HB_SEQ R587 -/,
  ⟨0xA050, 0xA050, 0x3, 0x3, .u64, .rws, 8, 0, .step 4096⟩ /- HB_HOST_ADDR R587 -/,
  ⟨0xA050, 0xA050, 0x4, 0x4, .bool, .rw, 1, 1, .bool⟩ /- HB_ESCALATE R587 -/,
  ⟨0xA050, 0xA050, 0x5, 0x5, .u32, .ro, 4, 0, .full⟩ /- ESC_REFUSED R587 -/,
  ⟨0xA050, 0xA050, 0x6, 0x6, .u16, .rw, 2, 100, .range 20 1000⟩ /- CMC_WDOG_MS R587 -/,
  ⟨0xA050, 0xA050, 0x7, 0x7, .u8, .ro, 1, 0, .full⟩ /- CMC_ACTIVE R587 -/,
  ⟨0xA050, 0xA050, 0x8, 0x8, .u32, .ro, 4, 0, .full⟩ /- CMC_FAILOVERS R587 -/,
  ⟨0xA050, 0xA050, 0x9, 0x9, .u16, .ro, 2, 0, .full⟩ /- HB_EPOCH R587 -/,
  ⟨0xA060, 0xA060, 0x0, 0x0, .u64, .ro, 8, 0, .full⟩ /- UNPLANNED_MS R587 -/,
  ⟨0xA060, 0xA060, 0x1, 0x1, .bool, .rw, 1, 0, .bool⟩ /- MAINTENANCE R587 -/,
  ⟨0xA100, 0xA17F, 0x0, 0x0, .u8, .ro, 1, 0, .full⟩ /- F_STATE R134 -/,
  ⟨0xA100, 0xA17F, 0x1, 0x1, .u16, .ro, 2, 0, .full⟩ /- F_STATUS R134 -/,
  ⟨0xA100, 0xA17F, 0x2, 0x2, .u16, .ro, 2, 0, .full⟩ /- F_STROKE R134 -/,
  ⟨0xA100, 0xA17F, 0x3, 0x3, .u8, .ro, 1, 0, .full⟩ /- B_STATE R134 -/,
  ⟨0xA100, 0xA17F, 0x4, 0x4, .u16, .ro, 2, 0, .full⟩ /- B_STATUS R134 -/,
  ⟨0xA100, 0xA17F, 0x5, 0x5, .u16, .ro, 2, 0, .full⟩ /- B_STROKE R134 -/,
  ⟨0xA100, 0xA17F, 0x6, 0x6, .blob, .ro, 48, 0, .full⟩ /- FAULT_F R134 -/,
  ⟨0xA100, 0xA17F, 0x7, 0x7, .blob, .ro, 48, 0, .full⟩ /- FAULT_B R134 -/,
  ⟨0xA100, 0xA17F, 0x8, 0x8, .blob, .ro, 256, 0, .full⟩ /- TOKENS R134 -/,
  ⟨0xA100, 0xA17F, 0x9, 0x9, .blob, .ro, 128, 0, .full⟩ /- CREDITS R134 -/,
  ⟨0xA100, 0xA17F, 0x10, 0x10, .u32, .ro, 4, 0, .full⟩ /- FMT_OVF R134 -/,
  ⟨0xA100, 0xA17F, 0x11, 0x11, .u32, .ro, 4, 0, .full⟩ /- FMT_NAN R134 -/,
  ⟨0xA100, 0xA17F, 0x12, 0x12, .u32, .ro, 4, 0, .full⟩ /- FMT_FLUSH R134 -/]

/-- Objects of A000h to AFFFh as the chapters' tables give them. -/
def objTableAc : List Obj := [
  ⟨0xA100, 0xA17F, 0x13, 0x13, .u32, .ro, 4, 0, .full⟩ /- ARR_EMPTY R134 -/,
  ⟨0xA100, 0xA17F, 0x14, 0x14, .u32, .ro, 4, 0, .full⟩ /- ARR_TRUNC R134 -/,
  ⟨0xA100, 0xA17F, 0x15, 0x15, .u32, .ro, 4, 0, .full⟩ /- ARR_OVF R134 -/,
  ⟨0xA100, 0xA17F, 0x16, 0x16, .u32, .ro, 4, 0, .full⟩ /- ARR_PARITY R134 -/,
  ⟨0xA100, 0xA17F, 0x17, 0x17, .u32, .ro, 4, 0, .full⟩ /- PLATE_CE R134 -/,
  ⟨0xA100, 0xA17F, 0x18, 0x18, .u32, .ro, 4, 0, .full⟩ /- PLATE_UE R134 -/,
  ⟨0xA100, 0xA17F, 0x19, 0x19, .u32, .ro, 4, 0, .full⟩ /- Q_DISCARD R134 -/,
  ⟨0xA100, 0xA17F, 0x1A, 0x1A, .u32, .ro, 4, 0, .full⟩ /- Q_ABORT R134 -/,
  ⟨0xA100, 0xA17F, 0x1B, 0x1B, .u64, .ro, 8, 0, .full⟩ /- ISSUE_F R134 -/,
  ⟨0xA100, 0xA17F, 0x1C, 0x1C, .u64, .ro, 8, 0, .full⟩ /- ISSUE_B R134 -/,
  ⟨0xA100, 0xA17F, 0x1D, 0x1D, .u64, .ro, 8, 0, .full⟩ /- WAIT_F R134 -/,
  ⟨0xA100, 0xA17F, 0x1E, 0x1E, .u64, .ro, 8, 0, .full⟩ /- WAIT_B R134 -/,
  ⟨0xA100, 0xA17F, 0x20, 0x20, .cmd, .cmd, 0, 0, .full⟩ /- COUNTER_CLEAR R134 -/,
  ⟨0xA100, 0xA17F, 0x21, 0x21, .u64, .ro, 8, 0, .full⟩ /- UPD_FULL R287 -/,
  ⟨0xA100, 0xA17F, 0x22, 0x22, .u64, .ro, 8, 0, .full⟩ /- UPD_WEIGHTS R287 -/,
  ⟨0xA100, 0xA17F, 0x23, 0x23, .u64, .ro, 8, 0, .full⟩ /- UPD_DONE R287 -/,
  ⟨0xA100, 0xA17F, 0x24, 0x24, .u64, .ro, 8, 0, .full⟩ /- UPD_TAGERR R287 -/,
  ⟨0xA100, 0xA17F, 0x25, 0x25, .u64, .ro, 8, 0, .full⟩ /- UPD_PASSED R287 -/,
  ⟨0xA100, 0xA17F, 0x28, 0x28, .cmd, .cmd, 0, 0, .full⟩ /- UPD_CLEAR R287 -/,
  ⟨0xA180, 0xA18F, 0x0, 0x0, .u32, .ro, 4, 0, .full⟩ /- MSG_REJECT R135 -/,
  ⟨0xA200, 0xA200, 0x0, 0x0, .blob, .ro, 64, 0, .full⟩ /- DUMP_DIR R587 -/,
  ⟨0xA200, 0xA200, 0x1, 0x1, .blob, .ro, 268435456, 0, .full⟩ /- DUMP_DATA R587 -/,
  ⟨0xA210, 0xA210, 0x0, 0x0, .u32, .rw, 4, 0, .range 0 1048575⟩ /- ERRLOG_SELECT R587 -/,
  ⟨0xA210, 0xA210, 0x1, 0x1, .blob, .ro, 64, 0, .full⟩ /- ERRLOG_RECORD R587 -/,
  ⟨0xA210, 0xA210, 0x2, 0x2, .u32, .rw, 4, 0, .range 0 65535⟩ /- FLOG_SELECT R587 -/,
  ⟨0xA210, 0xA210, 0x3, 0x3, .blob, .ro, 64, 0, .full⟩ /- FLOG_RECORD R587 -/]

/-- Objects of B000h to BFFFh as the chapters' tables give them. -/
def objTableB : List Obj := [
  ⟨0xB000, 0xB000, 0x0, 0x0, .u32, .ro, 4, 1310447523, .full⟩ /- SYNC_MARK R261 -/,
  ⟨0xB000, 0xB000, 0x1, 0x1, .u8, .ro, 1, 12, .full⟩ /- MAX_CODE_LEN R261 -/,
  ⟨0xB010, 0xB010, 0x0, 0x0, .u64, .rws, 8, 0, .step 256⟩ /- BOOK_TABLE R241 -/,
  ⟨0xB010, 0xB010, 0x1, 0x1, .u32, .rws, 4, 0, .range 0 65536⟩ /- BOOK_LIMIT R241 -/,
  ⟨0xB020, 0xB02F, 0x0, 0x0, .u32, .ro, 4, 0, .full⟩ /- BOOKS_BUILT R261 -/,
  ⟨0xB020, 0xB02F, 0x1, 0x1, .u64, .ro, 8, 0, .full⟩ /- ENC_SECTORS R261 -/,
  ⟨0xB020, 0xB02F, 0x2, 0x2, .u64, .ro, 8, 0, .full⟩ /- ENC_RAW R261 -/,
  ⟨0xB020, 0xB02F, 0x3, 0x3, .u64, .ro, 8, 0, .full⟩ /- DEC_SECTORS R261 -/,
  ⟨0xB020, 0xB02F, 0x4, 0x4, .u64, .ro, 8, 0, .full⟩ /- DEC_DAMAGED R261 -/,
  ⟨0xB020, 0xB02F, 0x5, 0x5, .u32, .ro, 4, 0, .full⟩ /- INDEX_FAIL R261 -/,
  ⟨0xB020, 0xB02F, 0x6, 0x6, .u64, .ro, 8, 0, .full⟩ /- RESYNC_FOUND R261 -/,
  ⟨0xB020, 0xB02F, 0x7, 0x7, .u64, .ro, 8, 0, .full⟩ /- FALSE_MARK R261 -/,
  ⟨0xB020, 0xB02F, 0x10, 0x10, .u32, .ro, 4, 0, .full⟩ /- BOOKS_BUILT R261 -/,
  ⟨0xB020, 0xB02F, 0x11, 0x11, .u64, .ro, 8, 0, .full⟩ /- ENC_SECTORS R261 -/,
  ⟨0xB020, 0xB02F, 0x12, 0x12, .u64, .ro, 8, 0, .full⟩ /- ENC_RAW R261 -/,
  ⟨0xB020, 0xB02F, 0x13, 0x13, .u64, .ro, 8, 0, .full⟩ /- DEC_SECTORS R261 -/,
  ⟨0xB020, 0xB02F, 0x14, 0x14, .u64, .ro, 8, 0, .full⟩ /- DEC_DAMAGED R261 -/,
  ⟨0xB020, 0xB02F, 0x15, 0x15, .u32, .ro, 4, 0, .full⟩ /- INDEX_FAIL R261 -/,
  ⟨0xB020, 0xB02F, 0x16, 0x16, .u64, .ro, 8, 0, .full⟩ /- RESYNC_FOUND R261 -/,
  ⟨0xB020, 0xB02F, 0x17, 0x17, .u64, .ro, 8, 0, .full⟩ /- FALSE_MARK R261 -/,
  ⟨0xB100, 0xB17F, 0x0, 0x0, .u64, .ro, 8, 0, .full⟩ /- EXP_SECTORS R261 -/,
  ⟨0xB100, 0xB17F, 0x1, 0x1, .u32, .ro, 4, 0, .full⟩ /- EXP_DAMAGED R261 -/]

/-- Objects of C000h to CFFFh as the chapters' tables give them. -/
def objTableC : List Obj := [
  ⟨0xC000, 0xC000, 0x0, 0x0, .u64, .ro, 8, 0, .full⟩ /- TIME R451 -/,
  ⟨0xC000, 0xC000, 0x1, 0x1, .cmd, .cmd, 6, 0, .full⟩ /- REG_ARM R451 -/,
  ⟨0xC000, 0xC000, 0x2, 0x2, .u8, .ro, 1, 0, .full⟩ /- REG_STATE R451 -/,
  ⟨0xC000, 0xC000, 0x3, 0x3, .u32, .ro, 4, 0, .full⟩ /- REG_COUNT R451 -/,
  ⟨0xC000, 0xC000, 0x4, 0x4, .u64, .ro, 8, 0, .full⟩ /- REG_RELEASE R451 -/,
  ⟨0xC000, 0xC000, 0x5, 0x5, .u32, .ro, 4, 0, .full⟩ /- REG_LAST_ID R451 -/,
  ⟨0xC000, 0xC000, 0x6, 0x6, .u8, .ro, 1, 0, .full⟩ /- REG_HOPS R451 -/,
  ⟨0xC000, 0xC000, 0x7, 0x7, .u32, .rw, 4, 1200000, .range 120000 120000000⟩ /- REG_MARGIN R451 -/,
  ⟨0xC000, 0xC000, 0x8, 0x8, .u32, .rw, 4, 10000, .range 100 600000⟩ /- REG_TIMEOUT_MS R451 -/,
  ⟨0xC010, 0xC010, 0x0, 0x0, .u64, .rws, 8, 0, .full⟩ /- NOISE_SEED R182 -/]

/-- Objects of D000h to DFFFh as the chapters' tables give them. -/
def objTableD : List Obj := [
  ⟨0xD000, 0xD000, 0x0, 0x0, .u8, .ro, 1, 0, .full⟩ /- ACTIVE_PORT R479 -/,
  ⟨0xD000, 0xD000, 0x1, 0x1, .bool, .rw, 1, 1, .bool⟩ /- AUTO_FAILOVER R479 -/,
  ⟨0xD000, 0xD000, 0x2, 0x2, .cmd, .cmd, 0, 0, .full⟩ /- FAILOVER R479 -/,
  ⟨0xD000, 0xD000, 0x3, 0x3, .u32, .ro, 4, 0, .full⟩ /- LINK0 R479 -/,
  ⟨0xD000, 0xD000, 0x4, 0x4, .u32, .ro, 4, 0, .full⟩ /- LINK1 R479 -/,
  ⟨0xD000, 0xD000, 0x5, 0x5, .u16, .ro, 2, 0, .full⟩ /- NUM_VFS R479 -/,
  ⟨0xD000, 0xD000, 0x6, 0x6, .u32, .ro, 4, 0, .full⟩ /- FAILOVERS R479 -/,
  ⟨0xD100, 0xD1FF, 0x0, 0x0, .u16, .rws, 2, 0, .range 0 4095⟩ /- BAR2_CTX R479 -/,
  ⟨0xD100, 0xD1FF, 0x1, 0x1, .u64, .rws, 8, 0, .bar2⟩ /- BAR2_BASE R479 -/]

/-- Objects of E000h to EFFFh as the chapters' tables give them. -/
def objTableE : List Obj := [
  ⟨0xE000, 0xE000, 0x0, 0x0, .blob, .ro, 6, 0, .full⟩ /- MGMT_MAC R506 -/,
  ⟨0xE000, 0xE000, 0x1, 0x1, .u32, .ro, 4, 0, .full⟩ /- DEVICE_UID R506 -/,
  ⟨0xE000, 0xE000, 0x2, 0x2, .u32, .ro, 4, 0, .full⟩ /- BOOT R506 -/,
  ⟨0xE000, 0xE000, 0x3, 0x3, .blob, .ro, 16, 0, .full⟩ /- LINK_LOCAL R506 -/,
  ⟨0xE000, 0xE000, 0x4, 0x4, .u16, .rws, 2, 47120, .range 1024 65535⟩ /- WDP_PORT R506 -/,
  ⟨0xE000, 0xE000, 0x5, 0x5, .bool, .rws, 1, 0, .bool⟩ /- PLCA_EN R506 -/,
  ⟨0xE000, 0xE000, 0x6, 0x6, .u8, .rws, 1, 0, .range 0 15⟩ /- PLCA_NODE R506 -/,
  ⟨0xE000, 0xE000, 0x7, 0x7, .u8, .rws, 1, 8, .range 2 16⟩ /- PLCA_COUNT R506 -/,
  ⟨0xE000, 0xE000, 0x8, 0x8, .u8, .rws, 1, 32, .range 16 255⟩ /- PLCA_TO R506 -/,
  ⟨0xE000, 0xE000, 0x9, 0x9, .u8, .ro, 1, 0, .full⟩ /- PLCA_STATE R506 -/,
  ⟨0xE000, 0xE000, 0xA, 0xA, .u8, .ro, 1, 0, .full⟩ /- SENDERS R506 -/,
  ⟨0xE000, 0xE000, 0xB, 0xB, .u32, .ro, 4, 0, .full⟩ /- SENDER_FLOOR R506 -/,
  ⟨0xE000, 0xE000, 0x10, 0x10, .u64, .ro, 8, 0, .full⟩ /- RX_FRAMES R506 -/,
  ⟨0xE000, 0xE000, 0x11, 0x11, .u64, .ro, 8, 0, .full⟩ /- TX_FRAMES R506 -/,
  ⟨0xE000, 0xE000, 0x12, 0x12, .u64, .ro, 8, 0, .full⟩ /- AUTH_FAIL R506 -/,
  ⟨0xE000, 0xE000, 0x13, 0x13, .u64, .ro, 8, 0, .full⟩ /- REPLAY_DROP R506 -/,
  ⟨0xE000, 0xE000, 0x14, 0x14, .u64, .ro, 8, 0, .full⟩ /- BOOT_STALE R506 -/,
  ⟨0xE000, 0xE000, 0x15, 0x15, .u64, .ro, 8, 0, .full⟩ /- FORMAT_DROP R506 -/,
  ⟨0xE000, 0xE000, 0x16, 0x16, .u64, .ro, 8, 0, .full⟩ /- RX_OVERFLOW R506 -/,
  ⟨0xE000, 0xE000, 0x17, 0x17, .u64, .ro, 8, 0, .full⟩ /- TX_DROPPED R506 -/,
  ⟨0xE000, 0xE000, 0x18, 0x18, .u32, .ro, 4, 0, .full⟩ /- BEACON_LOST R506 -/,
  ⟨0xE000, 0xE000, 0x19, 0x19, .u64, .ro, 8, 0, .full⟩ /- TORUS_FWD R506 -/,
  ⟨0xE000, 0xE000, 0x20, 0x20, .cmd, .cmd, 0, 0, .full⟩ /- KEY_PROMOTE R506 -/]

/-- Objects of F000h to FFFFh as the chapters' tables give them. -/
def objTableF : List Obj := [
  ⟨0xF000, 0xF000, 0x0, 0x0, .cmd, .cmd, 0, 0, .full⟩ /- COMMIT R507 -/,
  ⟨0xF000, 0xF000, 0x1, 0x1, .bool, .wo, 1, 0, .bool⟩ /- DISCARD R507 -/,
  ⟨0xF000, 0xF000, 0x2, 0x2, .u16, .ro, 2, 0, .full⟩ /- STAGED_COUNT R507 -/,
  ⟨0xF000, 0xF000, 0x3, 0x3, .u16, .ro, 2, 0, .full⟩ /- STAGED_BYTES R507 -/,
  ⟨0xF000, 0xF000, 0x8, 0x8, .blob, .ro, 1552, 0, .full⟩ /- WRITE_REPORT R507 -/,
  ⟨0xF000, 0xF000, 0x10, 0x10, .u32, .rw, 4, 0, .full⟩ /- MGMT_HANDLE_SELECT R507 -/,
  ⟨0xF000, 0xF000, 0x11, 0x11, .blob, .ro, 16, 0, .full⟩ /- MGMT_HANDLE_RECORD R507 -/]

/-- The Dictionary's tables. -/
def objTable : List Obj :=
  objTable1 ++ objTable2 ++ objTable3a ++ objTable3b ++ objTable4a ++ objTable4b ++
    objTable5a ++ objTable5b ++ objTable5c ++ objTable6 ++ objTable7 ++ objTable8 ++ objTable9a ++ objTable9b ++ objTableAa ++ objTableAb ++ objTableAc ++ objTableB ++ objTableC ++ objTableD ++ objTableE ++ objTableF

/-- The row of an object, when a chapter defines it (R481). -/
def objRow (idx sub : Nat) : Option Obj :=
  objTable.find? (fun o => decide (o.iLo ≤ idx ∧ idx ≤ o.iHi ∧ o.sLo ≤ sub ∧ sub ≤ o.sHi))

/-- The key of an object in the store. -/
def ob (idx sub : Nat) : Nat := idx * 256 + sub

end Sys2Proof.Machine
end

