-- ==== Sys2Proof/Machine/Ops.lean ====
section
/-! DEFINITION. The named operations over the state: byte memories, Dictionary objects, cores and their
counters, contexts and their memory, events and handles, faults, and sending over the torus. -/

namespace Sys2Proof.Machine

/-! ## Byte memories (Plates and device memory): rising addresses, no listed byte equal to 00h -/

/-- Whether a byte memory is in its canonical form. -/
abbrev memWf (m : List Host.Cell) : Bool := SMap.wf 0#8 m

/-- `n` bytes from address `a`, walking a list whose addresses are not below `a`. -/
def walkBytes : Nat → Nat → List Host.Cell → List Byte
  | 0, _, _ => []
  | n + 1, a, [] => 0#8 :: walkBytes n (a + 1) []
  | n + 1, a, (k, v) :: t => if k = a then v :: walkBytes n (a + 1) t else 0#8 :: walkBytes n (a + 1) ((k, v) :: t)

/-- Read `n` bytes from address `a`; an unlisted byte reads 00h (R229). -/
def readBytes (m : List Host.Cell) (a n : Nat) : List Byte :=
  walkBytes n a (m.dropWhile (fun c => decide (c.1 < a)))

/-- One byte of a byte memory. -/
def readByte (m : List Host.Cell) (a : Nat) : Byte := SMap.get 0#8 m a

/-- The cells of a run of bytes, without those equal to 00h. -/
def cellsOf (a : Nat) : List Byte → List Host.Cell
  | [] => []
  | b :: t => if b = 0#8 then cellsOf (a + 1) t else (a, b) :: cellsOf (a + 1) t

/-- Write a run of bytes at address `a`. -/
def writeBytes (m : List Host.Cell) (a : Nat) (l : List Byte) : List Host.Cell :=
  m.takeWhile (fun c => decide (c.1 < a)) ++ cellsOf a l ++
    m.dropWhile (fun c => decide (c.1 < a + l.length))

/-! ## The fused variant (R36 to R39) -/

/-- N, the enabled cores (R36). -/
def Fuses.cores (f : Fuses) : Nat := 16 * f.coresPerTile

/-- EXT_MEM_BYTES (R36): 36 GiB per populated stack. -/
def Fuses.extMem (f : Fuses) : Nat := f.hbm * 36 * 2 ^ 30

/-- The fuse check of the last power-on failed (R38); stepping A0 checks only the CRC of tile 0. -/
def fuseBad (f : Fuses) (d : Dev) : Bool :=
  if f.stepA0 then d.rst.fuseCrc.testBit 0 else decide (d.rst.fuseCrc % 2 ^ 16 ≠ 0) || d.rst.fuseDisagree

/-- The tile of a logical core (R39). -/
def Fuses.tileOf (f : Fuses) (n : Nat) : Nat := n / f.coresPerTile

/-- The physical number of logical core n; FFh for n ≥ N (R36, R39). -/
def Fuses.physOf (f : Fuses) (n : Nat) : Nat :=
  if n < f.cores then
    8 * f.tileOf n + ((bitList 8 (f.enable.getD (f.tileOf n) 0)).getD (n % f.coresPerTile) 0)
  else 255

/-- The logical number of physical core p; FFh for a fused-off core (R36, R39). -/
def Fuses.logOf (f : Fuses) (p : Nat) : Nat :=
  let m := f.enable.getD (p / 8) 0
  if p < 128 ∧ m.testBit (p % 8) = true then
    f.coresPerTile * (p / 8) + (bitList (p % 8) m).length
  else 255

/-- The TDP of the variant in W (02, Power). -/
def Fuses.tdp (f : Fuses) : Nat :=
  5750 + 500 * (f.cores - 96) / 16 + (if f.hbm = 32 then 600 else 0) + (if f.longHaul then 150 else 0)

/-! ## Dictionary objects -/

/-- The default of an object (R13): its table's, with the variant's own where the table names one. -/
def objDefault (f : Fuses) (idx sub : Nat) : Nat :=
  if idx = 0x3020 ∧ sub = 0 ∧ f.longHaul = false then 0
  else if idx = 0x7000 ∧ sub = 0x0D then 1024
  else if idx = 0x2010 ∧ sub = 0 then f.tdp
  else if idx = 0xA031 ∧ sub = 1 then 120000
  else if idx = 0xA020 ∧ sub = 4 then f.spare
  else if idx = 0x2000 ∧ sub = 2 then 4800
  else if 0x2020 ≤ idx ∧ idx < 0x2030 ∧ (sub = 6 ∨ sub = 7) then f.vmin.getD (idx - 0x2020) 0
  else if 0x2020 ≤ idx ∧ idx < 0x2030 ∧ sub = 8 then f.vmax.getD (idx - 0x2020) 0
  else match objRow idx sub with
    | some o => o.dflt
    | none => 0

/-- The committed value of an object held in the store (R483). -/
def obj (f : Fuses) (d : Dev) (idx sub : Nat) : Nat :=
  (SMap.find? d.objs (ob idx sub)).getD (objDefault f (idx % 65536) sub)

/-- The index a context's own copy of an object is kept under: stage groups, the codebook table and the other
objects each context holds for itself (R191, R241). -/
def ctxIdx (g idx : Nat) : Nat := 65536 * (g + 1) + idx

/-- A counter, whose default is 0. -/
def ctr (d : Dev) (idx sub : Nat) : Nat := SMap.get 0 d.objs (ob idx sub)

/-- Set an object of the store. -/
def Dev.setObj (d : Dev) (idx sub v : Nat) : Dev := { d with objs := d.objs.put (ob idx sub) v }

/-- Add to a counter of `w` bits that saturates (R75). -/
def Dev.bump (d : Dev) (idx sub w n : Nat) : Dev :=
  if n = 0 then d else { d with objs := d.objs.put (ob idx sub) (satAdd (2 ^ w - 1) (ctr d idx sub) n) }

/-- Clear a run of subindices of an index. -/
def Dev.clearObjs (d : Dev) (idx lo hi : Nat) : Dev :=
  { d with objs := d.objs.filter (fun p => !(decide (ob idx lo ≤ p.1 ∧ p.1 ≤ ob idx hi))) }

/-- A read of TIME: the nearest whole cycle, ties going up (R442). -/
def Dev.now (d : Dev) : Nat := (d.time + (if d.frac ≥ 8 then 1 else 0)) % 2 ^ 64

/-! ## Arbiters (chapter 20), by their IDs (R518) -/

/-- An arbiter by its ID. -/
def Dev.arb (d : Dev) (id : Nat) : Arb := SMap.get {} d.arbs id

/-- The arbiter makes no new grant (R515). -/
def Dev.frozen (d : Dev) (id : Nat) : Bool := (d.arb id).freeze

/-- STARVE_N of an arbiter's type (R512, R518). -/
def starveN (d : Dev) (id : Nat) : Nat := (SMap.find? d.objs (ob 0x8110 (id / 4096))).getD 16

/-- The age of a request: cycles since its injection stamp, mod 2^32 (R513). -/
def ageOf (d : Dev) (stamp : Nat) : Nat := (d.now % 2 ^ 32 + 2 ^ 32 - stamp % 2 ^ 32) % 2 ^ 32

/-- The injection stamp of what is made in this cycle (R513). -/
def Dev.stampNow (d : Dev) : Nat := d.now % 2 ^ 32

/-- A requester's place in R509's order. -/
def Ask.place (q : Ask) : Nat := 256 * q.kind + q.num

/-- The first of two requests in an order given by a key, the lower place where the keys are equal (R512). -/
def Ask.before (key : Ask → Nat) (a b : Ask) : Bool :=
  decide (key a < key b) || (decide (key a = key b) && decide (a.place ≤ b.place))

/-- The least of some requests in such an order. -/
def Ask.least (key : Ask → Nat) : List Ask → Option Ask
  | [] => none
  | a :: t => match Ask.least key t with
    | none => some a
    | some b => some (if Ask.before key a b then a else b)

/-- The next grant of an arbiter is reserved (R512). -/
def Dev.reservedNext (d : Dev) (id : Nat) : Bool := decide (((d.arb id).counts.getD 0 0 + 1) % starveN d id = 0)

/-- The request an arbiter grants next (R511, R512): in a reserved slot the oldest, an age of 2^31 or more being the greatest;
else the first privileged one; else the next ordinary one in rotation. -/
def Dev.choose (d : Dev) (id : Nat) (qs : List Ask) : Option Ask :=
  if d.reservedNext id then Ask.least (fun q => 2 ^ 31 - min (2 ^ 31) (ageOf d q.stamp)) qs
  else match Ask.least (fun q => q.priv.getD 0) (qs.filter (fun q => q.priv.isSome)) with
    | some q => some q
    | none => Ask.least (fun q => match (d.arb id).last with
        | some l => if q.place > l then 0 else 1
        | none => 0) qs

/-- An arbiter makes a grant (R511 to R513, R518): GRANTS, RESERVED_GRANTS, PRIV_GRANTS and PEAK_AGE, and the rotation moves
on where the grant was neither reserved nor privileged. -/
def Dev.grant (d : Dev) (id : Nat) (q : Ask) : Dev :=
  let a := d.arb id
  let res := d.reservedNext id
  let up := fun (i n : Nat) => satAdd (2 ^ 64 - 1) (a.counts.getD i 0) n
  let c := [up 0 1, up 1 (if res then 1 else 0), up 2 (if q.priv.isSome then 1 else 0),
    max (a.counts.getD 3 0) (ageOf d q.stamp), a.counts.getD 4 0]
  { d with arbs := d.arbs.put id { a with counts := c, last := if res || q.priv.isSome then a.last else some q.place } }

/-- What leaves through the active PCIe port, as R509 lists it there; a host write is an event's. -/
def Out.pcie : Out → Option Ask
  | .mbox _ _ => some { kind := 0, priv := some 0 }
  | .hostWrite _ _ _ => some { kind := 1, priv := some 1 }
  | .msix _ _ => some { kind := 2 }
  | .bar2Reply _ _ => some { kind := 4 }
  | .peerWrite _ _ | .peerRead _ _ => some { kind := 5 }
  | _ => none

/-- A mailbox response that has left is in MBOX_RESP for the host, and MBOX_STATE says so (R459, R460). -/
def mboxLeft (d : Dev) : Out → Dev
  | .mbox g l => { d with ctxs := d.ctxs.put g { SMap.get {} d.ctxs g with mboxResp := l, mboxRlen := l.length, mboxState := 2 } }
  | _ => d

/-- Something leaves the block; a frozen PCIe egress holds what would leave there (R515). -/
def Dev.emit (d : Dev) (o : Out) : Dev :=
  match o.pcie with
  | none => { d with out := o :: d.out }
  | some q =>
    if d.frozen 0x8000 then { d with host := { d.host with heldOut := d.host.heldOut ++ [(d.stampNow, o)] } }
    else (mboxLeft { d with out := o :: d.out } o).grant 0x8000 { q with stamp := d.stampNow }

/-- A unit's progress counter gains `n` (R564); the units are numbered as in R569. -/
def Dev.moved (d : Dev) (i n : Nat) : Dev :=
  if n = 0 then d
  else { d with recov := { d.recov with progress := d.recov.progress.put i ((SMap.get 0 d.recov.progress i + n) % 2 ^ 64) } }

/-- A record of the error log (R579); those of SEVERITY 1 and above also go to the flash. -/
def Dev.log (d : Dev) (status severity unit phys : Nat) (detail : List Nat) : Dev :=
  let e : LogEntry := ⟨d.recov.logSeq, d.now, ctr d 0xE000 2, status, severity, unit, phys, detail⟩
  { d with errLog := e :: d.errLog,
           recov := { d.recov with logSeq := (d.recov.logSeq + 1) % 2 ^ 32,
                                   flashLog := if severity = 0 then d.recov.flashLog else e :: d.recov.flashLog } }

/-- The unit ID of a core (R564). -/
def coreUnit (c : Nat) : Nat := 0x1000 + c

/-- The unit ID of a tile (R564). -/
def tileUnit (t : Nat) : Nat := 0x9000 + 256 * t

/-- The unit is being reset, alone or with its tile (R580). -/
def unitInReset (d : Dev) (u : Nat) : Bool :=
  d.resets.any (fun r => r.unit == u || ([2, 3, 4, 6, 7, 8].contains (u / 4096) && r.unit == tileUnit (u / 256 % 16)))

/-- The core is in reset, alone or with its tile (R121, R580). -/
def coreInReset (f : Fuses) (d : Dev) (c : Nat) : Bool :=
  unitInReset d (coreUnit c) || unitInReset d (0x9000 + 256 * f.tileOf c)

/-- A handle joins a unit's reset, which begins where none is under way (R581); `run` is what begins it. -/
def joinReset (d : Dev) (u : Nat) (r : ResetRun) (run : Dev → Dev) : Dev :=
  if d.resets.any (fun x => x.unit == u) then
    { d with resets := d.resets.map (fun x => if x.unit = u then { x with handles := x.handles ++ r.handles } else x) }
  else run { d with resets := d.resets ++ [r] }

/-- A unit reset ends: it leaves the list and its handles complete (R580, R581). -/
def endUnitReset (done : Dev → Nat → Dev) (d : Dev) (u : Nat) : Dev :=
  let hs := ((d.resets.filter (fun r => r.unit == u)).map ResetRun.handles).flatten
  hs.foldl done { d with resets := d.resets.filter (fun r => r.unit != u) }

/-! ## The mesh (R19) -/

/-- The positions of a ring of four a message leaves on its way from a to b, and whether it goes up (R19): the shorter way,
and up where both are as long. -/
def ringWalk (a b : Nat) : List Nat × Bool :=
  let k := (b + 4 - a) % 4
  if k ≤ 2 then ((List.range k).map (fun i => (a + i) % 4), true) else ([a], false)

/-- The router outputs on the path from one tile to another, as (tile, output), first along the row and then along the column
(R19).  The outputs of a router are numbered 0 local delivery, 1 and 2 to the next and the previous column, 3 and 4 to the next
and the previous row (DESIGN CHOICE, log entry 35). -/
def meshPath (s t : Nat) : List (Nat × Nat) :=
  let (xs, right) := ringWalk (s % 4) (t % 4)
  let (ys, down) := ringWalk (s / 4) (t / 4)
  xs.map (fun c => (4 * (s / 4) + c, if right then 1 else 2)) ++ ys.map (fun r => (4 * r + t % 4, if down then 3 else 4)) ++ [(t, 0)]

/-- The arbiter of a router output (R509, R518). -/
def meshArb (p : Nat × Nat) : Nat := 0x3000 + 256 * p.1 + p.2

/-- No router output on the path is frozen (R515). -/
def meshOpen (d : Dev) (s t : Nat) : Bool := (meshPath s t).all (fun p => !d.frozen (meshArb p))

/-- The outputs of a path grant one flit of an activity class, each to the input it comes in by (R509): the first to the
tile's own, each other to the side the output before it leads to. -/
def meshGrant (d : Dev) (s t act stamp : Nat) : Dev :=
  ((meshPath s t).zip (0 :: (meshPath s t).map Prod.snd)).foldl (fun d p =>
    d.grant (meshArb p.1) { kind := p.2, num := act, stamp := stamp,
                            priv := if act = 4 then some 0 else if act = 1 then some 1 else none }) d

/-- Two messages are of one flow, whose messages arrive in the order they were sent (R19). -/
def MeshMsg.flow (a b : MeshMsg) : Bool := a.src == b.src && a.dst == b.dst && a.act == b.act

/-- A message goes onto the mesh. -/
def sendMesh (d : Dev) (src dst act stamp : Nat) (b : MeshBody) : Dev := { d with mesh := d.mesh ++ [⟨src, dst, act, stamp, b⟩] }

/-- Remove the first message equal to one. -/
def dropMesh (m : MeshMsg) : List MeshMsg → List MeshMsg
  | [] => []
  | x :: t => if x = m then t else x :: dropMesh m t

/-- The message that carries something, when it is the oldest of its flow and its path is open (R19, R515). -/
def meshHead (d : Dev) (b : MeshBody) : Option MeshMsg :=
  match d.mesh.find? (fun m => m.body == b && ((d.mesh.find? (MeshMsg.flow m)).map MeshMsg.body == some b)) with
  | some m => if meshOpen d m.src m.dst then some m else none
  | none => none

/-- A message leaves the mesh at its destination: every router on its path has passed it on. -/
def takeMesh (d : Dev) (m : MeshMsg) : Dev := meshGrant { d with mesh := dropMesh m d.mesh } m.src m.dst m.act m.stamp

/-! ## Reserved regions (R216, R234) -/

/-- The bases of the reserved regions, CPROOF, COW, LH1, LH0, TABLES, ERRLOG and DUMP in the order of 3020h.08 on. -/
def regionBases (f : Fuses) (d : Dev) : List Nat :=
  let top := f.extMem
  let dump := top - 2 ^ 28
  let err := dump - 2 ^ 26
  let tab := err - 192 * 2 ^ 20
  let lh := obj f d 0x3020 0 * 2 ^ 30
  let cow := tab - 2 * lh - obj f d 0x3020 1 * 2 ^ 30
  [cow - obj f d 0x3020 2 * 2 ^ 30, cow, tab - 2 * lh, tab - lh, tab, err, dump]

/-- Put a number into an ascending list. -/
def insertNat (n : Nat) : List Nat → List Nat
  | [] => [n]
  | x :: t => if n ≤ x then n :: x :: t else x :: insertNat n t

/-- The retired granules of a reserved region at a base, ascending (R227). -/
def regionRetired (d : Dev) (base n : Nat) : List Nat :=
  ((d.mem.retired ++ d.mem.retiring).filter (fun g => decide (base ≤ 4096 * g ∧ 4096 * g < base + n))).foldr insertNat []

/-- The usable size of a reserved region (R227). -/
def regionSize (d : Dev) (base n : Nat) : Nat := n - 4096 * (regionRetired d base n).length

/-- The granule that stands at a place of a reserved region whose retired granules are skipped (R227). -/
def regionGranule (d : Dev) (base n i : Nat) : Nat :=
  (regionRetired d base n).foldl (fun g b => if b ≤ g then g + 1 else g) (base / 4096 + i)

/-- Where the bytes at an offset of a reserved region lie (R227). -/
def regionRuns (d : Dev) (base n off len : Nat) : List (Nat × Nat) :=
  if regionRetired d base n = [] then [(base + off, len)]
  else (List.range (ceilDiv (off % 4096 + len) 4096)).map (fun k =>
    let g := off / 4096 + k
    let lo := max off (4096 * g)
    (4096 * regionGranule d base n g + lo % 4096, min (off + len) (4096 * g + 4096) - lo))

/-- The size of a reserved region, in the order of its base (R216). -/
def regionLen (f : Fuses) (d : Dev) (i : Nat) : Nat :=
  [obj f d 0x3020 2 * 2 ^ 30, obj f d 0x3020 1 * 2 ^ 30, obj f d 0x3020 0 * 2 ^ 30, obj f d 0x3020 0 * 2 ^ 30,
    192 * 2 ^ 20, 2 ^ 26, 2 ^ 28].getD i 0

/-- The usable size of a reserved region, and where the bytes at an offset of it lie (R216, R227). -/
def usableLen (f : Fuses) (d : Dev) (i : Nat) : Nat := regionSize d ((regionBases f d).getD i 0) (regionLen f d i)
def placeRuns (f : Fuses) (d : Dev) (i off len : Nat) : List (Nat × Nat) := regionRuns d ((regionBases f d).getD i 0) (regionLen f d i) off len

/-- JOB_TOP (R216). -/
def jobTop (f : Fuses) (d : Dev) : Nat := (regionBases f d).getD 0 0

/-! ## Cores, threads and counters -/

def Dev.core (d : Dev) (c : Nat) : Core := SMap.get {} d.cores c

def Dev.setCore (d : Dev) (c : Nat) (k : Core) : Dev := { d with cores := d.cores.put c k }

def Dev.modCore (d : Dev) (c : Nat) (g : Core → Core) : Dev := d.setCore c (g (d.core c))

/-- The diagnostic index of a core (R134). -/
def cIdx (c : Nat) : Nat := 0xA100 + c

def Core.th (k : Core) : Thr → Thread
  | .F => k.f
  | .B => k.b

def Core.setTh (k : Core) (t : Thr) (x : Thread) : Core :=
  match t with
  | .F => { k with f := x }
  | .B => { k with b := x }

def Core.mov (k : Core) : Thr → List MoveOp
  | .F => k.movF
  | .B => k.movB

def Core.setMov (k : Core) (t : Thr) (x : List MoveOp) : Core :=
  match t with
  | .F => { k with movF := x }
  | .B => { k with movB := x }

def Thread.active (t : Thread) : Bool :=
  match t.state with
  | .run | .wait | .stopped => true
  | _ => false

/-- A thread of the core is RUN, WAIT or STOPPED (R106, R109). -/
def Core.busy (k : Core) : Bool := k.f.active || k.b.active

/-- The thread that owns a counter (R112). -/
def ownerOf (r : CtrRef) : Thr :=
  if r.credit then (if r.idx < 48 then .F else .B) else (if r.idx < 96 then .F else .B)

def Core.counter (k : Core) (r : CtrRef) : Nat :=
  if r.credit then SMap.get 0 k.credits r.idx else SMap.get 0 k.tokens r.idx

def Core.setCounter (k : Core) (r : CtrRef) (v : Nat) : Core :=
  if r.credit then { k with credits := SMap.set 0 k.credits r.idx v }
  else { k with tokens := SMap.set 0 k.tokens r.idx v }

/-- Cores withdrawn from service (A040h.00, R582). -/
def withdrawn (d : Dev) (c : Nat) : Bool := (ctr d 0xA040 0).testBit c

/-- The context a core is granted to (R462, CORE_GRANT). -/
def ctxOf (d : Dev) (c : Nat) : Option Nat :=
  (List.find? (fun p => decide (0x7000 ≤ p.1 / 256 ∧ p.1 / 256 < 0x8000 ∧ p.1 % 256 = 9) && p.2.testBit c) d.objs).map
    (fun p => p.1 / 256 - 0x7000)

def Dev.ctx (d : Dev) (c : Nat) : Context := SMap.get {} d.ctxs c

def Dev.setCtx (d : Dev) (c : Nat) (x : Context) : Dev := { d with ctxs := d.ctxs.put c x }

/-- DEV_ADDR (R292). -/
def devAddr (f : Fuses) (d : Dev) : Nat := obj f d 0x4000 0

/-! ## Events and handles (R470 to R473) -/

/-- The bytes of an event (R471). -/
def eventBytes (handle status kind phase tag arg time lost : Nat) : List Byte :=
  leBytes 4 handle ++ leBytes 2 status ++ leBytes 1 kind ++ leBytes 1 phase ++ leBytes 4 tag ++
    leBytes 4 arg ++ leBytes 8 time ++ leBytes 4 lost ++ zeros 4

/-- Write one event at EVT_PROD of a context's ring (R471): the state and the event's index. -/
def writeEvent (f : Fuses) (d : Dev) (c : Nat) (handle status kind tag arg lost : Nat) : Dev × Nat :=
  let x := d.ctx c
  let n := obj f d (0x7000 + c) 6
  let i := x.evtProd
  let ph := if n = 0 then 1 else 1 - (i / n) % 2
  let b := eventBytes handle status kind ph tag arg d.now lost
  let at_ := obj f d (0x7000 + c) 5 + 32 * (if n = 0 then 0 else i % n)
  let d := d.setCtx c { x with evtProd := (i + 1) % 2 ^ 32, events := b :: x.events, intrDue := true }
  (d.emit (.hostWrite (obj f d (0x7000 + c) 2) at_ b), i)

/-- Events the ring still takes (R472). -/
def evtFree (f : Fuses) (d : Dev) (c : Nat) : Nat :=
  let x := d.ctx c
  obj f d (0x7000 + c) 6 - ((x.evtProd + 2 ^ 32 - x.evtCons) % 2 ^ 32)

/-- While a loss is pending and a place is free, the marker (R472). -/
def writeMarker (f : Fuses) (d : Dev) (c : Nat) : Dev :=
  let x := d.ctx c
  if x.pendLoss ≠ 0 ∧ evtFree f d c ≥ 1 then
    let d := (writeEvent f d c 0 0 3 0 0 x.pendLoss).1
    d.setCtx c { d.ctx c with pendLoss := 0 }
  else d

/-- CORE cycles in a microsecond (R10). -/
abbrev usCycles : Nat := 1200

/-- Send the context's MSI-X message unless one was sent within INTR_US (R473). -/
def announce (f : Fuses) (d : Dev) (c : Nat) : Dev :=
  let x := d.ctx c
  let v := obj f d (0x7000 + c) 7
  let us := obj f d (0x7000 + c) 8
  if x.intrDue = false then d
  else if v = 0xFFFF then d.setCtx c { x with intrDue := false }
  else
    let early := match x.lastIntr with
      | some t => decide (d.cyc < t + us * usCycles)
      | none => false
    if early then d
    else
      (d.setCtx c { x with intrDue := false, lastIntr := some d.cyc }).emit (.msix (obj f d (0x7000 + c) 1) v)

/-- A context takes events: it is OPEN or RUNNING (R461). -/
def Context.live (x : Context) : Bool :=
  match x.state with
  | .opened | .running => true
  | _ => false

/-- Post an event to a context (R472): the state, and the event's index when it was written. -/
def postEvent (f : Fuses) (d : Dev) (c : Nat) (handle status kind tag arg : Nat) : Dev × Option Nat :=
  if (d.ctx c).live = false then (d, none)
  else
    let d := writeMarker f d c
    if evtFree f d c ≥ 2 then
      let (d, i) := writeEvent f d c handle status kind tag arg 0
      (announce f d c, some i)
    else
      let x := d.ctx c
      let d := d.setCtx c { x with pendLoss := x.pendLoss + 1 }
      let d := d.bump (0x7000 + c) 0x11 64 1
      (announce f (writeMarker f d c) c, none)

/-- A device event to a context (R471 KIND 2). -/
def ctxEvent (f : Fuses) (d : Dev) (c status arg : Nat) : Dev := (postEvent f d c 0 status 2 0 arg).1

/-- A device event to the CMC. -/
def cmcEvent (d : Dev) (status arg : Nat) : Dev := d.emit (.cmcEvent status arg)

/-- The contexts that are OPEN or RUNNING. -/
def openCtxs (d : Dev) : List Nat := (d.ctxs.filter (fun p => p.2.live)).map Prod.fst

/-- A device event to every open context and to the CMC (R318). -/
def eventAll (f : Fuses) (d : Dev) (status arg : Nat) : Dev :=
  cmcEvent ((openCtxs d).foldl (fun d c => ctxEvent f d c status arg) d) status arg

/-- A device event to context 0 and to the CMC (R508). -/
def event0 (f : Fuses) (d : Dev) (status arg : Nat) : Dev := cmcEvent (ctxEvent f d 0 status arg) status arg

/-- Handle table entries a context holds (R470). -/
def handlesUsed (d : Dev) (c : Nat) : Nat := (d.handles.filter (fun p => p.1 / 2 ^ 20 == c)).length

/-- The sequence number after one, skipping 0 (R470, R591). -/
def seqSucc (s : Nat) : Nat := if (s + 1) % 2 ^ 20 = 0 then 1 else (s + 1) % 2 ^ 20

/-- The first sequence number from `s` that no entry of the context holds (R591). -/
def freeSeq (d : Dev) (c : Nat) : Nat → Nat → Nat
  | 0, s => s
  | n + 1, s => if (SMap.find? d.handles (c * 2 ^ 20 + s)).isSome then freeSeq d c n (seqSucc s) else s

/-- Take a handle for a context (R470, R591): the sequence starts at 1, skips 0 and the numbers still held. -/
def takeHandle (d : Dev) (c : Nat) (h : HandleRec) : Dev × Nat :=
  let x := d.ctx c
  let s := freeSeq d c (handlesUsed d c) x.seqNext
  let hd := c * 2 ^ 20 + s
  ({ d.setCtx c { x with seqNext := seqSucc s } with handles := d.handles.put hd h }, hd)

/-- The 16-byte handle record (R470). -/
def handleRecord (d : Dev) (h : Nat) : List Byte :=
  match SMap.find? d.handles h with
  | none => leBytes 4 h ++ zeros 12
  | some r =>
    leBytes 4 h ++ leBytes 2 (if r.complete then r.status else 0) ++ leBytes 1 (if r.complete then 2 else 1) ++
      zeros 1 ++ leBytes 4 r.tag ++ leBytes 4 r.result

/-- A handle completes (R470, R472): its record, its event where one is due, CMD_DONE. -/
def completeHandle (f : Fuses) (d : Dev) (h status result : Nat) : Dev :=
  match SMap.find? d.handles h with
  | none => d
  | some r =>
    if r.complete then d
    else
      let c := h / 2 ^ 20
      let r := { r with complete := true, status := status, result := result }
      let d := { d with handles := d.handles.put h r }
      let d := d.bump (0x7000 + c) 0x14 64 1
      if r.post then
        let (d, i) := postEvent f d c h status 1 r.tag result
        { d with handles := d.handles.put h { r with event := i } }
      else d

/-- The completion of a handle that may be absent. -/
def completeOpt (f : Fuses) (d : Dev) (h : Option Nat) (status result : Nat) : Dev :=
  match h with
  | some h => completeHandle f d h status result
  | none => d

/-! ## Faults of a thread (R131, R132) -/

/-- The 48 bytes of a fault record (R132). -/
def FaultRec.toBytes (r : FaultRec) : List Byte :=
  leBytes 2 r.status ++ leBytes 1 r.source ++ leBytes 1 r.resource ++ leBytes 2 r.stroke ++
    leBytes 1 r.index ++ leBytes 1 0 ++ leBytes 8 r.requested ++ leBytes 8 r.limit ++ leBytes 8 r.time ++
    leBytes 16 r.message

/-- CORE cycles in 24 hours (R10, R583). -/
abbrev dayCycles : Nat := 86400 * 1000000 * usCycles

/-- A thread faults: it enters FAULT, its record is written, and an event goes to the context and to the CMC.
A thread that is in FAULT keeps its record (R132). -/
def faultThread (f : Fuses) (d : Dev) (c : Nat) (t : Thr) (r : FaultRec) : Dev :=
  let k := d.core c
  let x := k.th t
  if x.state = .fault then d
  else
    let x := { x with state := .fault, status := r.status, fault := { r with time := d.now }, stopping := false }
    let d := d.setCore c (k.setTh t x)
    let d := if r.status = Status.arrayParity ∨ r.status = Status.plateUe then
        { d with coreFaults := d.coreFaults.put c (d.cyc :: (SMap.get [] d.coreFaults c).filter (fun s => decide (d.cyc < s + dayCycles))) }
      else d
    let d := match ctxOf d c with
      | some g => ctxEvent f d g r.status c
      | none => d
    cmcEvent d r.status c

/-- SOURCE of a fault of a thread's own (R132). -/
def srcOf : Thr → Nat
  | .F => 0
  | .B => 1

/-- A thread records a status other than OK as its last (R134). -/
def recordStatus (d : Dev) (c : Nat) (t : Thr) (st : Nat) : Dev :=
  if st = 0 then d else d.modCore c (fun k => k.setTh t { k.th t with status := st })

/-! ## Counter updates (R116) -/

/-- Add to a counter of a core; an update that would pass FFFFh is rejected and faults the owning thread, with
the record's SOURCE, STROKE and MESSAGE as given (R116, R132). -/
def addCounter (f : Fuses) (d : Dev) (c : Nat) (r : CtrRef) (amt : Nat) (source stroke msg : Nat) : Dev :=
  let k := d.core c
  let v := k.counter r
  if v + amt ≤ 0xFFFF then d.setCore c (k.setCounter r (v + amt))
  else
    faultThread f d c (ownerOf r)
      { status := if r.credit then Status.creditOverflow else Status.tokenOverflow, source := source,
        resource := if r.credit then 3 else 2, stroke := stroke, index := r.idx, requested := amt, limit := v,
        message := msg }

/-- A stroke's signal adds 1 to its counter (R117). -/
def signal (f : Fuses) (d : Dev) (c : Nat) (sig : Option CtrRef) (stroke : Nat) : Dev :=
  match sig with
  | none => d
  | some r => addCounter f d c r 1 (srcOf (ownerOf r)) stroke 0

/-- Format events of a core's stroke (R75, R76). -/
def countEv (d : Dev) (c : Nat) (e : Ev) : Dev :=
  ((d.bump (cIdx c) 0x10 32 e.ovf).bump (cIdx c) 0x11 32 e.nan).bump (cIdx c) 0x12 32 e.flush

/-! ## Plates -/

/-- Apply a patch to a Plate; a word written whole loses its uncorrectable error (R105). -/
def Core.patch (k : Core) (p : Patch) : Core :=
  { k with plate := writeBytes k.plate p.addr p.data,
           plateBad := k.plateBad.filter (fun w => !(decide (p.addr ≤ 8 * w ∧ 8 * w + 8 ≤ p.addr + p.data.length))) }

def Core.patches (k : Core) (ps : List Patch) : Core := ps.foldl Core.patch k

/-- The first uncorrectable word of a region: its byte address (R105). -/
def Core.badWord (k : Core) (a n : Nat) : Option Nat :=
  (k.plateBad.find? (fun w => decide (a < 8 * w + 8 ∧ 8 * w < a + n))).map (· * 8)

/-- The first uncorrectable word of some regions. -/
def Core.badIn (k : Core) (rs : List (Nat × Nat)) : Option Nat :=
  rs.foldl (fun a r => match a with | some x => some x | none => k.badWord r.1 r.2) none

/-- Errors a step meets in a core's Plate regions as it reads them (R105): single-bit errors are corrected and
counted; a word found uncorrectable is kept as such, and what it reads as is a free value (log entry 7). -/
def meetUpset (d : Dev) (c : Nat) (u : Upset) (rs : List (Nat × Nat)) : Dev :=
  let d := d.bump (cIdx c) 0x17 32 u.plateCe
  let ws := u.plateUe.filter (fun w => rs.any (fun r => decide (r.1 < 8 * w + 8 ∧ 8 * w < r.1 + r.2)))
  if ws = [] then d
  else
    let d := d.modCore c (fun k => { k with
      plate := ws.foldl (fun m w => writeBytes m (8 * w) (leBytes 8 (Config.freeWord (d.freeCtr * 2 ^ 24 + w)).toNat)) k.plate,
      plateBad := ws ++ k.plateBad })
    { d with freeCtr := d.freeCtr + 1 }

/-- An uncorrectable word makes the reading stroke's thread fault with PLATE_UE; it is counted, and the core's
physical number and the address go to the error log (R105). -/
def plateUeFault (f : Fuses) (d : Dev) (c : Nat) (t : Thr) (stroke addr resource : Nat) : Dev :=
  let d := (d.bump (cIdx c) 0x18 32 1)
  let d := d.log Status.plateUe 1 (coreUnit c) (f.physOf c) [f.physOf c, addr]
  faultThread f d c t { status := Status.plateUe, source := srcOf t, resource := resource, stroke := stroke, requested := addr }

/-- What is on its way into a core's Plate, by the unit that writes it. -/
def Core.inflight (k : Core) : List (PUnit × Patch) :=
  (match k.mma.draining with | some (_, ps) => ps.map (fun p => (PUnit.array, p)) | none => []) ++
  (k.vec.tail.map (fun r => r.patches.map (fun p => (PUnit.vector r.op.th, p)))).flatten ++
  (match k.vec.cur with | some r => r.patches.map (fun p => (PUnit.vector r.op.th, p)) | none => []) ++
  (match k.upd with | some r => r.patches.map (fun p => (PUnit.update, p)) | none => []) ++
  ((k.movF.filter (fun m => m.started && (m.op == 0 || m.op == 2 || m.op == 5))).map (fun m => (PUnit.mover .F, ⟨m.dst, m.data⟩))) ++
  ((k.movB.filter (fun m => m.started && (m.op == 0 || m.op == 2 || m.op == 5))).map (fun m => (PUnit.mover .B, ⟨m.dst, m.data⟩)))

/-- The PUT transfers of other cores under way into a core's Plate. -/
def putsInto (d : Dev) (c : Nat) : List (PUnit × Patch) :=
  (d.cores.map (fun p =>
    (([(Thr.F, p.2.movF), (Thr.B, p.2.movB)].map (fun q => (q.2.filter (fun m => m.started && m.op == 3 &&
      (match m.tgt with | some t => t.isLocal && t.core == c | none => false))).map
        (fun m => (PUnit.mover q.1, (⟨m.dst, m.data⟩ : Patch))))).flatten))).flatten

/-- The codec outputs under way into a core's Plate. -/
def codesInto (d : Dev) (c : Nat) : List (PUnit × Patch) :=
  (d.codecs.map (fun p => match p.2.run with
    | some r => (r.outs.filter (fun o => !o.mem && o.core == c)).map (fun o => (PUnit.codec, (⟨o.addr, o.data⟩ : Patch)))
    | none => [])).flatten

/-- Free bytes: what a region holds where the spec leaves its contents open. -/
def freeBytes (d : Dev) (n : Nat) : List Byte := (List.range n).map (fun i => Config.freeByte (d.freeCtr * 2 ^ 40 + i))

/-- Apply a patch line by line as a reader sees it (R118): of every 256-byte line it touches, the new part
where the choice says so. -/
def applyLines (pick : Nat → Bool) (m : List Host.Cell) (p : Patch) : List Host.Cell :=
  (List.range ((p.addr % 256 + p.data.length + 255) / 256)).foldl (fun m i =>
    let line := p.addr / 256 + i
    let lo := max p.addr (256 * line)
    let hi := min (p.addr + p.data.length) (256 * line + 256)
    if pick line then writeBytes m lo ((p.data.drop (lo - p.addr)).take (hi - lo)) else m) m

/-- The Plate as unit `u` of core `c` reads it in this step: its own earlier writes are seen, and of what
another unit still writes each line is old or new by a free value (R118). -/
def plateView (d : Dev) (c : Nat) (u : PUnit) : List Host.Cell :=
  let k := d.core c
  ((k.inflight ++ putsInto d c ++ codesInto d c).zipIdx).foldl (fun m p =>
    applyLines (fun line => if p.1.1 = u then true else Config.freeBit ((d.freeCtr * 256 + p.2) * 65536 + line)) m p.1.2) k.plate

/-- Whether a read of the Plate by `u` meets writes of another unit. -/
def racing (d : Dev) (c : Nat) (u : PUnit) : Bool :=
  ((d.core c).inflight ++ putsInto d c ++ codesInto d c).any (fun p => decide (p.1 ≠ u))

/-- A step that drew free values moves the counter they are drawn by. -/
def spendFree (d : Dev) (b : Bool) : Dev := if b then { d with freeCtr := d.freeCtr + 1 } else d

/-! ## The issue gate (R527, R528) -/

/-- G of a tile for the next frame: the least of G_POWER, G_THERM and G_SUPPLY (R528). -/
def nextG (f : Fuses) (d : Dev) (t : Nat) : Nat :=
  min (obj f d 0x2010 4) (min (obj f d (0x2020 + t) 2) (obj f d 0x2010 5))

/-- G of a tile in this frame (R527). -/
def gateG (d : Dev) (t : Nat) : Nat := (SMap.get (64, 3) d.power.gates t).1

/-- The issue gate of a tile is open in this cycle of its frame (R527), and no canary holds it shut (R535). -/
def gateOpen (d : Dev) (t : Nat) : Bool :=
  let g := gateG d t
  let k := d.power.frame
  decide ((k + 1) * g / 64 > k * g / 64) && decide (SMap.get 0 d.gateShut t ≤ d.cyc)

/-! ## Context memory (R464, R465) -/

/-- The mapping that covers a context address. -/
def findMap (ms : List Mapping) (a : Nat) : Option Mapping :=
  ms.find? (fun m => decide (m.caddr ≤ a ∧ a < m.caddr + m.len))

/-- A context region as runs of device addresses; none where a page is not mapped, or not mapped with WRITE
when `w` asks for it.  The fuel is the number of mappings the region can cross. -/
def segments (ms : List Mapping) (w : Bool) : Nat → Nat → Nat → Option (List (Nat × Nat))
  | _, _, 0 => some []
  | 0, _, _ + 1 => none
  | fuel + 1, a, n + 1 =>
    match findMap ms a with
    | none => none
    | some m =>
      if w && !m.write then none
      else
        let k := min (n + 1) (m.caddr + m.len - a)
        match segments ms w fuel (a + k) (n + 1 - k) with
        | none => none
        | some l => some ((m.daddr + (a - m.caddr), k) :: l)

/-- A context region as a check that is made now finds it, as runs of device addresses (R464, R465): mappings that are being
removed are not there. -/
def ctxRuns (d : Dev) (c : Nat) (w : Bool) (a n : Nat) : Option (List (Nat × Nat)) :=
  let ms := (d.ctx c).maps.filter (fun m => m.going.isNone)
  segments ms w (ms.length + 1) a n

/-- A context region as work that was checked before finds it (R465): a mapping that is being removed stays until such work is
done. -/
def heldRuns (d : Dev) (c : Nat) (w : Bool) (a n : Nat) : Option (List (Nat × Nat)) :=
  segments (d.ctx c).maps w ((d.ctx c).maps.length + 1) a n

/-- The whole region lies in the context's mapped window (R141, R464). -/
def inWindow (d : Dev) (c : Nat) (w : Bool) (a : Int) (n : Nat) : Bool :=
  decide (0 ≤ a) && (ctxRuns d c w a.toNat n).isSome

/-! ## Device memory and the tile caches (R213, R214, R220 to R224) -/

/-- The tile and position of a stack slot (R213). -/
def slotStack (f : Fuses) (k : Nat) : Nat × Nat :=
  if f.hbm = 32 then (k % 16, k / 16)
  else if k < 16 then (k, 0)
  else ([0, 2, 5, 7, 8, 10, 13, 15].getD (k - 16) 0, 1)

/-- The stack slot of a device address (R214). -/
def slotOf (f : Fuses) (a : Nat) : Nat :=
  let g := a / 4096
  (g + g / f.hbm) % f.hbm

/-- The byte offset of a device address within its stack (R214). -/
def offsetOf (f : Fuses) (a : Nat) : Nat := (a / 4096 / f.hbm) * 4096 + a % 4096

/-- The home tile of a device address (R214). -/
def homeTile (f : Fuses) (a : Nat) : Nat := (slotStack f (slotOf f a)).1

/-- The set a line lies in, as the key of `ExtMem.sets` (R220). -/
def setKey (f : Fuses) (line : Nat) : Nat :=
  let a := line * 256
  let (t, p) := slotStack f (slotOf f a)
  (t * 16 + (a / 256) % 16) * 512 + ((offsetOf f a / 4096) ^^^ (p * 256)) % 512

/-- The state of a stack 2 t + p (R234): READY where populated. -/
def stackOf (f : Fuses) (d : Dev) (i : Nat) : Stack :=
  SMap.get { state := if f.hbm = 32 ∨ i % 2 = 0 ∨ [0, 2, 5, 7, 8, 10, 13, 15].contains (i / 2) then .ready else .absent }
    d.mem.hbm i

/-- The stack of a device address, as 2 t + p. -/
def stackIdx (f : Fuses) (a : Nat) : Nat := let (t, p) := slotStack f (slotOf f a); 2 * t + p

/-- The line is in its home tile cache. -/
def resident (f : Fuses) (d : Dev) (line : Nat) : Bool :=
  (SMap.get [] d.mem.sets (setKey f line)).any (fun l => l.line == line)

/-- The key of a line's bank, 16 × tile + bank (R220). -/
def bankKey (f : Fuses) (line : Nat) : Nat := 16 * homeTile f (256 * line) + line % 16

/-- The arbiters of a line's bank and of its controller's port (R509, R518). -/
def bankArb (f : Fuses) (line : Nat) : Nat := 0x2000 + 256 * homeTile f (256 * line) + line % 16
def portArb (f : Fuses) (line : Nat) : Nat := let i := stackIdx f (256 * line); 0x1000 + 256 * (i / 2) + i % 2

/-- A request of an activity share at a bank (R509, R510): the management share and the update write-back class are
privileged. -/
def Who.atBank (w : Who) : Ask :=
  { kind := w.act, stamp := w.stamp, priv := if w.act = 4 then some 0 else if w.wb then some 1 else none }

/-- A request of an activity share at a controller port (R509), where refresh goes before the management share. -/
def Who.atPort (w : Who) : Ask := { kind := w.act, stamp := w.stamp, priv := if w.act = 4 then some 1 else none }

/-- The requests raised at a bank and not served. -/
def bankQ (d : Dev) (b : Nat) : List (Nat × TcWaiter) := SMap.get [] d.mem.banks b

/-- The fills outstanding in a bank. -/
def fillsOf (d : Dev) (b : Nat) : List TcFill := SMap.get [] d.mem.fills b

/-- The requests of an activity that wait for the stacks of a bank's tile in their shares of the bank (R231). -/
def stackHeld (f : Fuses) (d : Dev) (b act : Nat) : Nat :=
  (([2 * (b / 16), 2 * (b / 16) + 1].map (fun i => (stackOf f d i).waiting)).flatten.filter
    (fun p => bankKey f p.1 == b && p.2.who.act == act)).length

/-- The entries of a bank an activity's requests ask for (R219). -/
def shareUsed (f : Fuses) (d : Dev) (b act : Nat) : Nat :=
  ((bankQ d b).filter (fun p => p.2.who.act == act)).length + stackHeld f d b act

/-- The queue share of an activity (R219, 3010h). -/
def qshare (f : Fuses) (d : Dev) (act : Nat) : Nat := obj f d 0x3010 act

/-- The entries of a controller an activity's fills hold (R219): a fill takes the share of the request that began it. -/
def portUsed (f : Fuses) (d : Dev) (i act : Nat) : Nat :=
  ((((List.range 16).map (fun k => fillsOf d (16 * (i / 2) + k))).flatten).filter
    (fun x => stackIdx f (256 * x.line) == i && (x.waiters.head?.map (fun w => w.who.act)) == some act)).length

/-- A fill of a line can begin for an activity (R219, R221): the bank has fewer than 32 outstanding, and the controller's
share has room. -/
def fillRoom (f : Fuses) (d : Dev) (line act : Nat) : Bool :=
  decide ((fillsOf d (bankKey f line)).length < 32) && decide (portUsed f d (stackIdx f (256 * line)) act < qshare f d act)

/-- Put a line into its set (R220, R221): a full set of 12 ways evicts a line, chosen by a free value (the
tree of the replacement rule is not given for 12 ways), and a dirty one is written back. -/
def allocLine (f : Fuses) (d : Dev) (w : Who) (line : Nat) (dirty : Bool) : Dev :=
  let key := setKey f line
  let ls := SMap.get [] d.mem.sets key
  let t := homeTile f (line * 256)
  if ls.any (fun l => l.line == line) then
    { d with mem := { d.mem with sets := d.mem.sets.put key (ls.map (fun l => if l.line = line then { l with dirty := l.dirty || dirty } else l)) } }
  else if ls.length < 12 then
    { d with mem := { d.mem with sets := d.mem.sets.put key ({ line := line, dirty := dirty } :: ls) } }
  else
    let v := (Config.freeWord d.freeCtr).toNat % 12
    let old := ls.getD v { line := 0, dirty := false }
    let under := d.mem.hidden.contains old.line
    let d := { d with
      mem := { d.mem with
        sets := d.mem.sets.put key ({ line := line, dirty := dirty } :: ls.eraseIdx v)
        hidden := d.mem.hidden.filter (· ≠ old.line)
        poison := if under && !old.dirty then old.line :: d.mem.poison else d.mem.poison }
      freeCtr := d.freeCtr + 1 }
    if old.dirty then ((d.bump (0x3060 + t) 2 64 1).moved (320 + stackIdx f (old.line * 256)) 1).grant (portArb f old.line) w.atPort else d

/-- The state of a line's stack. -/
def lineStack (f : Fuses) (d : Dev) (line : Nat) : StackState := (stackOf f d (stackIdx f (line * 256))).state

/-- One line access of a unit of the device (R19, R20, R221): its request crosses the mesh to the home tile, the bank grants
it, and it hits, or misses and is filled, unless it writes the whole line; TC_HIT and TC_MISS are counted.  A line of a FAILED
stack does not become resident (R232). -/
def touchLine (f : Fuses) (d : Dev) (w : Who) (line : Nat) (write whole : Bool) : Dev :=
  let t := homeTile f (line * 256)
  let d := (meshGrant d w.tile t w.act w.stamp).grant (bankArb f line) w.atBank
  let d := if write then d else meshGrant d t w.tile w.act w.stamp
  if resident f d line then allocLine f (d.bump (0x3060 + t) 0 64 1) w line write
  else
    let d := d.bump (0x3060 + t) 1 64 1
    match lineStack f d line with
    | .failed => d
    | _ =>
      let d := if whole then d else (d.grant (portArb f line) w.atPort).moved (320 + stackIdx f (line * 256)) 1
      allocLine f d w line write

/-- The CMC's own memory port (R30): the management activity, at the tile of the primary CMC. -/
def Dev.cmcWho (d : Dev) : Who := { tile := 0, act := 4, stamp := d.stampNow }

/-- The lines of a device region. -/
def linesOf (a n : Nat) : List Nat :=
  if n = 0 then [] else (List.range ((a + n - 1) / 256 - a / 256 + 1)).map (· + a / 256)

/-- An access of a unit to a line is served at once (R19, R219, R221, R222, R231, R232): its activity has a share of the bank
and no request of its own waits there, no earlier request to the line waits, no arbiter on its way is frozen, and the line is
resident, or its stack is READY and a fill can begin, or it is FAILED. -/
def lineReady (f : Fuses) (d : Dev) (w : Who) (line : Nat) : Bool :=
  let b := bankKey f line
  let t := homeTile f (line * 256)
  !((bankQ d b).any (fun p => p.2.who.act == w.act || p.1 == line)) &&
  decide (stackHeld f d b w.act < qshare f d w.act) &&
  !((fillsOf d b).any (fun x => x.line == line)) &&
  !((stackOf f d (stackIdx f (line * 256))).waiting.any (fun p => p.1 == line)) &&
  !d.frozen (bankArb f line) && meshOpen d w.tile t && meshOpen d t w.tile &&
  (resident f d line || (match lineStack f d line with
    | .ready => !d.frozen (portArb f line) && fillRoom f d line w.act
    | .failed => true
    | _ => false))

/-- Every line of a run can be served. -/
def runReady (f : Fuses) (d : Dev) (w : Who) (r : Nat × Nat) : Bool := (linesOf r.1 r.2).all (lineReady f d w)

/-- A proof protects a granule, and it has not been copied or drained yet (R419). -/
def granuleHeld (d : Dev) (g : Nat) : Bool := d.proof.guard.contains g

/-- A write to a run can be accepted now (R231, R419): no line of it is protected or has a write held before it. -/
def writeReady (f : Fuses) (d : Dev) (w : Who) (r : Nat × Nat) : Bool :=
  runReady f d w r && (linesOf r.1 r.2).all (fun l => !granuleHeld d (l / 16) && !d.mem.cowHeld.any (fun p => p.1 == l))

/-- A line reads as poisoned: it carries the mark, or its stack has FAILED and it is not resident (R224, R232). -/
def linePoisoned (f : Fuses) (d : Dev) (line : Nat) : Bool :=
  d.mem.poison.contains line ||
    (decide (lineStack f d line = .failed) && !(resident f d line))

/-- The poisoned lines of some runs of device memory. -/
def poisonedIn (f : Fuses) (d : Dev) (rs : List (Nat × Nat)) : List Nat :=
  ((rs.map (fun r => linesOf r.1 r.2)).flatten).filter (linePoisoned f d)

/-- The bytes of some runs of device memory. -/
def runBytes (d : Dev) (rs : List (Nat × Nat)) : List Byte :=
  (rs.map (fun r => readBytes d.mem.bytes r.1 r.2)).flatten

/-- The marks a read of runs leaves: lines touched, and each poisoned read counted (R224). -/
def noteRead (f : Fuses) (d : Dev) (w : Who) (rs : List (Nat × Nat)) : Dev :=
  let bad := poisonedIn f d rs
  let d := bad.foldl (fun d l => d.bump (0x3060 + homeTile f (l * 256)) 9 32 1) d
  let d := bad.foldl (fun d l => d.log Status.memUe 1 0 0xFFFF [l * 256 / 4096, slotOf f (l * 256), d.now]) d
  ((rs.map (fun r => linesOf r.1 r.2)).flatten).foldl (fun d l => touchLine f d w l false false) d

/-- Write a run of device memory (R221, R224, R232): a write to a FAILED stack's line that is not resident is
discarded, a full-line write clears poison. -/
def writeRun (f : Fuses) (d : Dev) (w : Who) (a : Nat) (l : List Byte) : Dev :=
  (linesOf a l.length).foldl (fun d line =>
    let lo := max a (256 * line)
    let hi := min (a + l.length) (256 * line + 256)
    if decide (lineStack f d line = .failed) && !(resident f d line) then touchLine f d w line true (hi - lo == 256)
    else
      let d := { d with mem := { d.mem with
        bytes := writeBytes d.mem.bytes lo ((l.drop (lo - a)).take (hi - lo)),
        poison := if hi - lo = 256 then d.mem.poison.filter (· ≠ line) else d.mem.poison } }
      touchLine f d w line true (hi - lo == 256)) d

/-- Write bytes over runs of device memory. -/
def writeRuns (f : Fuses) (d : Dev) (w : Who) (rs : List (Nat × Nat)) (l : List Byte) : Dev :=
  (rs.foldl (fun (p : Dev × List Byte) r => (writeRun f p.1 w r.1 (p.2.take r.2), p.2.drop r.2)) (d, l)).1

end Sys2Proof.Machine
end

