-- ==== Sys2Proof/Machine/Torus.lean ====
section
/-! DEFINITION. The torus ports: flits and their check value, replay, credits, packets, routing, ports going down
and coming up, lane sparing, hop delay (R291 to R318). -/

namespace Sys2Proof.Machine

/-! ## Flits (R296, R297) -/

/-- One bit of CRC-64, most significant first. -/
def crc64Bit (c : Nat) : Nat := if c.testBit 63 then ((2 * c) % 2 ^ 64) ^^^ 0x42F0E1EBA9EA3693 else 2 * c

/-- One byte into CRC-64. -/
def crc64Byte (c : Nat) (b : Byte) : Nat :=
  crc64Bit (crc64Bit (crc64Bit (crc64Bit (crc64Bit (crc64Bit (crc64Bit (crc64Bit (c ^^^ (b.toNat <<< 56)))))))))

/-- FCRC (R296). -/
def crc64 (l : List Byte) : Nat := l.foldl crc64Byte 0

/-- The header word of a flit (R297). -/
def flitHeader (x : Flit) : Nat :=
  x.typ + x.vc * 2 ^ 2 + (if x.esc then 2 ^ 5 else 0) + (if x.sop then 2 ^ 6 else 0) + (if x.eop then 2 ^ 7 else 0) +
    x.seq * 2 ^ 8 + x.ack * 2 ^ 24 + x.crVc * 2 ^ 40 + (if x.crEsc then 2 ^ 43 else 0) + x.crCount * 2 ^ 44

/-- The 240 bytes of a flit (R296). -/
def flitBytes (x : Flit) : List Byte :=
  let l := leBytes 8 (flitHeader x) ++ slice x.body 0 224
  l ++ leBytes 8 (crc64 l)

/-- A received frame of 240 bytes as a flit; none where its FCRC fails or its header holds a reserved value
(R298). -/
def flitOfBytes (l : List Byte) : Option Flit :=
  let h := field l 0 8
  if l.length ≠ 240 ∨ crc64 (l.take 232) ≠ field l 232 8 then none
  else
    let x : Flit :=
      { typ := bits h 1 0, vc := bits h 4 2, esc := bit h 5, sop := bit h 6, eop := bit h 7, seq := bits h 23 8,
        ack := bits h 39 24, crVc := bits h 42 40, crEsc := bit h 43, crCount := bits h 51 44, body := slice l 8 224 }
    if x.typ = 3 ∨ x.vc > 4 ∨ x.crVc > 4 ∨ bits h 63 52 ≠ 0 ∨ (x.vc = 4 ∧ x.esc = true) ∨
        (x.typ ≠ 0 ∧ (x.vc ≠ 0 ∨ x.seq ≠ 0)) then none
    else some x

/-! ## Ports -/

/-- Where port p's objects lie (R317). -/
def pIdx (p : Nat) : Nat := 0x4010 + p

def Dev.port (d : Dev) (p : Nat) : Port := SMap.get {} d.ports p

def Dev.setPort (d : Dev) (p : Nat) (x : Port) : Dev := { d with ports := d.ports.put p x }

/-- The axis of a port, and whether it leads in the positive direction (R317). -/
def portAxis (p : Nat) : Nat := p / 2
def portPos (p : Nat) : Bool := p % 2 == 0

/-- The port of an axis in a direction. -/
def portOf (axis : Nat) (pos : Bool) : Nat := 2 * axis + (if pos then 0 else 1)

/-- A port's code in PORT_STATE (R309). -/
def PortState.code : PortState → Nat
  | .disabled => 0 | .training => 1 | .up => 2 | .degraded => 3 | .down => 4 | .miswired => 5 | .restored => 6

/-- A port's state changes; PORT_STATE shows it. -/
def setPortState (d : Dev) (p : Nat) (s : PortState) : Dev := d.setPort p { d.port p with state := s }

/-- Axis size and this device's coordinate (R291, R292). -/
def axisSize (f : Fuses) (d : Dev) (a : Nat) : Nat := obj f d 0x4000 (5 + a)

/-- Width of an axis field. -/
def axisBits (f : Fuses) (d : Dev) (a : Nat) : Nat := obj f d 0x4000 (2 + a)

/-- The coordinate of a device address on an axis (R291). -/
def coordOf (f : Fuses) (d : Dev) (addr a : Nat) : Nat :=
  let (x, y, z) := (axisBits f d 0, axisBits f d 1, axisBits f d 2)
  if a = 0 then (addr >>> (y + z)) % 2 ^ x else if a = 1 then (addr >>> z) % 2 ^ y else addr % 2 ^ z

/-- The address of a device with one coordinate replaced. -/
def withCoord (f : Fuses) (d : Dev) (addr a c : Nat) : Nat :=
  let (y, z) := (axisBits f d 1, axisBits f d 2)
  let sh := if a = 0 then y + z else if a = 1 then z else 0
  addr - (coordOf f d addr a) * 2 ^ sh + c * 2 ^ sh

/-- The axis of a port has a ring (R293); the ports of one that has none carry no traffic and are not trained. -/
def hasRing (f : Fuses) (d : Dev) (p : Nat) : Bool := decide (2 ≤ axisSize f d (portAxis p))

/-- A port carries data packets: it is UP or DEGRADED on an axis with a ring, and the device's address is valid (R292, R293,
R309). -/
def carriesData (f : Fuses) (d : Dev) (p : Nat) : Bool :=
  (match (d.port p).state with | .up | .degraded => true | _ => false) && obj f d 0x4000 8 == 1 && hasRing f d p

/-- The link of a port is trained, so that its flits reach the neighbour (R309). -/
def Port.linked (t : Port) : Bool :=
  match t.state with
  | .up | .degraded | .miswired | .restored => true
  | .down => t.mgmtOnly
  | _ => false

/-- A port carries the management channel (R293, R309). -/
def carriesMgmt (f : Fuses) (d : Dev) (p : Nat) : Bool := (d.port p).linked && hasRing f d p

/-- A port carries a virtual channel (R292, R309). -/
def carries (f : Fuses) (d : Dev) (p vc : Nat) : Bool := if vc = 4 then carriesMgmt f d p else carriesData f d p

/-- PART_WORD of the committed partition (R292). -/
def partWord (f : Fuses) (d : Dev) : Nat := obj f d 0x4000 1 + 8 * axisBits f d 0 + 128 * axisBits f d 1

/-- The credit index of a channel (R303). -/
def chanOf (vc : Nat) (esc : Bool) : Nat := if vc = 4 then 8 else vc + (if esc then 4 else 0)

/-- Buffers of each channel (R303). -/
def fullCredits : List Nat := [1024, 1024, 1024, 1024, 128, 128, 128, 128, 64]

/-! ## Sending (R298 to R303) -/

/-- The header bytes of a packet and its payload (R301). -/
def Packet.bytes (k : Packet) : List Byte :=
  leBytes 2 k.dest ++ leBytes 2 k.src ++ leBytes 1 k.kind ++ leBytes 1 k.act ++ leBytes 2 k.data.length ++
    leBytes 8 k.addr ++ k.data

/-- Flits of a packet (R301). -/
def Packet.flits (k : Packet) : Nat := max 1 (ceilDiv (16 + k.data.length) 224)

/-- A received packet's header and payload (R301); none where the length does not fit. -/
def Packet.ofBytes (vc : Nat) (esc : Bool) (l : List Byte) : Option Packet :=
  let n := field l 6 2
  if l.length < 16 + n then none
  else some { dest := field l 0 2, src := field l 2 2, kind := field l 4 1, act := field l 5 1, addr := field l 8 8,
              data := slice l 16 n, vc := vc, esc := esc }

/-- The first credit return that is due: its channel and count, at most 255 (R297). -/
def dueCredit (l : List Nat) : Option (Nat × Nat) := ((l.zipIdx).find? (fun p => p.1 != 0)).map (fun p => (p.2, min p.1 255))

/-- Send one flit: it carries the ACK of the receiver and a credit return that is due (R297). -/
def sendFlit (d : Dev) (p : Nat) (x : Flit) : Dev :=
  let t := d.port p
  let (ch, n) := match dueCredit t.crOut with
    | some q => q
    | none => (0, 0)
  let x := { x with ack := t.expSeq, crVc := if ch = 8 then 4 else ch % 4, crEsc := decide (4 ≤ ch ∧ ch < 8), crCount := n }
  let d := d.setPort p { t with crOut := t.crOut.set ch (t.crOut.getD ch 0 - n) }
  d.emit (.flit p x)

/-- Send a CTRL flit (R300). -/
def sendCtrl (d : Dev) (p code : Nat) (args : List Byte) : Dev :=
  sendFlit d p { typ := 1, body := slice (BitVec.ofNat 8 code :: args) 0 224 }

/-- A channel's request at a torus egress (R509): VC0 to VC3, their escape twins and MGMT in the order of `credits`; MGMT and
then VC1 and its twin are privileged. -/
def chanAsk (ch stamp : Nat) : Ask :=
  { kind := ch, stamp := stamp, priv := if ch = 8 then some 0 else if ch = 1 then some 1 else if ch = 5 then some 2 else none }

/-- Send one DATA flit: it takes the next SEQ and stays in the replay buffer (R298). -/
def sendData (d : Dev) (p : Nat) (x : Flit) : Dev :=
  let t := d.port p
  let x := { x with typ := 0, seq := t.sendSeq }
  sendFlit (d.setPort p { t with sendSeq := (t.sendSeq + 1) % 65536, replay := t.replay ++ [{ flit := x }] }) p x

/-- The DATA flits of a packet (R301). -/
def Packet.dataFlits (k : Packet) : List Flit :=
  ((pieces 224 k.flits k.bytes).zipIdx).map (fun q =>
    { typ := 0, vc := k.vc, esc := k.esc, sop := decide (q.2 = 0), eop := decide (q.2 + 1 = k.flits), body := slice q.1 0 224 })

/-- A packet that is leaving by a torus egress: its channel, its injection stamp and the flits that are still to go. -/
structure Going where
  chan : Nat
  stamp : Nat
  flits : List Flit

/-- The oldest packet that waits on a channel of a port. -/
def Port.nextOf (t : Port) (ch : Nat) : Option Packet := t.waiting.find? (fun k => chanOf k.vc k.esc == ch)

/-- The SOP flit of a packet may go: the port holds credits for the whole packet (R303), and its replay buffer has room for it
beside the packets that are leaving (R298); `gs` are those. -/
def Port.mayStart (t : Port) (gs : List Going) (k : Packet) : Bool :=
  decide (k.flits ≤ t.credits.getD (chanOf k.vc k.esc) 0 ∧
    t.replay.length + (gs.map (fun g => g.flits.length)).sum + k.flits ≤ 4096)

/-- The requests at a torus egress (R301, R303, R509): of each channel the packet that is leaving, else the oldest that may
start. -/
def egressAsks (t : Port) (gs : List Going) : List Ask :=
  (List.range 9).filterMap (fun ch =>
    match gs.find? (fun g => g.chan == ch) with
    | some g => some (chanAsk ch g.stamp)
    | none => match t.nextOf ch with
      | some k => if t.mayStart gs k then some (chanAsk ch k.stamp) else none
      | none => none)

/-- A packet takes its credits and begins to leave (R303). -/
def Port.start (t : Port) (k : Packet) : Port :=
  let ch := chanOf k.vc k.esc
  { t with credits := t.credits.set ch (t.credits.getD ch 0 - k.flits), waiting := t.waiting.erase k }

/-- The egress of a port sends flit by flit, the channel of each chosen by the arbiter (R301, R303, R509).  The fuel is the
number of flits that wait. -/
def egress (d : Dev) (p : Nat) : Nat → List Going → Dev
  | 0, _ => d
  | n + 1, gs =>
    let t := d.port p
    match d.choose (0x4000 + p) (egressAsks t gs) with
    | none => d
    | some q =>
      let others := gs.filter (fun g => g.chan != q.kind)
      let (t, fs) := match gs.find? (fun g => g.chan == q.kind) with
        | some g => (t, g.flits)
        | none => match t.nextOf q.kind with
          | some k => (t.start k, k.dataFlits)
          | none => (t, [])
      match fs with
      | [] => d
      | x :: rest =>
        let d := (sendData (d.setPort p t) p x).grant (0x4000 + p) q
        egress d p n (if rest.isEmpty then others else { chan := q.kind, stamp := q.stamp, flits := rest } :: others)

/-- Send what a port can send (R303), unless its egress is frozen (R515). -/
def pump (d : Dev) (p : Nat) : Dev :=
  if d.frozen (0x4000 + p) then d else egress d p (((d.port p).waiting.map Packet.flits).sum) []

/-- A packet discarded at a port (R306, R307). -/
def dropPacket (d : Dev) (p n : Nat) : Dev := d.bump (pIdx p) 0x14 64 n

/-- Queue a packet at a port and send what can be sent; a port that does not carry its channel discards it
(R306). -/
def enqueue (f : Fuses) (d : Dev) (p : Nat) (k : Packet) : Dev :=
  if carries f d p k.vc then
    pump (d.setPort p { d.port p with waiting := (d.port p).waiting ++ [k] }) p
  else dropPacket d p 1

/-! ## SerDes lanes (R22) -/

/-- The SerDes lanes of a port, in the order of R22's table, as (tile, first lane, number of lanes): the torus ports XP, XN,
YP, YN, ZP, ZN at 0 to 5, and W0 and W1 of a W variant at 6 and 7. -/
def portLanes (f : Fuses) (p : Nat) : List (Nat × Nat × Nat) :=
  match p with
  | 0 => [(3, 0, 16), (7, 0, 10)]
  | 1 => [(12, 0, 16), (8, 0, 10)]
  | 2 => [(1, 0, 16), (2, 0, 10)]
  | 3 => [(14, 0, 16), (13, 0, 10)]
  | 4 => [(11, 0, 16), (7, 10, 6), (2, 10, 4)]
  | 5 => [(4, 0, 16), (8, 10, 6), (13, 10, 4)]
  | 6 => if f.longHaul then [(0, 0, 16)] else []
  | 7 => if f.longHaul then [(15, 0, 16)] else []
  | _ => []

/-- The tile and lane of lane `i` of a port (R22, R294). -/
def serdesLane (f : Fuses) (p i : Nat) : Option (Nat × Nat) :=
  (((portLanes f p).map (fun r => (List.range r.2.2).map (fun j => (r.1, r.2.1 + j)))).flatten)[i]?

/-- A lane of a tile's SerDes macro is bonded to a port (R22): the lanes 14 and 15 of tiles 2 and 13 never are. -/
def laneBonded (f : Fuses) (t l : Nat) : Bool :=
  (List.range 8).any (fun p => (portLanes f p).any (fun r => r.1 == t && decide (r.2.1 ≤ l ∧ l < r.2.1 + r.2.2)))

/-- The tiles of a torus port. -/
def portTiles (p : Nat) : List Nat := (portLanes {} p).map Prod.fst

/-! ## Routing (R304 to R308) -/

/-- The links a way round the ring crosses: n hops from c, positive or negative (R304). -/
def crossed (size c n : Nat) (pos : Bool) : List Nat :=
  (List.range n).map (fun i => if pos then (c + i) % size else (c + size - 1 - i % size) % size)

/-- A link that routes avoid: recorded down, and ROUTE_QUIET has passed; or marked up, and it has not (R307,
R308). -/
def linkDown (d : Dev) (a c : Nat) : Bool :=
  d.links.any (fun r => r.axis == a && r.at_ == c && (r.down == r.routed))

/-- A link recorded down whose ROUTE_QUIET has not passed (R307). -/
def linkQuiet (d : Dev) (a c : Nat) : Bool := d.links.any (fun r => r.axis == a && r.at_ == c && r.down && !r.routed)

/-- Where a packet goes next. -/
inductive Route where
  | here
  | hold
  | unreachable
  /-- the port, and whether it crosses the dateline there -/
  | via (port : Nat) (dateline : Bool)
  deriving DecidableEq, Repr

/-- The first axis on which a destination differs from this device (R304). -/
def nextAxis (f : Fuses) (d : Dev) (dest : Nat) : Option Nat :=
  [0, 1, 2].find? (fun a => coordOf f d dest a != coordOf f d (devAddr f d) a)

/-- The link from this device in a direction crosses the ring's dateline (R305). -/
def atDateline (f : Fuses) (d : Dev) (a : Nat) (pos : Bool) : Bool :=
  let c := coordOf f d (devAddr f d) a
  if pos then c + 1 == axisSize f d a else c == 0

/-- The route of a packet from this device (R304): on an axis it is already on it keeps its direction; entering an
axis the direction is chosen. -/
def routeOf (f : Fuses) (d : Dev) (dest : Nat) (cameBy : Option Nat) : Route :=
  match nextAxis f d dest with
  | none => .here
  | some a =>
    match cameBy with
    | some p =>
      if portAxis p = a then .via (portOf a (!portPos p)) (atDateline f d a (!portPos p))
      else choose a
    | none => choose a
where
  /-- The direction chosen where a packet enters an axis (R304). -/
  choose (a : Nat) : Route :=
    let n := axisSize f d a
    let c := coordOf f d (devAddr f d) a
    let t := coordOf f d dest a
    if c ≥ n ∨ t ≥ n then .unreachable
    else
      let up := (t + n - c) % n
      let pos := decide (up ≤ n - up)
      let way := fun (p : Bool) => crossed n c (if p then up else n - up) p
      let bad := fun (p : Bool) => (way p).any (linkDown d a)
      -- on an axis of size 2 the positive port is used while it is up
      let shut := decide (n = 2) && !carriesData f d (portOf a true) && !(way true).any (linkQuiet d a)
      let pick := if bad pos && bad (!pos) then none else if bad pos || shut then some (!pos) else some pos
      match pick with
      | none => .unreachable
      | some p => if (way p).any (linkQuiet d a) then .hold else .via (portOf a p) (atDateline f d a p)

/-- A packet leaves this device by its route (R304 to R307); `cameBy` is the port it arrived by. -/
def forward (f : Fuses) (d : Dev) (k : Packet) (cameBy : Option Nat) : Dev :=
  match routeOf f d k.dest cameBy with
  | .here => d
  | .hold => { d with heldPkts := d.heldPkts ++ [(cameBy, k)] }
  | .unreachable =>
    match cameBy with
    | some p => dropPacket d p 1
    | none => d.bump 0x4020 3 64 1
  | .via p dl =>
    let stay := match cameBy with
      | some q => k.esc && decide (portAxis q = portAxis p)
      | none => false
    enqueue f d p { k with esc := decide (k.vc ≠ 4) && (stay || dl) }

/-- A packet made here can be sent: it has a route, now or once ROUTE_QUIET has passed (R306). -/
def reachable (f : Fuses) (d : Dev) (dest : Nat) : Bool :=
  obj f d 0x4000 8 == 1 &&
    (match routeOf f d dest none with
      | .unreachable => false
      | _ => true)

/-- Send a packet made on this device: the state, and whether it could be sent (R306). -/
def routeSend (f : Fuses) (d : Dev) (k : Packet) : Dev × Bool :=
  if reachable f d k.dest then (forward f d k none, true) else (d.bump 0x4020 3 64 1, false)

/-! ## Ring status (R307, R308) -/

/-- The payload of a ring status packet: the axis, the coordinate of the link, and 1 for down (log entry 30). -/
def ringStatus (a c : Nat) (down : Bool) : List Byte := leBytes 2 a ++ leBytes 2 c ++ leBytes 2 (if down then 1 else 0)

/-- A ring status packet on the management channel of a port (R302, R307). -/
def sendRing (f : Fuses) (d : Dev) (p a c : Nat) (down : Bool) : Dev :=
  if carriesMgmt f d p then
    enqueue f d p { dest := obj f d (pIdx p) 4, src := devAddr f d, kind := 8, act := 4, addr := 0, data := ringStatus a c down, vc := 4, stamp := d.stampNow }
  else d

/-- The link of a port, as the coordinate it leads from (R317, RING_STATUS). -/
def linkOf (f : Fuses) (d : Dev) (p : Nat) : Nat :=
  let a := portAxis p
  let c := coordOf f d (devAddr f d) a
  let n := max 1 (axisSize f d a)
  if portPos p then c else (c + n - 1) % n

/-- Record a link as down or up; ROUTE_QUIET is still to pass (R307).  A record that says so already stays. -/
def recordLink (d : Dev) (a c : Nat) (down : Bool) : Dev :=
  match d.links.find? (fun r => r.axis == a && r.at_ == c) with
  | some r =>
    if r.down = down then d
    else { d with links := d.links.map (fun x => if x.axis = a ∧ x.at_ = c then { x with down := down, routed := false } else x) }
  | none => if down then { d with links := d.links ++ [⟨a, c, true, false⟩] } else d

/-- Whether a device's record of a link says so already. -/
def linkKnown (d : Dev) (a c : Nat) (down : Bool) : Bool :=
  match d.links.find? (fun r => r.axis == a && r.at_ == c) with
  | some r => r.down == down
  | none => !down

/-- This device marks the link of one of its ports and tells the ring, in both directions (R307, R308, R310). -/
def markLink (f : Fuses) (d : Dev) (p : Nat) (down : Bool) : Dev :=
  let a := portAxis p
  let c := linkOf f d p
  let d := recordLink d a c down
  let d := sendRing f d (portOf a true) a c down
  sendRing f d (portOf a false) a c down

/-- ROUTE_QUIET has passed after a record: routes follow it, and packets that were held are sent (R307, R308). -/
def quietEnd (f : Fuses) (d : Dev) (a c : Nat) : Dev :=
  let ls := d.links.map (fun r => if r.axis = a ∧ r.at_ = c then { r with routed := true } else r)
  let d := { d with links := ls.filter (fun r => r.down || !r.routed) }
  let ks := d.heldPkts
  ks.foldl (fun d k => match k.1 with
    | some p => forward f d k.2 (some p)
    | none => (routeSend f d k.2).1) { d with heldPkts := [] }

/-! ## Going down and coming up (R307 to R310, R313) -/

/-- A job runs on the device: a context is RUNNING (R476). -/
def jobRunning (d : Dev) : Bool := d.ctxs.any (fun p => match p.2.state with | .running => true | _ => false)

/-- The receive buffers without the packets that are partly received (R307). -/
def wholeFlits (l : List Flit) : List Flit :=
  ((l.zipIdx).filter (fun p => (l.drop p.2).any (fun y => y.eop && chanOf y.vc y.esc == chanOf p.1.vc p.1.esc))).map Prod.fst

/-- Channels of the receive buffers whose last packet is not whole (R307). -/
def partPackets (l : List Flit) : Nat :=
  ((List.range 9).filter (fun ch =>
    match ((l.filter (fun x => chanOf x.vc x.esc == ch)).getLast?) with
    | some x => !x.eop
    | none => false)).length

/-- The ARG of a torus event: the port in bits 7 to 0 and the lane in bits 15 to 8 (R318; log entry 31). -/
def torusArg (p lane : Nat) : Nat := p + 256 * lane

/-- A port goes DOWN with a cause (R307, R309): the neighbour is told where the link still allows it (log entry 54);
unacknowledged flits, partly received packets and packets that wait are dropped, whole packets stay to be delivered, the ring
is told, and the events are posted. -/
def portDown (f : Fuses) (d : Dev) (p cause : Nat) : Dev :=
  let t := d.port p
  let lost := (t.replay.filter (fun y => y.flit.eop)).length + partPackets t.rx + t.waiting.length
  let d := dropPacket d p lost
  let d := if cause = 2 ∨ cause = 3 ∨ cause = 5 ∨ cause = 6 then sendCtrl d p 7 [BitVec.ofNat 8 cause] else d
  let t := d.port p
  let d := d.setPort p { t with
    state := .down, replay := [], waiting := [], rx := wholeFlits t.rx, nakOut := false, swaps := []
    ident := false, measuring := false, mgmtOnly := decide (cause = 3), fell := true }
  let d := (d.setObj (pIdx p) 6 cause).bump (pIdx p) 0x16 32 1
  let d := markLink f d p true
  let d := eventAll f d Status.portDown (torusArg p 0)
  if cause = 3 then eventAll f d Status.peerLost (torusArg p 0) else d

/-- The port is in a state R309 lets go down. -/
def Port.live (t : Port) : Bool :=
  match t.state with
  | .up | .degraded | .restored => true
  | _ => false

/-- A port goes down where it can (R309). -/
def takeDown (f : Fuses) (d : Dev) (p cause : Nat) : Dev := if (d.port p).live then portDown f d p cause else d

/-- The handles of a PORT_RESET and of a reset of the port as a unit that wait for the attempt complete (R313, R580). -/
def endPortReset (f : Fuses) (d : Dev) (p status : Nat) : Dev :=
  endUnitReset (fun d h => completeHandle f d h status 0) d (0x5000 + p)

/-- A training step fails: TRAIN_FAIL, and the port is DOWN (R313).  The first attempt after a device reset, and one of a port
whose link is not recorded down, take it down as any port goes down, under cause 1; a retry that fails counts in DOWN_COUNT
only (R310, R317; log entry 154). -/
def trainFail (f : Fuses) (d : Dev) (p : Nat) : Dev :=
  let d := eventAll f d Status.trainFail (torusArg p 0)
  let t := d.port p
  let d :=
    if t.tried && linkKnown d (portAxis p) (linkOf f d p) true then
      (d.setPort p { t with state := .down, ident := false, measuring := false, fell := true }).bump (pIdx p) 0x16 32 1
    else portDown f d p 1
  endPortReset f (d.setPort p { d.port p with tried := true }) p Status.trainFail

/-- PROBE leaves with t1 in sixteenths of a cycle (R314). -/
def sendProbe (d : Dev) (p : Nat) : Dev :=
  sendCtrl (d.setPort p { d.port p with probeAt := d.cyc }) p 3 (leBytes 8 (16 * d.time + d.frac))

/-- A hop-delay measurement begins (R314). -/
def beginMeasure (d : Dev) (p : Nat) : Dev :=
  sendProbe (d.setPort p { d.port p with measuring := true, estimates := [] }) p

/-- The state of a port whose link works again: RESTORED while a job runs, else UP, or DEGRADED with 12 lanes (R308, R310). -/
def serviceState (f : Fuses) (d : Dev) (p : Nat) (again : Bool) : PortState :=
  if again && jobRunning d then .restored else if (bitList 26 (obj f d (pIdx p) 1)).length < 24 then .degraded else .up

/-- The last training step (R313): SEQ and ACK start at 0, credits are set, and the port is UP (DEGRADED with 12
lanes), or RESTORED when it comes up again, or its link is recorded down, and a job runs (R308, R310). -/
def portUp (f : Fuses) (d : Dev) (p : Nat) : Dev :=
  let again := (d.port p).fell || linkKnown d (portAxis p) (linkOf f d p) true
  let s := serviceState f d p again
  let d := d.setPort p { d.port p with
    state := s, sendSeq := 0, expSeq := 0, replay := [], rx := []
    nakOut := false, credits := fullCredits, crOut := List.replicate 9 0, measuring := false, tried := true
    fell := s == .restored }
  let d := if again && s != .restored then markLink f d p false else d
  endPortReset f (eventAll f d Status.portUp (torusArg p 0)) p 0

/-- A RESTORED port returns to service: it is UP and its link is marked up throughout its ring (R308, R310). -/
def restorePort (f : Fuses) (d : Dev) (p : Nat) : Dev :=
  match (d.port p).state with
  | .restored => markLink f (d.setPort p { d.port p with state := serviceState f d p false, fell := false }) p false
  | _ => d

/-- Every RESTORED port returns to service (R308, R310). -/
def restorePorts (f : Fuses) (d : Dev) : Dev := (List.range 6).foldl (restorePort f) d

/-! ## Receiving (R298, R299) -/

/-- ACK and credits of a flit that passed its checks (R297, R299): acknowledged flits leave the replay buffer. -/
def takeAck (d : Dev) (p : Nat) (x : Flit) : Dev :=
  let t := d.port p
  -- the flits before ACK: those whose distance to it is positive within the window
  let ahead := fun (y : SentFlit) => (x.ack + 65536 - y.flit.seq) % 65536
  let keep := t.replay.filter (fun y => decide (ahead y = 0 ∨ ahead y > 4096))
  let ch := chanOf x.crVc x.crEsc
  (d.moved (352 + p) (t.replay.length - keep.length)).setPort p
    { t with replay := keep, credits := t.credits.set ch (t.credits.getD ch 0 + x.crCount) }

/-- A frame arrives at a port: a bad one is discarded and counted, a good one gives its ACK and credits (R298).  What these let
go is sent once the frame has had its effect. -/
def receive (d : Dev) (p : Nat) (raw : List Byte) : Dev × Option Flit :=
  match flitOfBytes raw with
  | none => (d.bump (pIdx p) 0x12 64 1, none)
  | some x => (takeAck d p x, some x)

/-- The port receives flits at all (R309). -/
def Port.hears (t : Port) : Bool :=
  match t.state with
  | .disabled => false
  | .down => t.mgmtOnly
  | _ => true

/-- NAK with the expected SEQ (R299, R300). -/
def sendNak (d : Dev) (p : Nat) : Dev := sendCtrl d p 1 (leBytes 2 (d.port p).expSeq)

/-- A flit in order of a channel that the port does not carry: its packet is discarded and its buffer returned (R306,
R309). -/
def refuseFlit (d : Dev) (p : Nat) (x : Flit) : Dev :=
  let t := d.port p
  let ch := chanOf x.vc x.esc
  let d := d.setPort p { t with expSeq := (t.expSeq + 1) % 65536, nakOut := false, crOut := t.crOut.set ch (t.crOut.getD ch 0 + 1) }
  if x.eop then dropPacket d p 1 else d

/-- DATA_FLIT (R299): accepted in order, or discarded with a NAK at the first of a run; a port in training takes none. -/
def dataFlit (p : Nat) (raw : List Byte) (f : Fuses) (d : Dev) : Dev :=
  if (d.port p).hears = false ∨ (d.port p).state.code = 1 then d
  else
    let takes := fun (x : Flit) => carries f d p x.vc
    let (d, x) := receive d p raw
    let t := d.port p
    pump (match x with
      | some x =>
        if x.typ ≠ 0 then d
        else if x.seq = t.expSeq then
          if takes x = false then refuseFlit d p x else d.setPort p { t with expSeq := (t.expSeq + 1) % 65536, nakOut := false, rx := t.rx ++ [x] }
        else if t.nakOut then d
        else sendNak (d.setPort p { t with nakOut := true }) p
      | none =>
        -- a discarded flit that may have been a DATA flit makes the receiver ask again
        if t.nakOut then d else sendNak (d.setPort p { t with nakOut := true }) p) p

/-- NULL_FLIT (R298): it carries ACK and credits only. -/
def nullFlit (p : Nat) (raw : List Byte) (_f : Fuses) (d : Dev) : Dev :=
  if (d.port p).hears then pump (receive d p raw).1 p else d

/-- A CTRL flit of one code (R300), handed to `g` with its arguments. -/
def ctrlFlit (p code : Nat) (raw : List Byte) (d : Dev) (g : Dev → List Byte → Dev) : Dev :=
  if (d.port p).hears = false then d
  else
    match receive d p raw with
    | (d, some x) => pump (if x.typ = 1 ∧ field x.body 0 1 = code then g d (x.body.drop 1) else d) p
    | (d, none) => d

/-- The flits of a replay buffer from a SEQ on are resent in order, each counted in REPLAYS (R299). -/
def resendFrom (d : Dev) (p s : Nat) : Dev :=
  let t := d.port p
  let again := t.replay.dropWhile (fun y => decide (y.flit.seq ≠ s))
  let replay := t.replay.takeWhile (fun y => decide (y.flit.seq ≠ s)) ++ again.map (fun y => { y with resends := y.resends + 1 })
  again.foldl (fun d y => (sendFlit d p y.flit).bump (pIdx p) 0x13 64 1) (d.setPort p { t with replay := replay })

/-- FLIT_NAK (R299): the flits from the named SEQ are resent in order, before new ones. -/
def flitNak (p : Nat) (raw : List Byte) (_f : Fuses) (d : Dev) : Dev :=
  ctrlFlit p 1 raw d (fun d a => resendFrom d p (field a 0 2))

/-- NAK_REPEAT (R299): 4 µs have passed and the flit asked for has not come. -/
def nakRepeat (p : Nat) (_f : Fuses) (d : Dev) : Dev :=
  if (d.port p).hears && (d.port p).nakOut then sendNak d p else d

/-- REPLAY_LIMIT (R299, R309): a SEQ resent 8 times, or ACK without progress for 100 µs while flits are
outstanding. -/
def replayLimit (p : Nat) (timeout : Bool) (f : Fuses) (d : Dev) : Dev :=
  let t := d.port p
  if t.replay.any (fun y => decide (8 ≤ y.resends)) || (timeout && !t.replay.isEmpty) then takeDown f d p 2 else d

/-- FLIT_DOWN (R309): the neighbour's port goes down.  Where it does so under cause 3 its link stays trained, and so does this
side's (log entry 54). -/
def flitDown (p : Nat) (raw : List Byte) (f : Fuses) (d : Dev) : Dev :=
  ctrlFlit p 7 raw d (fun d a =>
    let live := (d.port p).live
    let d := takeDown f d p 4
    if live && field a 0 1 == 3 then d.setPort p { d.port p with mgmtOnly := true } else d)

/-! ## Training (R310, R313, R314) -/

/-- The lanes a port uses: the 24 lowest good ones, or the 12 lowest where fewer are good or the port has narrowed since its
last reset (R312, R313). -/
def chooseLanes (narrow : Bool) (good : Nat) : Nat :=
  let l := bitList 26 good
  ((if l.length ≥ 24 && !narrow then l.take 24 else l.take 12).map (2 ^ ·)).sum

/-- The lanes that train in an attempt and have not failed since the port's last reset (R311). -/
def usableLanes (f : Fuses) (d : Dev) (p good : Nat) : Nat := good &&& (2 ^ 26 - 1 - obj f d (pIdx p) 2 % 2 ^ 26)

/-- IDENT's arguments (R300). -/
def identArgs (f : Fuses) (d : Dev) (p : Nat) : List Byte :=
  leBytes 2 (devAddr f d) ++ leBytes 4 (partWord f d) ++ leBytes 2 (axisSize f d 0) ++ leBytes 2 (axisSize f d 1) ++
    leBytes 2 (axisSize f d 2) ++ slice f.serial 0 12 ++ leBytes 1 (if f.stepA0 then 0xA0 else 0xB1) ++ leBytes 1 p

/-- TRAIN_ATTEMPT (R310, R313 steps 1 to 4): an attempt on an enabled port of an axis with a ring; `good` are the
lanes that train.  A lane that has failed is not used again, and a narrowed port not widened, before a reset of the port (R311,
R312); a link that stays trained under cause 3 is not retrained (R309). -/
def trainAttempt (p good : Nat) (f : Fuses) (d : Dev) : Dev :=
  let t := d.port p
  let may := match t.state with | .disabled => true | .down => !t.mgmtOnly | _ => false
  if may = false ∨ obj f d (pIdx p) 7 = 0 ∨ hasRing f d p = false ∨ p ≥ 6 then d
  else
    let d := dropPacket d p ((t.rx.filter Flit.eop).length + partPackets t.rx + t.waiting.length)
    let d := d.setPort p { t with state := .training, rx := [], replay := [], waiting := [], ident := false, measuring := false, mgmtOnly := false }
    let good := usableLanes f d p good
    let n := (bitList 26 good).length
    if n < 12 then trainFail f d p
    else
      let d := (d.setObj (pIdx p) 1 (chooseLanes t.narrow good)).setObj (pIdx p) 2 (2 ^ 26 - 1 - good)
      sendCtrl (d.setPort p { d.port p with narrow := t.narrow || decide (n < 24) }) p 2 (identArgs f d p)

/-- The identity check of step 4 (R313). -/
def identOk (f : Fuses) (d : Dev) (p : Nat) (a : List Byte) : Bool :=
  let me := devAddr f d
  let ax := portAxis p
  let n := max 1 (axisSize f d ax)
  let c := coordOf f d me ax
  let peer := withCoord f d me ax (if portPos p then (c + 1) % n else (c + n - 1) % n)
  field a 0 2 == peer && field a 2 4 == partWord f d && field a 6 2 == axisSize f d 0 &&
    field a 8 2 == axisSize f d 1 && field a 10 2 == axisSize f d 2

/-- FLIT_IDENT (R313 step 4): the neighbour is checked; a mismatch leaves the port MISWIRED. -/
def flitIdent (p : Nat) (raw : List Byte) (f : Fuses) (d : Dev) : Dev :=
  ctrlFlit p 2 raw d (fun d a =>
    match (d.port p).state with
    | .training =>
      let d := (d.setObj (pIdx p) 4 (field a 0 2)).setObj (pIdx p) 5 (field a 12 12)
      if identOk f d p a then beginMeasure (d.setPort p { d.port p with ident := true }) p
      else
        let d := d.setPort p { d.port p with
          state := .miswired, sendSeq := 0, expSeq := 0, nakOut := false, credits := fullCredits, crOut := List.replicate 9 0, tried := true }
        endPortReset f (eventAll f d Status.miswired (torusArg p 0)) p Status.miswired
    | _ => d)

/-- FLIT_PROBE (R314): it is answered with t1, its arrival t2 and the answer's departure t3, in sixteenths of a
cycle. -/
def flitProbe (p : Nat) (raw : List Byte) (t2 t3 : Nat) (_f : Fuses) (d : Dev) : Dev :=
  ctrlFlit p 3 raw d (fun d a => sendCtrl d p 4 (slice a 0 8 ++ leBytes 8 t2 ++ leBytes 8 t3))

/-- Insert into a rising list. -/
def insertInt (x : Int) : List Int → List Int
  | [] => [x]
  | y :: t => if x ≤ y then x :: y :: t else y :: insertInt x t

/-- The median of an even number of doubled estimates, in sixteenths of a cycle: the mean of the middle two,
rounded; a value half way between is rounded by a free bit (log entry 32). -/
def medianHop (key : Nat) (l : List Int) : Int :=
  let s := l.foldr insertInt []
  let v := s.getD (s.length / 2 - 1) 0 + s.getD (s.length / 2) 0
  if v % 4 = 2 then v / 4 + (if Config.freeBit key then 1 else 0) else (v + 1) / 4

/-- A measurement ends: HOP_DELAY is set, and a delay above 600 cycles, which HOP_DELAY does not show (R317), fails step 5
(R314). -/
def endMeasure (f : Fuses) (d : Dev) (p : Nat) : Dev :=
  let t := d.port p
  let m := medianHop d.freeCtr t.estimates
  let d := { d.setPort p { t with measuring := false } with freeCtr := d.freeCtr + 1 }
  if m ≤ 9600 then d.setObj (pIdx p) 3 m.toNat
  else
    match t.state with
    | .training => trainFail f d p
    | _ => d

/-- What a port does in a cycle by itself: the next PROBE of a measurement leaves 4 µs after the last (R314), and a link that has
nothing else to send carries a NULL flit (R298; log entry 156). -/
def portCycle (f : Fuses) (d : Dev) (p : Nat) : Dev :=
  let t := d.port p
  if t.measuring && decide (t.probeAt + 4 * usCycles ≤ d.cyc) then sendProbe d p
  else if t.linked && hasRing f d p then sendFlit d p { typ := 2, body := zeros 224 }
  else d

/-- FLIT_ECHO (R314): one estimate; after 256 the median is HOP_DELAY.  A PROBE whose ECHO is lost is followed by further ones
(log entry 157). -/
def flitEcho (p : Nat) (raw : List Byte) (t4 : Nat) (f : Fuses) (d : Dev) : Dev :=
  ctrlFlit p 4 raw d (fun d a =>
    let t := d.port p
    if t.measuring = false then d
    else
      let e : Int := ((t4 : Int) - field a 0 8) - ((field a 16 8 : Int) - field a 8 8)
      let d := d.setPort p { t with estimates := t.estimates ++ [e] }
      if t.estimates.length + 1 < 256 then d else endMeasure f d p)

/-- TRAIN_COMPLETE (R313 step 6): the attempt ends; a step that has not passed fails it. -/
def trainComplete (p : Nat) (f : Fuses) (d : Dev) : Dev :=
  match (d.port p).state with
  | .training =>
    if (d.port p).ident && !(d.port p).measuring then portUp f d p else trainFail f d p
  | _ => d

/-- PORT_ENABLE is written (R309, R317): 0 takes the port down with cause 5 and disables it; a reset of the port that waits for
its training is over with that (log entry 155). -/
def portEnable (f : Fuses) (d : Dev) (p v : Nat) : Dev :=
  let d := d.setObj (pIdx p) 7 (if v = 0 then 0 else 1)
  if v ≠ 0 then d
  else
    let d := takeDown f d p 5
    endPortReset f (d.setPort p { d.port p with state := .disabled, mgmtOnly := false, measuring := false }) p 0

/-- Counters cleared by a reset of a port (R317). -/
def clearPort (d : Dev) (p : Nat) : Dev := (d.clearObjs (pIdx p) 0x10 0x16).clearObjs (pIdx p) 0xA 0xA

/-- PORT_RESET (R309, R312, R313, R317): the port goes down with cause 5, its counters clear and its failed lanes and its
narrowing are forgotten. -/
def portRestart (f : Fuses) (d : Dev) (p : Nat) : Dev :=
  let d := takeDown f d p 5
  let d := clearPort d p
  let d := (d.setObj (pIdx p) 1 0).setObj (pIdx p) 2 0
  let st : PortState := if obj f d (pIdx p) 7 = 0 then .disabled else .down
  d.setPort p { d.port p with state := st, swaps := [], mgmtOnly := false, narrow := false, measuring := false }

/-- A port that is not to be trained: it is disabled or its axis has no ring (R293, R309). -/
def untrained (f : Fuses) (d : Dev) (p : Nat) : Bool := decide (obj f d (pIdx p) 7 = 0) || !hasRing f d p

/-- PORT_RESET: the handle completes when the training attempt ends, or at once at a port that is not trained (log entry
155). -/
def portReset (f : Fuses) (d : Dev) (p h : Nat) : Dev :=
  joinReset d (0x5000 + p) { unit := 0x5000 + p, trigger := 0, status := 0, handles := [h], cleared := true, since := d.cyc }
    (fun d =>
      let d := portRestart f d p
      if untrained f d p then endPortReset f d p 0 else d)

/-! ## Lanes (R311, R312) -/

/-- Good lanes that carry nothing. -/
def spareLanes (f : Fuses) (d : Dev) (p : Nat) : List Nat :=
  (List.range 26).filter (fun i => !(obj f d (pIdx p) 1).testBit i && !(obj f d (pIdx p) 2).testBit i)

/-- LANE_REQ's arguments (R300). -/
def laneArgs (s : LaneSwap) : List Byte :=
  leBytes 1 s.failed ++ leBytes 1 s.spare ++ leBytes 1 (if s.narrow then 1 else 0) ++ leBytes 4 s.switch

/-- How a lane is replaced (R311, R312): by the lowest spare that no replacement names yet, or by narrowing to 12 lanes; none
where fewer than 12 lanes are good. -/
def replacement (f : Fuses) (d : Dev) (p lane : Nat) (used : List Nat) : Option LaneSwap :=
  let failed := obj f d (pIdx p) 2
  let spare := (spareLanes f d p).find? (fun i => i != lane && !used.contains i)
  let good := (List.range 26).filter (fun i => i != lane && !failed.testBit i)
  if spare.isNone ∧ good.length < 12 then none
  else some { failed := lane, spare := spare.getD 0, narrow := spare.isNone, switch := 8 }

/-- A lane is to be replaced (R311, R312); fewer than 12 good lanes take the port down with cause 6.  A failed spare is only
recorded. -/
def failLane (f : Fuses) (d : Dev) (p lane : Nat) : Dev :=
  let active := obj f d (pIdx p) 1
  let failed := obj f d (pIdx p) 2
  if (d.port p).live = false ∨ failed.testBit lane = true ∨ (d.port p).swaps.any (fun s => s.failed == lane) = true then d
  else if active.testBit lane = false then d.setObj (pIdx p) 2 (failed ||| 2 ^ lane)
  else
    match replacement f d p lane (((d.port p).swaps.filter (fun s => !s.narrow)).map LaneSwap.spare) with
    | none => takeDown f (d.setObj (pIdx p) 2 (failed ||| 2 ^ lane)) p 6
    | some s =>
      let first := (d.port p).swaps = []
      let d := d.setPort p { d.port p with swaps := (d.port p).swaps ++ [s] }
      if first then sendCtrl d p 5 (laneArgs s) else d

/-- LANE_SER_WINDOW (R311): the symbol errors of each lane over the last second; a lane above SPARE_SER is
replaced.  A lane carries 21.25 G symbols in a second (R295; log entry 33).  The codewords corrected and found
uncorrectable in the window are counted (R317). -/
def laneSerWindow (p : Nat) (errs : List Nat) (corr uncorr : Nat) (f : Fuses) (d : Dev) : Dev :=
  let d := (d.bump (pIdx p) 0x10 64 corr).bump (pIdx p) 0x11 64 uncorr
  let es := (List.range 26).map (fun i => min (errs.getD i 0) 0xFFFFFFFF)
  let d := d.setObj (pIdx p) 0xA (leNat ((es.map (leBytes 4)).flatten))
  let lim := obj f d (pIdx p) 9 * 21250
  (es.zipIdx).foldl (fun d q => if q.1 > lim then failLane f d p q.2 else d) d

/-- LOSS_OF_SIGNAL (R309, R311): lanes that have lost signal or lock; all active lanes, or the loss of FEC
alignment, take the port down with cause 1, and end a link that had stayed trained.  In training a loss fails the attempt. -/
def lossOfSignal (p lanes : Nat) (align : Bool) (f : Fuses) (d : Dev) : Dev :=
  let active := obj f d (pIdx p) 1
  match (d.port p).state with
  | .training => if align ∨ active &&& lanes ≠ 0 then trainFail f d p else d
  | _ =>
    if align ∨ (active ≠ 0 ∧ active &&& lanes = active) then
      let d := takeDown f d p 1
      d.setPort p { d.port p with mgmtOnly := false }
    else (bitList 26 lanes).foldl (fun d i => failLane f d p i) d

/-- LANE_REQ (R311, R312): the neighbour asks for a replacement.  It is confirmed at once, or after the one in
progress; of two that cross, the request of the lower address goes first.  A further request for the same lane takes the place
of the one held (log entry 57). -/
def laneReq (p : Nat) (raw : List Byte) (f : Fuses) (d : Dev) : Dev :=
  ctrlFlit p 5 raw d (fun d a =>
    let s : LaneSwap := { failed := field a 0 1, spare := field a 1 1, narrow := field a 2 1 == 1, switch := field a 3 4, acked := true }
    let t := d.port p
    let others := t.swaps.filter (fun r => r.failed != s.failed)
    match others with
    | [] => sendCtrl (d.setPort p { t with swaps := [s] }) p 6 (laneArgs s)
    | r :: _ =>
      if t.swaps.head? = some r ∧ (r.acked = true ∨ devAddr f d < obj f d (pIdx p) 4) then d.setPort p { t with swaps := others ++ [s] }
      else sendCtrl (d.setPort p { t with swaps := s :: others }) p 6 (laneArgs s))

/-- LANE_ACK (R311): the neighbour has confirmed the replacement. -/
def laneAck (p : Nat) (raw : List Byte) (_f : Fuses) (d : Dev) : Dev :=
  ctrlFlit p 6 raw d (fun d a =>
    let t := d.port p
    d.setPort p { t with swaps := t.swaps.map (fun s => if s.failed = field a 0 1 ∧ s.spare = field a 1 1 ∧ s.narrow = (field a 2 1 == 1) then { s with acked := true } else s) })

/-- The next of the replacements that waited begins (R312): one of this side is chosen again from the lanes that are left and
asked for; one of the neighbour is confirmed while its spare is still free, and is else left to the neighbour's next request; a
lane that is out of use needs none (log entry 57). -/
def nextSwap (f : Fuses) (d : Dev) (p : Nat) : List LaneSwap → Dev
  | [] => d.setPort p { d.port p with swaps := [] }
  | r :: rest =>
    if (obj f d (pIdx p) 1).testBit r.failed = false then nextSwap f d p rest
    else if r.acked then
      if r.narrow || (spareLanes f d p).contains r.spare then
        sendCtrl (d.setPort p { d.port p with swaps := r :: rest }) p 6 (laneArgs r)
      else nextSwap f d p rest
    else
      match replacement f d p r.failed [] with
      | none => takeDown f (d.setObj (pIdx p) 2 (obj f d (pIdx p) 2 ||| 2 ^ r.failed)) p 6
      | some s => sendCtrl (d.setPort p { d.port p with swaps := s :: rest }) p 5 (laneArgs s)

/-- LANE_SWITCH (R311, R312): both sides switch at the codeword boundary; the next replacement that waits begins. -/
def laneSwitch (p : Nat) (f : Fuses) (d : Dev) : Dev :=
  let t := d.port p
  match t.swaps with
  | s :: rest =>
    if s.acked = false ∨ t.live = false then d
    else
      let failed := obj f d (pIdx p) 2 ||| 2 ^ s.failed
      let good := (List.range 26).filter (fun i => !failed.testBit i)
      let active := if s.narrow then ((good.take 12).map (2 ^ ·)).sum
        else (obj f d (pIdx p) 1 ||| 2 ^ s.spare) &&& (2 ^ 26 - 1 - 2 ^ s.failed)
      let d := ((d.setObj (pIdx p) 1 active).setObj (pIdx p) 2 failed).bump (pIdx p) 0x15 32 1
      let st : PortState := match t.state with
        | .restored => .restored
        | x => if s.narrow then .degraded else x
      let d := d.setPort p { d.port p with swaps := rest, state := st, narrow := t.narrow || s.narrow }
      let d := eventAll f d (if s.narrow then Status.portDegraded else Status.laneSpared) (torusArg p s.failed)
      nextSwap f (beginMeasure d p) p rest
  | [] => d

end Sys2Proof.Machine
end

