-- ==== Sys2Proof/Machine/Group.lean ====
section
/-! DEFINITION. Collective groups: descriptors, members and ranks, and a member's place in its ring (R319 to R321,
R330). -/

namespace Sys2Proof.Machine

/-! ## Group descriptors (R319 to R321) -/

/-- A group descriptor (R321). -/
structure GroupDesc where
  cores : Nat
  devs : Nat
  axis : Nat
  bidir : Bool
  valid : Bool
  slowMax : Nat
  root : Nat
  deadline : Nat
  minPresent : Nat
  epoch0 : Nat
  holdLimit : Nat
  ctx : Nat
  deriving DecidableEq, Repr

/-- The fields of 64 descriptor bytes (R321). -/
def descOf (b : Nat) : GroupDesc :=
  { cores := bits b 127 0, devs := bits b 383 128, axis := bits b 385 384, bidir := bit b 386, valid := bit b 387,
    slowMax := bits b 399 392, root := bits b 415 400, deadline := bits b 447 416, minPresent := bits b 463 448,
    epoch0 := bits b 479 464, holdLimit := bits b 495 480, ctx := bits b 507 496 }

/-- The committed descriptor of a group (R320). -/
def groupRaw (f : Fuses) (d : Dev) (g : Nat) : Nat := obj f d (0x8010 + g / 256) (g % 256)

def groupDesc (f : Fuses) (d : Dev) (g : Nat) : GroupDesc := descOf (groupRaw f d g)

/-- The descriptor digest of R323. -/
def groupDigest (f : Fuses) (d : Dev) (g : Nat) : Nat := crc32c ((leBytes 64 (groupRaw f d g)).take 62)

/-- The cores of this device that take part, ascending. -/
def GroupDesc.coreList (x : GroupDesc) : List Nat := bitList 128 x.cores

/-- The members by rank: cores under AXIS NONE, coordinates otherwise (R319). -/
def GroupDesc.ids (x : GroupDesc) : List Nat := if x.axis = 0 then x.coreList else bitList 256 x.devs

/-- M (R319). -/
def GroupDesc.ranks (x : GroupDesc) : Nat := x.ids.length

/-- c, the sub-rings (R319). -/
def GroupDesc.subs (x : GroupDesc) : Nat := if x.axis = 0 then 1 else x.coreList.length

def Dev.group (d : Dev) (g : Nat) : Group := SMap.get {} d.groups g

def Dev.setGroup (d : Dev) (g : Nat) (x : Group) : Dev := { d with groups := d.groups.put g x }

def Dev.modGroup (d : Dev) (g : Nat) (h : Group → Group) : Dev := d.setGroup g (h (d.group g))

/-- This device's coordinate on the group's axis (R319). -/
def ownCoord (f : Fuses) (d : Dev) (x : GroupDesc) : Nat := coordOf f d (devAddr f d) (x.axis - 1)

/-- The present ranks, ascending (R330). -/
def presentRanks (x : GroupDesc) (gr : Group) : List Nat :=
  ((x.ids.zipIdx).filter (fun p => gr.present.testBit p.1)).map Prod.snd

/-- The rank of an identity. -/
def GroupDesc.rankOf (x : GroupDesc) (id : Nat) : Nat := x.ids.idxOf id

/-- A member's place in its ring (R330). -/
structure Ring where
  ranks : List Nat
  me : Nat
  k : Nat
  deriving DecidableEq, Repr

/-- M′ (R330). -/
def Ring.size (r : Ring) : Nat := r.ranks.length

/-- The rank of this member. -/
def Ring.rank (r : Ring) : Nat := r.ranks.getD r.me 0

/-- The neighbour position in a direction, 0 positive and 1 negative; `fwd` for the successor (R330). -/
def Ring.next (r : Ring) (fwd : Bool) (dir i : Nat) : Nat :=
  let n := max 1 r.size
  if fwd = (dir == 0) then (i + 1) % n else (i + n - 1) % n

def Ring.succ (r : Ring) (dir : Nat) : Nat := r.next true dir r.me
def Ring.pred (r : Ring) (dir : Nat) : Nat := r.next false dir r.me

/-- The ring a core takes part in; none where it is not present. -/
def ringOf (f : Fuses) (d : Dev) (g c : Nat) : Option Ring :=
  let x := groupDesc f d g
  let rs := presentRanks x (d.group g)
  let me := x.rankOf (if x.axis = 0 then c else ownCoord f d x)
  if rs.contains me && x.coreList.contains c then
    some { ranks := rs, me := rs.idxOf me, k := if x.axis = 0 then 0 else x.coreList.idxOf c }
  else none

end Sys2Proof.Machine
end

