-- ==== Sys2Proof/Machine/Stroke.lean ====
section
/-! DEFINITION. Strokes: their fields, their table entries and address generators, the check in the fixed order
of R166, and what every stroke class shares at issue: waits, loop steps and the passing of control. -/

namespace Sys2Proof.Machine

/-! ## Fields (R136 to R156) -/

/-- The image of a thread as a run of store indices (R109, R139). -/
def Core.image (k : Core) : Thr → Nat × Nat
  | .F => (0, k.fLen)
  | .B => (k.fLen, k.fLen + k.bLen)

/-- The 128-bit store entry at an index. -/
def Core.word (k : Core) (i : Nat) : Nat := SMap.get 0 k.store i

def skClass (w : Nat) : Nat := bits w 3 0
def skOp (w : Nat) : Nat := bits w 7 4
def skTctr (w : Nat) : Nat := bits w 14 8
def skCctr (w : Nat) : Nat := bits w 20 15
def skTamt (w : Nat) : Nat := bits w 47 32
def skCamt (w : Nat) : Nat := bits w 63 48

/-- The signal of a stroke (R117, R136). -/
def skSig (w : Nat) : Option CtrRef :=
  if bit w 29 then some { credit := bit w 21, idx := bits w 28 22 } else none

/-- The drain signal of an MMA stroke (R144). -/
def skDsig (w : Nat) : Option CtrRef :=
  if bit w 110 then some { credit := bit w 111, idx := bits w 118 112 } else none

/-- Number sources of a VEC function code (R148); none for a code that is not listed. -/
def vecSources (fn : Nat) : Option Nat :=
  if fn ∈ [0, 1, 2, 3, 4, 5, 0x0B, 0x1B, 0x20, 0x21] then some 2
  else if fn ∈ [6, 7, 8, 9, 0x0A, 0x10, 0x11, 0x12, 0x13, 0x18, 0x19, 0x1A] then some 1
  else none

/-! ## Address generators (R140 to R142) -/

/-- A loop counter of a thread. -/
def lcOf (lc : List Nat) (i : Nat) : Nat := lc.getD i 0

/-- The Plate address of a PADDR entry (R140). -/
def paddr (w : Nat) (lc : List Nat) : Int :=
  (bits w 31 8 : Int) + (lcOf lc 0 : Int) * sext 24 (bits w 55 32) + (lcOf lc 1 : Int) * sext 24 (bits w 79 56) +
    (lcOf lc 2 : Int) * sext 24 (bits w 103 80) + (lcOf lc 3 : Int) * sext 24 (bits w 127 104)

/-- The device address of an EADDR entry (R141). -/
def eaddr (w : Nat) (lc : List Nat) : Int :=
  (bits w 55 8 : Int) + ((lcOf lc 0 : Int) * sext 16 (bits w 71 56) + (lcOf lc 1 : Int) * sext 16 (bits w 87 72) +
    (lcOf lc 2 : Int) * sext 16 (bits w 103 88) + (lcOf lc 3 : Int) * sext 16 (bits w 119 104)) *
      (2 ^ (bits w 123 120 + 4) : Nat)

/-- The logical origin of a COORD entry (R142). -/
def coord (w : Nat) (lc : List Nat) : Nat × Nat :=
  let s := fun (lo : Nat) => (List.range 4).foldl (fun a i => a + lcOf lc i * bits w (lo + 8 * i + 7) (lo + 8 * i)) 0
  (bits w 35 8 + s 64, bits w 63 36 + s 96)

/-- An address entry is an EADDR. -/
def isEaddr (w : Nat) : Bool := bits w 7 4 == 1

/-- The address of a PADDR or EADDR entry. -/
def anyAddr (w : Nat) (lc : List Nat) : Int := if isEaddr w then eaddr w lc else paddr w lc

/-- A TARGET entry (R153). -/
def targetOf (w : Nat) : Target :=
  { dev := bits w 23 8, core := bits w 30 24, isLocal := bit w 31, queue := bits w 33 32, noteEn := bit w 34,
    noteCredit := bit w 35, noteCtr := bits w 42 36, noteAmt := bits w 58 43 }

/-- The rounding control of a 3-bit field (R64). -/
def rcOf (v : Nat) : RC := { rnd := v % 4, sat := bit v 2 }

/-- The format of a 4-bit code that has been checked. -/
def fmtOf (c : Nat) : Fmt := (Fmt.ofCode c).getD .f32

/-! ## The check (R166) -/

/-- One condition of the check that fails: its place in the order of R166, the status, and what the fault record
gives (R132). -/
structure Viol where
  rank : Nat
  status : Nat
  requested : Nat := 0
  limit : Nat := 0
  index : Nat := 0
  deriving DecidableEq, Repr

/-- RESOURCE of a check's fault record (R166). -/
def violResource (v : Viol) : Nat :=
  if v.rank ≤ 12 then 9
  else if v.status = Status.mmaShape then 10
  else if v.status = Status.expandSize then 8
  else if v.status = Status.plateRange then 1
  else if v.status = Status.window then 6
  else if v.status = Status.offSite then 9
  else 0

def when' (b : Bool) (v : Viol) : List Viol := if b then [v] else []

/-- The statuses of the items of R166 that list several, in their order. -/
def itemOrder : List Nat :=
  [Status.formatCode, Status.roundCode, Status.formatUse, Status.loopLevel, Status.loopNest, Status.loopEnd, Status.skipRange,
   Status.mmaShape, Status.expandSize, Status.plateRange, Status.window]

/-- The place of a violation in the order of R166. -/
def Viol.place (v : Viol) : Nat := 16 * v.rank + itemOrder.idxOf v.status

/-- The first that applies in the order of R166. -/
def firstViol : List Viol → Option Viol
  | [] => none
  | v :: t =>
    match firstViol t with
    | none => some v
    | some u => if v.place ≤ u.place then some v else some u

/-- Reserved bits of a table entry by KIND (R141 to R153). -/
def entryReserved (w : Nat) : Bool :=
  let k := bits w 7 4
  if k = 1 then bits w 127 124 ≠ 0
  else if k = 2 then bits w 127 77 ≠ 0
  else if k = 4 then bit w 23 || bits w 127 96 ≠ 0
  else if k = 5 then bits w 127 59 ≠ 0
  else if k = 6 then bits w 127 94 ≠ 0
  else if k = 7 then bits w 127 120 ≠ 0
  else if k = 8 then bits w 127 122 ≠ 0
  else if k = 9 then bits w 127 72 ≠ 0
  else false

/-- An entry of one of the kinds lies at an index of the thread's own image (R139). -/
def entryOk (k : Core) (t : Thr) (i : Nat) (kinds : List Nat) : Bool :=
  let (lo, hi) := k.image t
  decide (lo ≤ i ∧ i < hi ∧ i ≠ 0x3FFF) && skClass (k.word i) == 15 && kinds.contains (bits (k.word i) 7 4)

/-- BAD_ENTRY, or RESERVED_BITS in the entry (R166 items 5 and 6). -/
def needEntry (k : Core) (t : Thr) (i : Nat) (kinds : List Nat) : List Viol :=
  if entryOk k t i kinds then when' (entryReserved (k.word i)) ⟨6, Status.reservedBits, i, 0, 0⟩
  else [⟨5, Status.badEntry, i, 0, 0⟩]

/-- FORMAT_CODE or FORMAT_USE (R47). -/
def needFmt (c : Nat) (ok : Fmt → Bool) : List Viol :=
  match Fmt.ofCode c with
  | none => [⟨7, Status.formatCode, c, 0, 0⟩]
  | some x => when' (!ok x) ⟨7, Status.formatUse, c, 0, 0⟩

def needRc (v : Nat) : List Viol := when' (v % 4 == 3) ⟨7, Status.roundCode, v, 0, 0⟩

/-- The ends of the compute, exchange and collective partitions (R106). -/
def partEnds (f : Fuses) (d : Dev) : Nat × Nat × Nat :=
  let c := obj f d 0x3100 0 * 1024
  let e := c + obj f d 0x3100 1 * 1024
  (c, e, e + obj f d 0x3100 2 * 1024)

/-- The part of the Plate a stroke may address: of its thread (R108), or for a CODE stroke of its engine
(R164). -/
def permitted (f : Fuses) (d : Dev) (t : Thr) (codeExch : Option Bool) : Nat × Nat :=
  let (c, e, l) := partEnds f d
  match codeExch, t with
  | some false, _ => (0, c)
  | some true, _ => (c, e)
  | none, .F => (0, e)
  | none, .B => (e, l)

/-- ALIGN and PLATE_RANGE of a Plate region (R103, R108, R143); a region of no bytes still names its address. -/
def needPlate (pr : Nat × Nat) (a : Int) (n align : Nat) : List Viol :=
  when' (decide (a % (align : Int) ≠ 0)) ⟨11, Status.align, a.toNat, align, 0⟩ ++
  when' (decide (a < (pr.1 : Int) ∨ (pr.2 : Int) < a + max n 1 ∨ (0xC00000 : Int) < a + max n 1))
    ⟨13, Status.plateRange, a.toNat, pr.2 - 1, 0⟩

/-- The end of the context's window above an address (R132). -/
def windowEnd (d : Dev) (g : Nat) (a : Int) : Nat :=
  match findMap (d.ctx g).maps a.toNat with
  | some m => m.caddr + m.len - 1
  | none => 0

/-- ALIGN and WINDOW of a device region (R141, R143, R465). -/
def needMem (d : Dev) (g : Nat) (w : Bool) (a : Int) (n : Nat) : List Viol :=
  when' (decide (a % 16 ≠ 0)) ⟨11, Status.align, a.toNat, 16, 0⟩ ++
  when' (!inWindow d g w a n) ⟨13, Status.window, a.toNat, windowEnd d g a, 0⟩

/-- A region named by a PADDR or EADDR entry; an entry that is not of the right kind is BAD_ENTRY already. -/
def needRegion (d : Dev) (g : Nat) (pr : Nat × Nat) (lc : List Nat) (w : Nat) (wr : Bool) (n align : Nat) : List Viol :=
  if isEaddr w then needMem d g wr (eaddr w lc) n else needPlate pr (paddr w lc) n align

/-- The rules of R137 on signal fields. -/
def sigFields (en kind : Bool) (ctr : Nat) : List Viol :=
  when' ((!en && (kind || ctr != 0)) || (kind && decide (ctr ≥ 64))) ⟨8, Status.badField, ctr, 0, 0⟩

/-- COUNTER_OWNER for a counter of the other thread (R112). -/
def needOwner (t : Thr) (credit : Bool) (i : Nat) : List Viol :=
  when' (decide (ownerOf ⟨credit, i⟩ ≠ t)) ⟨9, Status.counterOwner, i, 0, i⟩

/-- The site field of a device address (R291). -/
def siteOf (f : Fuses) (d : Dev) (a : Nat) : Nat := a % 65536 / 2 ^ (16 - obj f d 0x4000 1)

/-- NO_CORE and OFF_SITE for a destination core (R120, R293). -/
def needDest (f : Fuses) (d : Dev) (g : Nat) (isLocal : Bool) (dev core : Nat) : List Viol :=
  if isLocal || dev == devAddr f d then
    when' (decide (core ≥ f.cores ∨ ctxOf d core ≠ some g)) ⟨10, Status.noCore, core, 0, 0⟩
  else when' (decide (siteOf f d dev ≠ siteOf f d (devAddr f d))) ⟨14, Status.offSite, dev, 0, 0⟩

/-- Bytes of `n` elements of a plane; S32 is read as its H plane. -/
def fmtBytes (x : Fmt) (n : Nat) : Nat := planeBytes x.width n

/-- Elements fill whole bytes (R52). -/
def packs (x : Fmt) (n : Nat) : Bool :=
  !((x.width == 4 && n % 2 != 0) || (x.width == 6 && n % 4 != 0))

/-- The multiple of KC a width class needs (R82). -/
def kcMultiple (x : Fmt) : Nat := if x.width = 8 then 2 else if x.width = 6 then 8 else if x.width = 4 then 4 else 1

/-- The largest extent of a coded plane of `n` sectors (R243). -/
def codedMax (n : Nat) : Nat := 16 * ceilDiv (4 * n + 20) 16 + 4192 * n

/-- MMA (R81, R82, R144, R145, R251). -/
def checkMma (f : Fuses) (d : Dev) (k : Core) (t : Thr) (w : Nat) : List Viol :=
  let lc := (k.th t).lc
  let pr := permitted f d t none
  let s := bits w 105 92
  let a := bits w 77 64
  let b := bits w 91 78
  let init := bits w 108 107
  let last := bit w 109
  let h := k.word s
  let (af, bf, of, cf) := (bits h 11 8, bits h 15 12, bits h 21 18, bits h 25 22)
  let rc := bits h 28 26
  let (m, n, kc) := (bits h 37 30, bits h 45 38, bits h 60 46)
  let xa := fmtOf af
  let xb := fmtOf bf
  let blk := fun c => (fmtOf c).isBlock && decide (c < 15)
  let sr := rc % 4 == 2
  let v := if bit h 29 then n else m
  let ents : List Viol := needEntry k t a [0] ++ needEntry k t b [0] ++ needEntry k t s [2]
  let more : List Viol :=
    if entryOk k t s [2] then
      (if blk af then needEntry k t (a + 1) [0] else []) ++ (if blk bf then needEntry k t (b + 1) [0] else []) ++
      (if last then needEntry k t (s + 1) [0] else []) ++
      (if last && of == 10 then needEntry k t (s + 2) [0] else []) ++
      (if init == 1 then needEntry k t (s + 3) [0] else []) ++
      (if last && sr then needEntry k t (s + 4) [3] else []) ++
      needFmt af (fun x => x != .ap) ++ needFmt bf (fun x => x != .ap) ++
      (if last then needFmt of (fun x => x ∈ [Fmt.f32, .f16, .b16, .f8e5, .f8e4, .bs8, .ap]) ++ needRc rc else []) ++
      (if init == 1 then needFmt cf (fun x => x ∈ [Fmt.f32, .f16, .b16, .ap]) else []) ++
      when' ((bit h 16 && !blk af) || (bit h 17 && !blk bf)) ⟨7, Status.formatUse, 0, 0, 0⟩ ++
      (if last && sr then
        let (r0, c0) := coord (k.word (s + 4)) lc
        when' (decide (r0 ≥ 2 ^ 28 ∨ c0 ≥ 2 ^ 28)) ⟨8, Status.badField, 0, 0, 0⟩ else []) ++
      when' (decide (m > 128 ∨ n > 128 ∨ kc > 16384 ∨ kc % max (kcMultiple xa) (kcMultiple xb) ≠ 0))
        ⟨13, Status.mmaShape, 0, 0, 0⟩ ++
      (let op := fun (x : Fmt) (comp : Bool) (e : Nat) =>
        let sz := kc * fmtBytes x 128
        (if comp then when' (decide (sz > 65536 ∨ sz % 4096 ≠ 0)) ⟨13, Status.expandSize, sz, 65536, 0⟩ else []) ++
        needPlate pr (paddr (k.word e) lc) (if comp then codedMax (sz / 4096) else sz) 256 ++
        (if x.isBlock then needPlate pr (paddr (k.word (e + 1)) lc) (4 * kc) 64 else [])
       op xa (bit h 16) a ++ op xb (bit h 17) b) ++
      (if last then needPlate pr (paddr (k.word (s + 1)) lc) (v * fmtBytes (fmtOf of) 128) 256 ++
        (if of == 10 then needPlate pr (paddr (k.word (s + 2)) lc) (4 * v) 64 else []) else []) ++
      (if init == 1 then needPlate pr (paddr (k.word (s + 3)) lc) (m * fmtBytes (fmtOf cf) 128) 256 else [])
    else []
  when' (decide (bits w 127 119 ≠ 0)) ⟨4, Status.reservedBits, 0, 0, 0⟩ ++ ents ++ more ++
  sigFields (bit w 110) (bit w 111) (bits w 118 112) ++
  when' (init == 3 || (!last && bit w 110)) ⟨8, Status.badField, 0, 0, 0⟩

/-- The formats a VEC function accepts (R171): sources and destination. -/
def vecFormats (fn : Nat) : (Fmt → Bool) × (Fmt → Bool) :=
  let noAp : Fmt → Bool := fun x => x != .ap
  if fn = 8 then (fun _ => true, fun _ => true)
  else if fn ∈ [0x10, 0x11, 0x12, 0x13] then (noAp, fun x => x ∈ [Fmt.f32, .f16, .b16])
  else if fn ∈ [0x18, 0x19] then (noAp, fun x => x == .ap)
  else if fn = 0x1A then (noAp, fun x => x ∈ [Fmt.f32, .f16, .b16, .f8e5, .f8e4, .f6e3, .f6e2, .f4, .i8])
  else if fn = 0x1B then (fun x => x == .ap, fun x => x == .ap)
  else (noAp, fun x => x != .ap && x != .s32)

/-- Bytes of the plane that follows an element plane: scales, or the L plane of S32. -/
def nextBytes (x : Fmt) (n : Nat) : Nat := if x.isBlock then ceilDiv n 32 else 2 * n

/-- VEC (R146, R147, R171). -/
def checkVec (f : Fuses) (d : Dev) (k : Core) (t : Thr) (w : Nat) : List Viol :=
  let lc := (k.th t).lc
  let pr := permitted f d t none
  let (s1, s2, dd, cfg, fn) := (bits w 77 64, bits w 91 78, bits w 105 92, bits w 119 106, bits w 125 120)
  let two := vecSources fn == some 2
  let h := k.word cfg
  let (k1, k2, kd, rc) := (bits h 11 8, bits h 15 12, bits h 19 16, bits h 22 20)
  let len := bits h 47 24
  let cvt := fn == 8
  let nxt := fun c => decide (c < 15) && ((fmtOf c).isBlock || (cvt && c == 9))
  let sr := rc % 4 == 2
  let (srcOk, dstOk) := vecFormats fn
  let elemLike := !(fn ∈ [0x18, 0x19, 0x1A])
  when' (decide (bits w 127 126 ≠ 0)) ⟨4, Status.reservedBits, 0, 0, 0⟩ ++
  needEntry k t cfg [4] ++ needEntry k t s1 [0] ++ (if two then needEntry k t s2 [0] else []) ++ needEntry k t dd [0] ++
  when' (!two && s2 != 0x3FFF) ⟨8, Status.badField, s2, 0, 0⟩ ++
  (if entryOk k t cfg [4] then
    (if nxt k1 then needEntry k t (s1 + 1) [0] else []) ++ (if two && nxt k2 then needEntry k t (s2 + 1) [0] else []) ++
    (if nxt kd then needEntry k t (dd + 1) [0] else []) ++ (if sr then needEntry k t (cfg + 1) [3] else []) ++
    needFmt k1 srcOk ++ (if two then needFmt k2 srcOk else []) ++ needFmt kd dstOk ++ needRc rc ++
    when' (!two && k2 != 0) ⟨8, Status.badField, k2, 0, 0⟩ ++
    when' (kd == 14 && rc != 0) ⟨8, Status.badField, rc, 0, 0⟩ ++
    when' (!sr && bits h 63 48 != 0) ⟨8, Status.badField, bits h 63 48, 0, 0⟩ ++
    when' (bits h 95 64 != 0 && !(fn ∈ [9, 0x0A, 0x0B])) ⟨8, Status.badField, 0, 0, 0⟩ ++
    when' ((((fmtOf k1).isBlock || (two && (fmtOf k2).isBlock) || (fmtOf kd).isBlock) && len % 32 != 0) ||
      !packs (fmtOf k1) len || (two && !packs (fmtOf k2) len) || (elemLike && !packs (fmtOf kd) len))
      ⟨8, Status.badField, len, 0, 0⟩ ++
    (if sr then
      let (r0, c0) := coord (k.word (cfg + 1)) lc
      when' (decide (r0 ≥ 2 ^ 28 ∨ c0 ≥ 2 ^ 28)) ⟨8, Status.badField, 0, 0, 0⟩ else []) ++
    needPlate pr (paddr (k.word s1) lc) (fmtBytes (fmtOf k1) len) 16 ++
    (if nxt k1 then needPlate pr (paddr (k.word (s1 + 1)) lc) (nextBytes (fmtOf k1) len) 16 else []) ++
    (if two then needPlate pr (paddr (k.word s2) lc) (fmtBytes (fmtOf k2) len) 16 ++
      (if nxt k2 then needPlate pr (paddr (k.word (s2 + 1)) lc) (nextBytes (fmtOf k2) len) 16 else []) else []) ++
    needPlate pr (paddr (k.word dd) lc)
      (if fn ∈ [0x18, 0x19] then 20 else if fn = 0x1A then fmtBytes (fmtOf kd) 1 else fmtBytes (fmtOf kd) len) 16 ++
    (if nxt kd then needPlate pr (paddr (k.word (dd + 1)) lc) (nextBytes (fmtOf kd) len) 16 else [])
  else [])

/-- A constant of the update lies in its range (R274): `lt1` below 1, `pos` above 0, otherwise at least 0; −0
counts as 0. -/
def constOk (b : Nat) (lt1 pos zero : Bool) : Bool :=
  match decodeFloat .f32 b with
  | .fin neg m e =>
    if m = 0 then !pos
    else !zero && !neg && (!lt1 || decide (exOf m e < 0))
  | _ => false

/-- UPD (R149 to R151, R274). -/
def checkUpd (f : Fuses) (d : Dev) (k : Core) (t : Thr) (w : Nat) : List Viol :=
  let lc := (k.th t).lc
  let pr := permitted f d t none
  let (pe, he, n) := (bits w 77 64, bits w 91 78, bits w 107 92)
  let op1 := skOp w == 1
  let u0 := k.word he
  let u1 := k.word (he + 1)
  let u2 := k.word (he + 2)
  let clip := bits u2 71 58
  let sizes := [512 * n, 512 * n, 256 * n, 8 * n, 256 * n, 8 * n, 256 * n, 8 * n, 32 * ceilDiv n 8]
  when' (decide (bits w 127 109 ≠ 0)) ⟨4, Status.reservedBits, 0, 0, 0⟩ ++
  ((List.range 9).map (fun i => needEntry k t (pe + i) [0])).flatten ++
  needEntry k t he [7] ++ needEntry k t (he + 1) [8] ++ needEntry k t (he + 2) [9] ++
  when' (n == 0) ⟨8, Status.badField, 0, 0, 0⟩ ++
  (if entryOk k t he [7] then
    when' (!constOk (bits u0 39 8) false false false || !constOk (bits u0 71 40) false false false ||
      !constOk (bits u0 103 72) false (!op1) op1) ⟨8, Status.badField, 0, 0, 0⟩ else []) ++
  (if entryOk k t (he + 1) [8] then
    when' (!constOk (bits u1 39 8) true false false || !constOk (bits u1 71 40) true false op1)
      ⟨8, Status.badField, 0, 0, 0⟩ else []) ++
  (if entryOk k t (he + 2) [9] && clip != 0x3FFF then
    needEntry k t clip [0] ++ needPlate pr (paddr (k.word clip) lc) 16 16 else []) ++
  ((List.range 9).map (fun i =>
    if (i == 1 && bit w 108) || (op1 && (i == 4 || i == 5)) then []
    else needPlate pr (paddr (k.word (pe + i)) lc) (sizes.getD i 0) 16)).flatten

/-- MOVE (R152 to R154). -/
def checkMove (f : Fuses) (d : Dev) (g : Nat) (k : Core) (t : Thr) (w : Nat) : List Viol :=
  let lc := (k.th t).lc
  let pr := permitted f d t none
  let op := skOp w
  let (src, dst, tg, len) := (bits w 77 64, bits w 91 78, bits w 105 92, bits w 127 106)
  let queueOp := op ≥ 5
  let size := if op = 4 then 8 * len else 16 * len
  let srcKind := if op = 0 then [1] else [0]
  let dstKind := if op = 1 then [1] else [0]
  let tgtUsed := decide (op ≤ 2 ∧ tg ≠ 0x3FFF) || decide (op = 3 ∨ op = 4)
  let x := targetOf (k.word tg)
  (if queueOp then
    when' (decide (src / 4 ≠ 0 ∨ len ≠ 0 ∨ tg ≠ 0x3FFF)) ⟨8, Status.badField, 0, 0, 0⟩ ++
    when' (decide ((src % 4 < 2) ≠ (t = .F))) ⟨9, Status.counterOwner, src % 4, 0, src % 4⟩
  else needEntry k t src srcKind ++ (if entryOk k t src srcKind then needRegion d g pr lc (k.word src) false size 16 else [])) ++
  (if op = 4 ∨ op = 6 then when' (dst != 0x3FFF) ⟨8, Status.badField, dst, 0, 0⟩
  else needEntry k t dst dstKind ++
    (if entryOk k t dst dstKind then needRegion d g pr lc (k.word dst) true (if op = 5 then 512 else size) 16 else [])) ++
  when' (decide (op = 4 ∧ (len = 0 ∨ len > 64))) ⟨8, Status.badField, len, 0, 0⟩ ++
  (if tgtUsed then
    needEntry k t tg [5] ++
    (if entryOk k t tg [5] then
      when' ((x.isLocal && x.dev != 0) ||
        (if x.noteEn then x.noteAmt == 0 || (x.noteCredit && decide (x.noteCtr ≥ 64))
         else x.noteCredit || x.noteCtr != 0 || x.noteAmt != 0) ||
        (op != 4 && x.queue != 0) ||
        (decide (op ≤ 2) && !x.noteEn && (x.isLocal || x.dev != 0 || x.core != 0))) ⟨8, Status.badField, 0, 0, 0⟩ ++
      (if op = 3 ∨ op = 4 ∨ x.noteEn = true then needDest f d g x.isLocal x.dev x.core else [])
    else [])
  else [])

/-- SYNC (R156, R157, R195). -/
def checkSync (f : Fuses) (d : Dev) (g : Nat) (k : Core) (t : Thr) (w : Nat) : List Viol :=
  let op := skOp w
  let th := k.th t
  if op = 1 then
    when' (decide (bits w 127 88 ≠ 0)) ⟨4, Status.reservedBits, 0, 0, 0⟩ ++
    when' (bit w 87 && decide (bits w 86 80 ≥ 64)) ⟨8, Status.badField, bits w 86 80, 0, 0⟩ ++
    needOwner t (bit w 87) (bits w 86 80)
  else if op = 2 then
    when' (decide (bits w 127 112 ≠ 0)) ⟨4, Status.reservedBits, 0, 0, 0⟩ ++
    when' (decide (bits w 79 64 = 0) || (bit w 87 && decide (bits w 86 80 ≥ 64)) || (bit w 95 && decide (bits w 111 96 ≠ 0)))
      ⟨8, Status.badField, 0, 0, 0⟩ ++
    needDest f d g (bit w 95) (bits w 111 96) (bits w 94 88)
  else if op = 3 then
    when' (decide (bits w 127 122 ≠ 0)) ⟨4, Status.reservedBits, 0, 0, 0⟩ ++
    when' (decide (bits w 79 64 ≥ obj f d (0x7000 + g) 0x0C))
      ⟨8, Status.badField, bits w 79 64, obj f d (0x7000 + g) 0x0C, 0⟩ ++
    when' (decide (bits w 95 80 = 0)) ⟨8, Status.badField, 0, 0, 0⟩ ++
    when' (th.loops.any (fun l => l.level == bits w 97 96)) ⟨12, Status.loopLevel, bits w 97 96, 0, 0⟩
  else when' (decide (bits w 127 64 ≠ 0)) ⟨4, Status.reservedBits, 0, 0, 0⟩

/-- CTRL (R158 to R162). -/
def checkCtrl (k : Core) (t : Thr) (w : Nat) : List Viol :=
  let op := skOp w
  let th := k.th t
  let x := th.pc
  let (lo, hi) := k.image t
  if op = 0 then
    let e := bits w 103 90
    let inside := decide (x < e ∧ lo ≤ e ∧ e < hi)
    let we := k.word e
    when' (decide (bits w 127 104 ≠ 0)) ⟨4, Status.reservedBits, 0, 0, 0⟩ ++
    when' (!inside) ⟨8, Status.badField, e, 0, 0⟩ ++
    when' (th.loops.any (fun l => l.level == bits w 65 64)) ⟨12, Status.loopLevel, bits w 65 64, 0, 0⟩ ++
    when' (th.loops.any (fun l => decide (l.last < e))) ⟨12, Status.loopNest, e, 0, 0⟩ ++
    when' (inside && (skClass we == 15 || (skClass we == 5 && decide (skOp we ≤ 2)))) ⟨12, Status.loopEnd, e, 0, 0⟩
  else if op = 1 then
    let (dist, src, idx) := (bits w 77 64, bits w 80 78, bits w 87 81)
    let tgt := x + 1 + dist
    when' (decide (bits w 127 115 ≠ 0)) ⟨4, Status.reservedBits, 0, 0, 0⟩ ++
    when' (decide (dist = 0 ∨ src > 4 ∨ (src = 4 ∧ (idx ≠ 0 ∨ bits w 89 88 ≠ 0 ∨ bits w 113 90 ≠ 0)) ∨
      (src = 1 ∧ idx ≥ 64) ∨ ((src = 2 ∨ src = 3) ∧ idx > 3)) || (bit w 114 && src != 3)) ⟨8, Status.badField, 0, 0, 0⟩ ++
    when' (decide (tgt > hi) || th.loops.any (fun l => decide (l.last < tgt))) ⟨12, Status.skipRange, tgt, hi, 0⟩
  else when' (decide (bits w 127 64 ≠ 0)) ⟨4, Status.reservedBits, 0, 0, 0⟩

/-- CODE (R164, R254, R256). -/
def checkCode (f : Fuses) (d : Dev) (g : Nat) (k : Core) (t : Thr) (w : Nat) : List Viol :=
  let lc := (k.th t).lc
  let op := skOp w
  let (src, dst, n) := (bits w 77 64, bits w 91 78, bits w 107 92)
  let pr := permitted f d t (some (bit w 124))
  let reg := fun (e : Nat) (wr : Bool) (sz : Nat) =>
    needEntry k t e [0, 1] ++ (if entryOk k t e [0, 1] then needRegion d g pr lc (k.word e) wr sz 16 else [])
  when' (decide (bits w 127 125 ≠ 0)) ⟨4, Status.reservedBits, 0, 0, 0⟩ ++
  when' (op == 2 && bits w 123 108 != 0) ⟨8, Status.badField, bits w 123 108, 0, 0⟩ ++
  reg src false (if op = 2 then codedMax n else 4096 * n) ++
  (if op = 0 then when' (dst != 0x3FFF) ⟨8, Status.badField, dst, 0, 0⟩
   else reg dst true (if op = 2 then 4096 * n else codedMax n) ++ reg (dst + 1) true 16 ++
    (if op = 2 then reg (dst + 2) true (16 * max 1 (ceilDiv n 128)) else []))

/-- SYS (R165). -/
def checkSys (f : Fuses) (d : Dev) (k : Core) (t : Thr) (w : Nat) : List Viol :=
  let op := skOp w
  let top := if op = 1 then bits w 127 96 else if op = 2 then bits w 127 80 else if op = 3 then bits w 127 78
    else if op = 4 then bits w 127 68 else bits w 127 64
  when' (decide (top ≠ 0)) ⟨4, Status.reservedBits, 0, 0, 0⟩ ++
  (if op = 3 then
    needEntry k t (bits w 77 64) [0] ++
    (if entryOk k t (bits w 77 64) [0] then
      needPlate (permitted f d t none) (paddr (k.word (bits w 77 64)) (k.th t).lc) 8 16 else [])
   else [])

/-- Defined operations of each class (R144 to R165). -/
def opDefined (w : Nat) : Bool :=
  let op := skOp w
  match skClass w with
  | 0 => op == 0
  | 1 => op == 0 && (vecSources (bits w 125 120)).isSome
  | 2 => decide (op ≤ 1)
  | 3 => decide (op ≤ 6)
  | 4 => decide (op ≤ 5)
  | 5 => decide (op ≤ 3)
  | 6 => decide (op ≤ 5)
  | 7 => decide (op ≤ 2)
  | _ => decide (op ≤ 4)

/-- The class is open to the thread (R111). -/
def classOpen (t : Thr) (cls : Nat) : Bool :=
  match t with
  | .F => cls != 6
  | .B => !(cls == 0 || cls == 2 || cls == 7)

/-! ## The check of a COLL stroke (R325 to R329) -/

/-- The operand buffer an entry names, with the plane that follows it. -/
def collBuf (k : Core) (t : Thr) (e : Nat) (blk : Bool) : CollBuf :=
  let lc := (k.th t).lc
  { mem := isEaddr (k.word e), addr := (anyAddr (k.word e) lc).toNat,
    sadr := if blk then (anyAddr (k.word (e + 1)) lc).toNat else 0 }

/-- The formats a reduction writes (R327). -/
def reduceOut (x : Fmt) : Bool := x ∈ [Fmt.ap, .f32, .f16, .b16, .f8e5, .f8e4, .bs8]

/-- Bytes of the scale plane of a format. -/
def scaleBytes (x : Fmt) (n : Nat) : Nat := if x.isBlock then n / 32 else 0

/-- One operand of a COLL stroke: its entries, its kind, alignment, range and window (R141, R143, R328, R329). -/
def checkCollBuf (f : Fuses) (d : Dev) (g : Nat) (k : Core) (t : Thr) (c : Nat) (lo e n : Nat) (x : Fmt) (wr : Bool) : List Viol :=
  let lc := (k.th t).lc
  let (_, ex, l) := partEnds f d
  let part := fun (i m : Nat) =>
    needEntry k t i [0, 1] ++
    (if entryOk k t i [0, 1] then
      when' (decide (c > 1) && !isEaddr (k.word i)) ⟨8, Status.badField, i, 0, 0⟩ ++
      (if isEaddr (k.word i) then needMem d g wr (eaddr (k.word i) lc) m
       else needPlate (max lo ex, l) (paddr (k.word i) lc) m 16)
     else [])
  part e (planeBytes x.width n) ++ (if x.isBlock then part (e + 1) (n / 32) else [])

/-- The format rules of R327 and the divisibility of COUNT. -/
def checkCollFmt (op acc icode ocode rc count : Nat) : List Viol :=
  let i := fmtOf icode
  let o := fmtOf ocode
  let red := decide (op = 1 ∨ op = 2)
  (if red then
    (if acc = 1 then needFmt icode (fun x => x == .ap)
     else needFmt icode (fun x => x ∈ [Fmt.f8e5, .f8e4, .i8, .bs8, .bi8])) ++ needFmt ocode reduceOut
   else needFmt icode (fun x => x != .s32) ++ needFmt ocode (fun x => x == i)) ++ needRc rc ++
  when' (if red then decide (acc = 0 ∨ acc = 3) else decide (acc ≠ 0)) ⟨8, Status.badField, 0, 0, 0⟩ ++
  when' ((!red || o == .ap) && rc != 0) ⟨8, Status.badField, rc, 0, 0⟩ ++
  when' (((i.isBlock || o.isBlock) && count % 32 != 0) || !packs i count || !packs o count) ⟨8, Status.badField, count, 0, 0⟩

/-- The group is formed, owned by the context and holds the core (R325). -/
def groupUsable (f : Fuses) (d : Dev) (ctx g c : Nat) : Bool :=
  let x := groupDesc f d g
  let s := (d.group g).state
  (s == 1 || s == 2) && x.ctx == ctx && x.cores.testBit c && (ringOf f d g c).isSome

/-- The check of a COLL stroke: RESERVED_BITS to GROUP_NOT_FORMED (R163, R166, R325 to R329). -/
def checkCollStroke (f : Fuses) (d : Dev) (ctx c : Nat) (k : Core) (t : Thr) (w : Nat) : List Viol :=
  let op := skOp w
  let g := bits w 75 64
  let cfg := bits w 89 76
  let x := groupDesc f d g
  when' (decide (bits w 127 98 ≠ 0)) ⟨4, Status.reservedBits, 0, 0, 0⟩ ++
  when' (!bit w 97 && decide (bits w 96 90 ≠ 0)) ⟨8, Status.badField, bits w 96 90, 0, 0⟩ ++
  (if op = 5 then when' (cfg != 0x3FFF || bits w 97 90 != 0) ⟨8, Status.badField, cfg, 0, 0⟩
   else
    needEntry k t cfg [6] ++
    (if entryOk k t cfg [6] then
      let h := k.word cfg
      let count := bits h 75 36
      let (icode, ocode, rc, acc, n2) := (bits h 79 76, bits h 83 80, bits h 86 84, bits h 88 87, bits h 93 89)
      let lo := (partEnds f d).2.1 + 2 * 2 ^ n2 * (if x.bidir then 2 else 1)
      checkCollFmt op acc icode ocode rc count ++
      when' (decide (n2 < 12 ∨ n2 > 22)) ⟨8, Status.badField, n2, 0, 0⟩ ++
      when' (decide (lo > (partEnds f d).2.2)) ⟨13, Status.plateRange, lo, (partEnds f d).2.2 - 1, 0⟩ ++
      checkCollBuf f d ctx k t x.subs lo (bits h 21 8) (count * (if op = 1 ∨ op = 3 then x.ranks else 1)) (fmtOf icode) false ++
      checkCollBuf f d ctx k t x.subs lo (bits h 35 22) (count * (if op = 0 ∨ op = 3 then x.ranks else 1)) (fmtOf ocode) true
     else [])) ++
  when' (!groupUsable f d ctx g c) ⟨15, Status.groupNotFormed, g, 0, 0⟩

/-- The check of the stroke a thread comes to (R166): the violation that decides, if any. -/
def checkStroke (f : Fuses) (d : Dev) (c : Nat) (t : Thr) : Option Viol :=
  let k := d.core c
  let th := k.th t
  let w := k.word th.pc
  let g := (ctxOf d c).getD 4096
  let cls := skClass w
  if cls ≥ 9 then some ⟨1, Status.badClass, 0, 0, 0⟩
  else if classOpen t cls = false then some ⟨2, Status.threadClass, 0, 0, 0⟩
  else if opDefined w = false then some ⟨3, Status.badOp, 0, 0, 0⟩
  else
    firstViol (when' (decide (bits w 31 30 ≠ 0)) ⟨4, Status.reservedBits, 0, 0, 0⟩ ++
      when' (decide ((skTamt w = 0 ∧ skTctr w ≠ 0) ∨ (skCamt w = 0 ∧ skCctr w ≠ 0))) ⟨8, Status.badField, 0, 0, 0⟩ ++
      when' (decide (cls = 4 ∨ cls = 5 ∨ cls = 8) && decide (bits w 29 29 ≠ 0 ∨ bits w 28 21 ≠ 0)) ⟨8, Status.badField, 0, 0, 0⟩ ++
      sigFields (bit w 29) (bit w 21) (bits w 28 22) ++
      (if skTamt w = 0 then [] else needOwner t false (skTctr w)) ++
      (if skCamt w = 0 then [] else needOwner t true (skCctr w)) ++
      (match cls with
        | 0 => checkMma f d k t w
        | 1 => checkVec f d k t w
        | 2 => checkUpd f d k t w
        | 3 => checkMove f d g k t w
        | 4 => checkSync f d g k t w
        | 5 => checkCtrl k t w
        | 6 => checkCollStroke f d g c k t w
        | 7 => checkCode f d g k t w
        | _ => checkSys f d k t w))

/-- A thread comes to its next stroke (R166): RUN_OFF past the image end, a fault where the check fails, and
otherwise RUN.  R132 offers STORE as a RESOURCE and no rule says which fault carries it; RUN_OFF records none (DESIGN CHOICE,
log entry 143). -/
def arrive (f : Fuses) (d : Dev) (c : Nat) (t : Thr) : Dev :=
  let k := d.core c
  let th := k.th t
  if th.pc ≥ (k.image t).2 then
    faultThread f d c t { status := Status.runOff, source := srcOf t, stroke := th.pc }
  else match checkStroke f d c t with
    | some v =>
      faultThread f d c t
        { status := v.status, source := srcOf t, resource := violResource v, stroke := th.pc, index := v.index,
          requested := v.requested, limit := v.limit }
    | none => d.setCore c (k.setTh t { th with state := .run, recheck := false })

/-! ## Issue (R115, R123, R159) -/

/-- The token and credit waits of a stroke hold (R115, R137). -/
def waitsHold (k : Core) (w : Nat) : Bool :=
  (skTamt w == 0 || decide (skTamt w ≤ SMap.get 0 k.tokens (skTctr w))) &&
  (skCamt w == 0 || decide (skCamt w ≤ SMap.get 0 k.credits (skCctr w)))

/-- Consume the waits of the stroke that issues (R115). -/
def consume (k : Core) (w : Nat) : Core :=
  let k := if skTamt w = 0 then k
    else { k with tokens := SMap.set 0 k.tokens (skTctr w) (SMap.get 0 k.tokens (skTctr w) - skTamt w) }
  if skCamt w = 0 then k
  else { k with credits := SMap.set 0 k.credits (skCctr w) (SMap.get 0 k.credits (skCctr w) - skCamt w) }

/-- The step of the active levels that end at `e` (R159), newest first: the next index and what stays active. -/
def loopStep (e next : Nat) (lc : List Nat) : List Loop → Nat × List Nat × List Loop
  | [] => (next, lc, [])
  | l :: t =>
    if l.last ≠ e then
      let (n, lc', t') := loopStep e next lc t
      (n, lc', l :: t')
    else if lcOf lc l.level + 1 < l.count then (l.start, lc.set l.level (lcOf lc l.level + 1), l :: t)
    else loopStep e next (lc.set l.level 0) t

/-- Control passes from the stroke at the thread's index to `next`, after the loop levels that end at `e` have
stepped (R159). -/
def advanceThread (th : Thread) (e next : Nat) : Thread :=
  let (n, lc, ls) := loopStep e next th.lc th.loops
  { th with pc := n, lc := lc, loops := ls }

/-- What a stroke's issue does to its thread and counters: it consumes its waits and is counted, and control
passes to the next stroke (R115, R134, R159). -/
def issueCore (k : Core) (t : Thr) (w e next : Nat) : Core :=
  let k := consume k w
  k.setTh t (advanceThread (k.th t) e next)

/-- The thread may issue: it is RUN or WAIT and no CLAIM holds it. -/
def Thread.ready (x : Thread) : Bool :=
  (match x.state with | .run | .wait => true | _ => false) && !x.claiming

/-- After an issue: the stop that waits for this boundary (R114), or the check of the next stroke (R166).  A thread
that has halted, has faulted or is held by a CLAIM goes no further. -/
def boundary (f : Fuses) (d : Dev) (c : Nat) (t : Thr) : Dev :=
  let k := d.core c
  let th := k.th t
  if th.ready = false then d
  else if th.stopping then
    d.setCore c (k.setTh t { th with state := .stopped, stopping := false })
  else arrive f d c t

/-- ISSUE_F or ISSUE_B gains 1 (R134). -/
def countIssue (d : Dev) (c : Nat) (t : Thr) : Dev :=
  d.bump (cIdx c) (match t with | .F => 0x1B | .B => 0x1C) 64 1

/-- A stroke issues: it consumes its waits, its effect `g` takes place, and control passes to `next`, the loop levels
that end at `e` having stepped (R115, R123, R159). -/
def issueAt (f : Fuses) (d : Dev) (c : Nat) (t : Thr) (w e next : Nat) (g : Dev → Dev) : Dev :=
  boundary f (g (countIssue (d.setCore c (issueCore (d.core c) t w e next)) c t)) c t

/-- A stroke issues and control passes to `next`. -/
def issueTo (f : Fuses) (d : Dev) (c : Nat) (t : Thr) (w next : Nat) (g : Dev → Dev) : Dev :=
  issueAt f d c t w ((d.core c).th t).pc next g

/-- A stroke issues and control passes to the stroke after it. -/
def issue (f : Fuses) (d : Dev) (c : Nat) (t : Thr) (w : Nat) (g : Dev → Dev) : Dev :=
  issueTo f d c t w (((d.core c).th t).pc + 1) g

/-- The thread's next stroke waits (R113). -/
def waitThread (d : Dev) (c : Nat) (t : Thr) : Dev :=
  let k := d.core c
  d.setCore c (k.setTh t { k.th t with state := .wait })

/-- Whether a stroke row finds its stroke: the thread may issue, the core is in service, and the thread's next
stroke is the one the row names. -/
def strokeHere (d : Dev) (c : Nat) (t : Thr) (sel : Nat → Bool) : Bool :=
  let k := d.core c
  let th := k.th t
  th.ready && !withdrawn d c && decide (th.pc < (k.image t).2) && sel (k.word th.pc)

/-- The shape of every stroke row: the row stands for the issue of the thread's next stroke, the one `sel` knows.  A
thread that cannot issue, or whose next stroke is another, is left alone.  A stroke checked before an UNMAP is
checked again first (R465).  A stroke whose waits do not hold or whose unit cannot take it waits (R123); otherwise
`go` is its issue. -/
def strokeGo (f : Fuses) (d : Dev) (c : Nat) (t : Thr) (sel : Nat → Bool) (unit : Nat → Bool) (go : Nat → Dev) : Dev :=
  let k := d.core c
  let th := k.th t
  let w := k.word th.pc
  if strokeHere d c t sel = false then d
  else if th.recheck && (checkStroke f d c t).isSome then arrive f d c t
  else if waitsHold k w && unit w then go w
  else waitThread d c t

/-- A stroke row whose stroke has the effect `g` and passes control to the next stroke. -/
def strokeRow (f : Fuses) (d : Dev) (c : Nat) (t : Thr) (sel : Nat → Bool) (unit : Nat → Bool) (g : Nat → Dev → Dev) : Dev :=
  strokeGo f d c t sel unit (fun w => issue f d c t w (g w))

end Sys2Proof.Machine
end

