-- ==== Sys2Proof/Machine/Code.lean ====
section
/-! DEFINITION. The bulk codec engines: the CODE strokes, an operation's start and its completion (R164, R254 to
R261), and the reading of codebook entries (R240, R241). -/

namespace Sys2Proof.Machine

/-- The codebook a unit reads for a context (R240): an ID at or above BOOK_LIMIT and an entry that is not mapped
are invalid; a poisoned entry is MEM_UE (R224). -/
def readBook (f : Fuses) (d : Dev) (g b : Nat) : Except Nat Book :=
  if b ≥ obj f d (ctxIdx g 0xB010) 1 then .error Status.bookInvalid
  else match ctxRuns d g false (obj f d (ctxIdx g 0xB010) 0 + 256 * b) 256 with
    | none => .error Status.bookInvalid
    | some rs => if (poisonedIn f d rs).isEmpty then checkBook b (runBytes d rs) else .error Status.memUe

/-- Where the entry of a codebook lies in device memory; nowhere for an ID that is not read, at or above BOOK_LIMIT, or for an
entry that is not mapped (R240). -/
def entryRuns (f : Fuses) (d : Dev) (g b : Nat) : List (Nat × Nat) :=
  if b ≥ obj f d (ctxIdx g 0xB010) 1 then []
  else (ctxRuns d g false (obj f d (ctxIdx g 0xB010) 0 + 256 * b) 256).getD []

/-- The tile-cache access of a codebook read. -/
def noteBook (f : Fuses) (d : Dev) (w : Who) (g b : Nat) : Dev := noteRead f d w (entryRuns f d g b)

/-- A codebook's entry can be read now. -/
def entryReady (f : Fuses) (d : Dev) (w : Who) (g b : Nat) : Bool := (entryRuns f d g b).all (runReady f d w)

/-- A region a CODE operation reads or writes: Plate bytes of its core, or runs of device memory. -/
inductive Region where
  | plate (core addr len : Nat)
  | mem (runs : List (Nat × Nat))
  deriving DecidableEq, Repr

/-- The region a CODE operation names; none where the context's pages no longer map it. -/
def codeRegion (d : Dev) (g : Nat) (w mem : Bool) (core a n : Nat) : Option Region :=
  if mem then (ctxRuns d g w a n).map .mem else some (.plate core a n)

/-- The bytes of a region as the engine reads them (R118 for a Plate). -/
def Region.bytes (d : Dev) : Region → List Byte
  | .plate c a n => readBytes (plateView d c .codec) a n
  | .mem rs => runBytes d rs

/-- Cut runs of device memory to a part of their bytes. -/
def subRuns : List (Nat × Nat) → Nat → Nat → List (Nat × Nat)
  | [], _, _ => []
  | (a, n) :: t, o, k =>
    if k = 0 then []
    else if o ≥ n then subRuns t (o - n) k
    else (a + o, min k (n - o)) :: subRuns t 0 (k - (n - o))

/-- The status of a damaged byte range of a region: a poisoned line, or an uncorrectable word (R257). -/
def Region.bad (f : Fuses) (d : Dev) (r : Region) (o n : Nat) : Option Nat :=
  match r with
  | .plate c a _ => if ((d.core c).badWord (a + o) n).isSome then some Status.plateUe else none
  | .mem rs => if (poisonedIn f d (subRuns rs o n)).isEmpty then none else some Status.memUe

/-- The writes of bytes to a part of a region. -/
def Region.put (r : Region) (o : Nat) (l : List Byte) : List OutPatch :=
  match r with
  | .plate c a _ => [⟨false, c, a + o, l⟩]
  | .mem rs => ((subRuns rs o l.length).foldl (fun (p : List OutPatch × List Byte) s =>
      (p.1 ++ [⟨true, 0, s.1, p.2.take s.2⟩], p.2.drop s.2)) ([], l)).1

/-- The reads an operation made of device memory, counted (R222, R224). -/
def noteRegion (f : Fuses) (d : Dev) (w : Who) (r : Region) (n : Nat) : Dev :=
  match r with
  | .plate _ _ _ => d
  | .mem rs => noteRead f d w (subRuns rs 0 n)

/-- The number of the engine a CODE stroke goes to (R164, R254). -/
def codeEngine (f : Fuses) (c w : Nat) : Nat := 2 * f.tileOf c + (if bit w 124 then 1 else 0)

/-- A CODE stroke as its engine takes it, addresses evaluated (R164, R256). -/
def mkCodeOp (k : Core) (c w : Nat) : CodeOp :=
  let th := k.f
  let e := fun i => k.word i
  let at_ := fun i => (anyAddr (e i) th.lc).toNat
  let s := bits w 77 64
  let t := bits w 91 78
  { core := c, stroke := th.pc, op := skOp w, srcMem := isEaddr (e s), src := at_ s, dstMem := isEaddr (e t), dst := at_ t,
    recMem := isEaddr (e (t + 1)), recAt := at_ (t + 1), mapMem := isEaddr (e (t + 2)), mapAt := at_ (t + 2),
    len := bits w 107 92, book := bits w 123 108, sig := skSig w }

/-- A key of an absent engine reads as an idle one. -/
def Dev.engine (d : Dev) (e : Nat) : CodecEngine := SMap.get {} d.codecs e

def Dev.setEngine (d : Dev) (e : Nat) (x : CodecEngine) : Dev := { d with codecs := d.codecs.put e x }

/-- The engine can hold one more operation (R254). -/
def CodecEngine.accepts (x : CodecEngine) : Bool :=
  decide (x.queue.length + (match x.run with | some _ => 1 | none => 0) < 16)

/-- The rows BUILD, ENCODE and DECODE: the issue of the F thread's next stroke, a CODE stroke of operation `op`
(R123, R164, R254). -/
def codeRow (op : Nat) (c : Nat) (f : Fuses) (d : Dev) : Dev :=
  let k := d.core c
  strokeRow f d c .F (fun w => skClass w == 7 && skOp w == op)
    (fun w => gateOpen d (f.tileOf c) && (d.engine (codeEngine f c w)).accepts)
    (fun w d' =>
      let x := d'.engine (codeEngine f c w)
      d'.setEngine (codeEngine f c w) { x with queue := x.queue ++ [{ mkCodeOp k c w with stamp := d.stampNow }] })

/-- The 16-byte completion record (R256). -/
def codeRecord (status outlen damaged first : Nat) : List Byte :=
  leBytes 2 status ++ zeros 2 ++ leBytes 4 outlen ++ leBytes 4 damaged ++ leBytes 4 first

/-- The damage map of R256. -/
def damageMap (ss : List (Option (List Byte))) : List Byte :=
  let v := (ss.zipIdx).foldl (fun a p => if p.1.isNone then a + 2 ^ p.2 else a) 0
  leBytes (16 * max 1 (ceilDiv ss.length 128)) v

/-- The first sector of a source that holds damage, with the status (R257). -/
def firstBad (f : Fuses) (d : Dev) (r : Region) (n : Nat) : Option (Nat × Nat) :=
  (List.range n).foldl (fun a i => match a with
    | some x => some x
    | none => (r.bad f d (4096 * i) 4096).map (fun s => (i, s))) none

/-- An operation with what it reads of device memory beside its writes: bytes of its source, and codebooks (R240). -/
structure CodeReads where
  run : CodeRun
  src : Nat := 0
  books : List Nat := []
  deriving DecidableEq, Repr

/-- BUILD (R236, R239, R257): the source is read, then the entry's place is known or not (DESIGN CHOICE, log entry 151: of two
faults the source's comes first). -/
def runBuild (f : Fuses) (d : Dev) (g : Nat) (o : CodeOp) (src : Region) : CodeReads :=
  match firstBad f d src o.len with
  | some (i, st) => { run := { op := o, outs := [], fault := st, at_ := i }, src := 4096 * (i + 1) }
  | none =>
    if o.book ≥ obj f d (ctxIdx g 0xB010) 1 then { run := { op := o, outs := [], fault := Status.bookInvalid }, src := 4096 * o.len }
    else match ctxRuns d g true (obj f d (ctxIdx g 0xB010) 0 + 256 * o.book) 256 with
      | none => { run := { op := o, outs := [], fault := Status.window }, src := 4096 * o.len }
      | some rs =>
        let e := bookEntry o.book (4096 * o.len) (buildLengths (histogram (src.bytes d)))
        { run := { op := o, outs := (Region.mem rs).put 0 e, stats := [(0, 1)] }, src := 4096 * o.len }

/-- ENCODE (R247, R256, R257): the codebook entry is read first (R240); the sectors before a damaged source sector have been
written and count, the index has not. -/
def runEncode (f : Fuses) (d : Dev) (g : Nat) (o : CodeOp) (src dst rcd : Region) : CodeReads :=
  match readBook f d g o.book with
  | .error st => { run := { op := o, outs := [], fault := st }, books := [o.book] }
  | .ok bk =>
    match firstBad f d src o.len with
    | some (i, st) =>
      let ss := ((pieces 4096 i (src.bytes d)).zipIdx).map (fun p => encodeSector p.2 o.book bk p.1)
      { run := { op := o, outs := dst.put (planeX o.len) (ss.map Prod.fst).flatten, fault := st, at_ := i,
                 stats := [(1, i), (2, (ss.filter Prod.snd).length)] },
        src := 4096 * (i + 1), books := [o.book] }
    | none =>
      let (pl, raw) := encodePlane 0 o.book bk (src.bytes d)
      let x := planeX o.len
      { run := { op := o, outs := dst.put x (pl.drop x) ++ dst.put 0 (pl.take x) ++ rcd.put 0 (codeRecord 0 pl.length 0 0xFFFFFFFF),
                 stats := [(1, o.len), (2, raw)] },
        src := 4096 * o.len, books := [o.book] }

/-- DECODE (R256 to R258). -/
def runDecode (f : Fuses) (d : Dev) (g : Nat) (o : CodeOp) (src dst rcd map : Region) : CodeReads :=
  let r := decodePlane (readBook f d g) (src.bad f d) (src.bytes d) o.len
  let ds := r.sectors.filter Option.isNone
  let good := r.sectors.length - ds.length
  let first := match (r.sectors.zipIdx).find? (fun p => p.1.isNone) with | some p => p.2 | none => 0xFFFFFFFF
  let outs := ((r.sectors.zipIdx).map (fun p => match p.1 with | some b => dst.put (4096 * p.2) b | none => [])).flatten ++
    map.put 0 (damageMap r.sectors) ++ rcd.put 0 (codeRecord r.status (4096 * good) ds.length first)
  let stats := [(3, good), (4, ds.length), (5, if r.indexFail then 1 else 0), (6, r.found), (7, r.falseMarks)]
  { run := { op := o, outs := outs, stats := stats }, src := r.span, books := r.books }

/-- What an operation does, from its regions (R256 to R258). -/
def runCode (f : Fuses) (d : Dev) (g : Nat) (o : CodeOp) : CodeReads :=
  let unmapped : CodeReads := { run := { op := o, outs := [], fault := Status.window } }
  let n := o.len
  let src := codeRegion d g false o.srcMem o.core o.src (if o.op = 2 then codedMax n else 4096 * n)
  if o.op = 0 then
    match src with
    | some s => runBuild f d g o s
    | none => unmapped
  else
    let dst := codeRegion d g true o.dstMem o.core o.dst (if o.op = 2 then 4096 * n else codedMax n)
    let rcd := codeRegion d g true o.recMem o.core o.recAt 16
    if o.op = 1 then
      match src, dst, rcd with
      | some s, some t, some r => runEncode f d g o s t r
      | _, _, _ => unmapped
    else
      match src, dst, rcd, codeRegion d g true o.mapMem o.core o.mapAt (16 * max 1 (ceilDiv n 128)) with
      | some s, some t, some r, some m => runDecode f d g o s t r m
      | _, _, _, _ => unmapped

/-- The Plate regions a CODE operation reads. -/
def CodeOp.reads (o : CodeOp) : List (Nat × Nat) :=
  if o.srcMem then [] else [(o.src, if o.op = 2 then codedMax o.len else 4096 * o.len)]

/-- Who a bulk codec engine is when it accesses device memory for an operation: engine 0 is compute's and engine 1 Intaglio's
(R30, R513). -/
def engineWho (t e stamp : Nat) : Who := { tile := t, act := if e = 0 then 0 else 3, stamp := stamp }

/-- CODEC_OP_START (R240, R254): engine `e` of a tile takes its oldest operation and reads its source and the codebook entries it
names, once every line of them can be served.  A segment of the Intaglio engine is decoded by SEGMENT_COMPLETE. -/
def codecOpStart (t e : Nat) (u : Upset) (f : Fuses) (d : Dev) : Dev :=
  let key := 2 * t + e
  let x := d.engine key
  let out := unitInReset d (0x3000 + 256 * t + e) || unitInReset d (0x9000 + 256 * t)
  match x.run, x.queue with
  | none, o :: rest =>
   if o.seg.isSome then (if out then d else d.setEngine key { x with queue := rest, run := some { op := o, outs := [] } }) else
    let g := (ctxOf d o.core).getD 4096
    let w := engineWho t e o.stamp
    let at_ := codeRegion d g false o.srcMem o.core o.src (if o.op = 2 then codedMax o.len else 4096 * o.len)
    let d1 := meetUpset d o.core u o.reads
    let r := runCode f d1 g o
    let go := (match at_ with | some (.mem rs) => (subRuns rs 0 r.src).all (runReady f d w) | _ => true) && r.books.all (entryReady f d w g)
    if out || !go then d else
    let d := r.books.foldl (fun d b => noteBook f d w g b) d1
    let d := match at_ with
      | some s => noteRegion f d w s r.src
      | none => d
    spendFree (d.setEngine key { x with queue := rest, run := some r.run }) true
  | _, _ => d

/-- Apply a write of an operation. -/
def applyOut (f : Fuses) (w : Who) (d : Dev) (o : OutPatch) : Dev :=
  if o.mem then writeRun f d w o.addr o.data else d.modCore o.core (fun k => k.patch ⟨o.addr, o.data⟩)

/-- The fault of an operation (R257): the issuing thread faults with RESOURCE 11, or 6 for WINDOW. -/
def codeFault (f : Fuses) (d : Dev) (r : CodeRun) : Dev :=
  if r.fault = Status.plateUe then
    plateUeFault f d r.op.core .F r.op.stroke (match (d.core r.op.core).badIn r.op.reads with | some a => a | none => r.at_) 11
  else
    faultThread f d r.op.core .F
      { status := r.fault, source := 0, resource := if r.fault = Status.window then 6 else 11, stroke := r.op.stroke }

/-- CODEC_OP_COMPLETE (R256, R257, R261): the outputs and the record are written, the engine's counters gain, and the
stroke signals; a fault writes no record and sends no signal, and the sectors an ENCODE wrote before it count. -/
def codecOpComplete (t e : Nat) (f : Fuses) (d : Dev) : Dev :=
  let key := 2 * t + e
  let x := d.engine key
  match x.run with
  | none => d
  | some r =>
   if r.op.seg.isSome then d else
   if (r.outs.filter (fun o => o.mem)).all (fun o => writeReady f d (engineWho t e r.op.stamp) (o.addr, o.data.length)) = false then d else
    let d := (d.setEngine key { x with run := none }).moved (288 + key) r.op.len
    let d := r.outs.foldl (applyOut f (engineWho t e r.op.stamp)) d
    let d := r.stats.foldl (fun d p => d.bump (0xB020 + t) (16 * e + p.1) (if p.1 = 0 ∨ p.1 = 5 then 32 else 64) p.2) d
    if r.fault ≠ 0 then codeFault f d r
    else signal f d r.op.core r.op.sig r.op.stroke

end Sys2Proof.Machine
end

