-- ==== Sys2Proof/Machine/Flags.lean ====
section
/-! DEFINITION. Thread flags, the events a conversion counts, and the noise generator of stochastic rounding
(R75, R162, R183, R184). -/

namespace Sys2Proof.Machine

/-! ## Thread flags (R162) -/

def Thread.setClaimOut (x : Thread) : Thread := { x with flags := { x.flags with claimOut := true } }
def Thread.setProdErr (x : Thread) : Thread := { x with flags := { x.flags with prodErr := true } }
def Thread.setEpochNew (x : Thread) : Thread := { x with flags := { x.flags with epochNew := true } }
def Thread.setEmpty (x : Thread) : Thread := { x with flags := { x.flags with empty := true } }

/-- The flags as the 4 bits FLAGCLR names (R162). -/
def TFlags.toNat (x : TFlags) : Nat :=
  (if x.claimOut then 1 else 0) + (if x.prodErr then 2 else 0) + (if x.epochNew then 4 else 0) + (if x.empty then 8 else 0)

/-- Clear the flags a mask names (R165). -/
def TFlags.clear (x : TFlags) (m : Nat) : TFlags :=
  { claimOut := x.claimOut && !m.testBit 0, prodErr := x.prodErr && !m.testBit 1,
    epochNew := x.epochNew && !m.testBit 2, empty := x.empty && !m.testBit 3 }

/-! ## The noise generator (R182 to R184) -/

def rotl32 (x k : Nat) : Nat := ((x <<< k) % 2 ^ 32) ||| (x >>> (32 - k))

/-- One mixing step (R184). -/
def noiseMix (h w : Nat) : Nat := (rotl32 ((h ^^^ w) % 2 ^ 32) 11 + 0x9E3779B9) % 2 ^ 32

/-- The key state KS (R184). -/
def noiseKey (seed dom stream plane : Nat) : Nat :=
  noiseMix (noiseMix (seed % 2 ^ 32) (seed / 2 ^ 32)) (stream + dom * 2 ^ 16 + plane * 2 ^ 20)

/-- The 16-bit noise of coordinates A and B under a key state (R184). -/
def noiseAt (ks a b : Nat) : Nat :=
  let h := noiseMix ks (a % 2 ^ 32)
  let h := noiseMix h (a / 2 ^ 32 % 2 ^ 16)
  let h := noiseMix h (b % 2 ^ 32)
  let h := noiseMix h (b / 2 ^ 32 % 2 ^ 16)
  let h := h ^^^ (h >>> 16)
  let h := (h + (h <<< 5)) % 2 ^ 32
  let h := h ^^^ (h >>> 13)
  h % 2 ^ 16

/-- NOISE_SEED (R182). -/
def noiseSeed (f : Fuses) (d : Dev) : Nat := obj f d 0xC010 0

/-! ## Writing values with the events of R75 -/

/-- A value to be written, and whether it is a NaN formed from operands none of which is NaN (R75). -/
structure Val where
  x : Num
  fresh : Bool := false
  deriving DecidableEq, Repr

/-- A value that is no new NaN. -/
abbrev Val.of (x : Num) : Val := ⟨x, false⟩

/-- Convert a value to a plain format; a NaN formed here counts once (R75; log entry 20). -/
def writePlain (f : Fmt) (rc : RC) (n16 : Nat) (v : Val) : Nat × Ev :=
  let (b, e) := toPlain f rc n16 v.x
  (b, if v.fresh && v.x.isNan && decide (e.nan = 0) then { e with nan := 1 } else e)

/-- Encode a block (R73), NaNs formed here counting (R75). -/
def writeBlock (f : Fmt) (rc : RC) (noise : List Nat) (vs : List Val) : Nat × List Nat × Ev :=
  let (s, es, e) := encodeBlock f rc noise (vs.map Val.x)
  (s, es, { e with nan := e.nan + (vs.filter (fun v => v.fresh && v.x.isNan)).length })

/-- Blocks of thirty-two one after another: the scale bytes, the element codes and the events.  The fuel is the
number of blocks. -/
def writeBlocks (f : Fmt) (rc : RC) : Nat → List Nat → List Val → List Nat × List Nat × Ev
  | 0, _, _ => ([], [], {})
  | n + 1, ns, vs =>
    let (s, es, e) := writeBlock f rc (ns.take 32) (vs.take 32)
    let (ss, es', e') := writeBlocks f rc n (ns.drop 32) (vs.drop 32)
    (s :: ss, es ++ es', e.add e')

/-- A run of values written to a plain format: the codes and the events. -/
def writePlains (f : Fmt) (rc : RC) : List Nat → List Val → List Nat × Ev
  | _, [] => ([], {})
  | ns, v :: t =>
    let (b, e) := writePlain f rc (ns.headD 0) v
    let (bs, e') := writePlains f rc ns.tail t
    (b :: bs, e.add e')

/-- The planes a run of values makes in a format: the element plane's bytes, the plane that follows it (scale
bytes, or the L plane of S32), and the events. -/
def writePlanes (f : Fmt) (rc : RC) (ns : List Nat) (vs : List Val) : List Byte × List Byte × Ev :=
  if f.isBlock then
    let (ss, es, e) := writeBlocks f.elem rc (ceilDiv vs.length 32) ns vs
    (packPlane f.width es, ss.map (BitVec.ofNat 8), e)
  else if f = .s32 then
    let (bs, e) := writePlains .f32 rc ns vs
    (packPlane 16 (bs.map (· / 2 ^ 16)), packPlane 16 (bs.map (· % 2 ^ 16)), e)
  else
    let (bs, e) := writePlains f rc ns vs
    (packPlane f.width bs, [], e)

/-- The values of `n` elements from an element plane and the plane that follows it: block scales are applied
(R57); S32 is read from its H plane alone, or joined with its L plane where `full` asks (R53). -/
def readVals (f : Fmt) (full : Bool) (n : Nat) (e s : List Byte) : List Num :=
  let es := unpackPlane f.width n e
  if f.isBlock then
    (es.zipIdx).map (fun p => decodeBlockElem f ((slice s (p.2 / 32) 1).headD 0#8).toNat p.1)
  else if f = .s32 then
    if full then (es.zip (unpackPlane 16 n s)).map (fun p => decodeElem .s32 (p.1 * 2 ^ 16 + p.2))
    else es.map (decodeElem .b16)
  else es.map (decodeElem f)

end Sys2Proof.Machine
end

