-- ==== Sys2Proof/Machine/VecFn.lean ====
section
/-! DEFINITION. What the vector unit computes: the element functions, the four correctly rounded transcendental
functions, and the reductions (R148, R170 to R177). -/

namespace Sys2Proof.Machine

/-! ## Transcendental functions (R173) -/

/-- The binary places the series below are summed to (log entry 21). -/
abbrev prec : Nat := 384

/-- The guard places dropped from a sum before its bits are used. -/
abbrev guardBits : Nat := 32

/-- ln 2 × 2^prec by the series of 1 / (k 2^k), floor by floor. -/
def ln2Fix : Nat := (List.range prec).foldl (fun a i => a + 2 ^ prec / ((i + 1) * 2 ^ (i + 1))) 0

/-- exp(t) × 2^prec for t in [0, 1) given × 2^prec: the fuel is the number of terms. -/
def expFix : Nat → Nat → Nat → Nat → Nat
  | 0, _, _, _ => 0
  | n + 1, k, term, t => term + expFix n (k + 1) (term * t / ((k + 1) * 2 ^ prec)) t

/-- atanh(z) × 2^prec for 0 ≤ z ≤ 1/3 given × 2^prec. -/
def atanhFix (z : Nat) : Nat :=
  let z2 := z * z / 2 ^ prec
  ((List.range 130).foldl (fun (p : Nat × Nat) i => (p.1 + p.2 / (2 * i + 1), p.2 * z2 / 2 ^ prec)) (0, z)).1

/-- The integer square root by bits; the fuel is the number of bits of the root. -/
def isqrt : Nat → Nat → Nat → Nat
  | 0, _, r => r
  | n + 1, m, r => let r' := r + 2 ^ n; isqrt n m (if r' * r' ≤ m then r' else r)

/-- A magnitude known to be no dyadic fraction of few bits: the bits kept, and a set bit below them that marks the
value as inexact. -/
def inexact (neg : Bool) (m : Nat) (e : Int) : Num := .fin neg (2 * (m / 2 ^ guardBits) + 1) (e + guardBits - 1)

/-- 2^x for a finite value (R173).  Results beyond every format's range keep their order and no more. -/
def exp2Num (neg : Bool) (m : Nat) (e : Int) : Num :=
  if m = 0 then .fin false 1 0
  else if exOf m e ≥ 12 then .fin false 1 (if neg then -5000 else 5000)
  else if e ≥ 0 then
    let k : Int := (m * 2 ^ e.toNat : Nat)
    .fin false 1 (if neg then -k else k)
  else
    -- x = ip + f with 0 ≤ f < 1; f = a / 2^sh
    let sh := (-e).toNat
    let v : Int := if neg then -(m : Int) else m
    let ip := v / (2 ^ sh : Nat)
    let a := (v % (2 ^ sh : Nat)).toNat
    if a = 0 then .fin false 1 ip
    else if sh > 300 then
      -- x is nearer an integer than 2^−200: 2^x lies just above 2^ip, or just below 2^(ip+1)
      (if neg then .fin false (2 ^ 300 - 1) (ip + 1 - 300) else .fin false (2 ^ 300 + 1) (ip - 300))
    else inexact false (expFix 90 0 (2 ^ prec) (ln2Fix * a / 2 ^ sh)) (ip - prec)

/-- log2 of a positive value m × 2^e (R173). -/
def log2Num (m : Nat) (e : Int) : Num :=
  let k := Nat.log2 m
  let ex := (k : Int) + e
  let lo := m - 2 ^ k
  if lo = 0 then .ofInt ex
  else
    -- y = m / 2^k in (1, 2); log2 y = 2 atanh((y − 1) / (y + 1)) / ln 2
    let z := (lo * 2 ^ prec) / (m + 2 ^ k)
    let l : Int := ((2 * atanhFix z * 2 ^ prec / ln2Fix : Nat) : Int)
    let v := ex * (2 ^ prec : Nat) + l
    inexact (decide (v < 0)) v.natAbs (-(prec : Int))

/-- 1 / x for a finite nonzero value (R173). -/
def rcpNum (neg : Bool) (m : Nat) (e : Int) : Num :=
  let s := Nat.log2 m + 64
  .fin neg (2 * (2 ^ s / m) + (if 2 ^ s % m = 0 then 0 else 1)) (-e - s - 1)

/-- 1 / √x for a positive value (R173). -/
def rsqrtNum (m : Nat) (e : Int) : Num :=
  -- make the exponent even: x = m' × 2^(2 h)
  let m' := if e % 2 = 0 then m else 2 * m
  let h := if e % 2 = 0 then e / 2 else (e - 1) / 2
  let s := Nat.log2 m' / 2 + 66
  -- floor(2^s / √m') = floor(√(2^(2s) / m'))
  let q := 2 ^ (2 * s) / m'
  let r := isqrt 70 q 0
  .fin false (2 * r + (if r * r * m' = 2 ^ (2 * s) then 0 else 1)) (-h - s - 1)

/-- EXP2, LOG2, RCP, RSQRT of a value, by function code (R173). -/
def transNum (fn : Nat) (x : Num) : Val :=
  if fn = 0x10 then
    match x with
    | .nan => .of .nan
    | .inf n => .of (if n then .fin false 0 0 else .inf false)
    | .fin n m e => .of (exp2Num n m e)
  else if fn = 0x11 then
    match x with
    | .nan => .of .nan
    | .inf n => if n then ⟨.nan, true⟩ else .of (.inf false)
    | .fin n m e => if m = 0 then .of (.inf true) else if n then ⟨.nan, true⟩ else .of (log2Num m e)
  else if fn = 0x12 then
    match x with
    | .nan => .of .nan
    | .inf n => .of (.fin n 0 0)
    | .fin n m e => if m = 0 then .of (.inf n) else .of (rcpNum n m e)
  else
    match x with
    | .nan => .of .nan
    | .inf n => if n then ⟨.nan, true⟩ else .of (.fin false 0 0)
    | .fin n m e => if m = 0 then .of (.inf n) else if n then ⟨.nan, true⟩ else .of (rsqrtNum m e)

/-- Write a transcendental result: a nonzero result below the smallest normal is written as zero and counted
(R174). -/
def writeTrans (f : Fmt) (rc : RC) (n16 : Nat) (v : Val) : Nat × Ev :=
  let (b, e) := writePlain f rc n16 v
  let mag := b % f.signBit
  if mag ≠ 0 ∧ mag < 2 ^ f.fields.2.1 then (b - mag, { e with flush := 1 }) else (b, e)

/-! ## Element functions (R148, R172) -/

/-- Whether one value orders above another for MAX and MIN: +0 is greater than −0 (R172). -/
def numGt (a b : Num) : Bool :=
  match a, b with
  | .fin n1 m1 _, .fin n2 m2 _ => if m1 = 0 ∧ m2 = 0 then !n1 && n2 else Num.lt b a
  | _, _ => Num.lt b a

/-- A result that is a new NaN when it is NaN and none of its operands is (R75). -/
def freshOf (r : Num) (ops : List Num) : Val := ⟨r, r.isNan && !(ops.any Num.isNan)⟩

/-- The exact result of an element-wise function (R170, R172): sources a and b, the old element d, and the scalar. -/
def elemFn (fn : Nat) (a b d s : Num) : Val :=
  if fn = 0 then freshOf (a.add b) [a, b]
  else if fn = 1 then freshOf (a.add b.neg) [a, b]
  else if fn = 2 then freshOf (a.mul b) [a, b]
  else if fn = 3 then freshOf ((a.mul b).add d) [a, b, d]
  else if fn = 4 then (if a.isNan || b.isNan then .of .nan else .of (if numGt b a then b else a))
  else if fn = 5 then (if a.isNan || b.isNan then .of .nan else .of (if numGt a b then b else a))
  else if fn = 6 then .of (match a with | .inf _ => .inf false | .fin _ m e => .fin false m e | .nan => .nan)
  else if fn = 7 then .of a.neg
  else if fn = 8 then .of a
  else if fn = 9 then freshOf (a.add s) [a, s]
  else if fn = 0x0A then freshOf (a.mul s) [a, s]
  else if fn = 0x0B then freshOf ((s.mul a).add b) [a, b, s]
  else if fn = 0x20 then .of (if Num.lt b a then .fin false 1 0 else .fin false 0 0)
  else .of (if d.isZero then b else a)

/-! ## Reductions (R175, R176) -/

/-- An exact value × 2^k truncated towards zero, and whether nonzero bits were lost. -/
def truncAt (neg : Bool) (m : Nat) (e k : Int) : Int × Bool :=
  let x := e + k
  let (v, lost) := if x ≥ 0 then (m * 2 ^ x.toNat, false) else (m >>> (-x).toNat, decide (m % 2 ^ (-x).toNat ≠ 0))
  (if neg then -(v : Int) else v, lost)

/-- The finite part of a reduction: the sum of the finite terms anchored at the largest of them (R175 steps 1 to 4). -/
def sumFinite (ts : List Num) : AP :=
  let (tm, te) := magMax ts
  if tm = 0 then {}
  else
    let an := exOf tm te + 24
    let (w, t) := ts.foldl (fun (p : Int × Bool) x => match x with
      | .fin n m e => let (v, l) := truncAt n m e (126 - an); (p.1 + v, p.2 || l)
      | _ => p) (0, false)
    let (w', o) := windowOf w
    { w := w', e := an, trunc := t, ovf := o }

/-- The AP of a sum of exact terms and the events: the specials combine into the flags (R175). -/
def reduceAP (ts : List Num) : AP × Ev :=
  let fin := sumFinite ts
  let pos := ts.contains (.inf false)
  let ng := ts.contains (.inf true)
  if ts.any Num.isNan then ({ fin with nan := true }, {})
  else if pos && ng then ({ fin with nan := true }, { nan := 1 })
  else (if pos then { fin with inf := true } else if ng then { fin with inf := true, neg := true } else fin, {})

/-- The largest magnitude (R176). -/
def amaxNum (xs : List Num) : Num :=
  if xs.any Num.isNan then .nan
  else if xs.any Num.isInf then .inf false
  else let (m, e) := magMax xs; .fin false m e

/-- The AP sum of one element pair and the event it counts (R177, R75). -/
def apAddVal (a b : AP) : AP × Ev :=
  let r := AP.add a b
  (r, if r.nan && !(a.nan || b.nan) then { nan := 1 } else {})

end Sys2Proof.Machine
end

