-- ==== Sys2Proof/Machine/Mma.lean ====
section
/-! DEFINITION. The Hatch array and the operand expanders: scan, expansion, C load, issue, accumulation, drain
(R79 to R102, R130, R251 to R253). -/

namespace Sys2Proof.Machine

/-! ## The fields of an MMA stroke, evaluated (R144, R145) -/

/-- The next stroke of the F thread as an MMA stroke (R144, R145). -/
def mkMma (k : Core) (w : Nat) : MmaOp :=
  let th := k.f
  let at_ := fun i => (paddr (k.word i) th.lc).toNat
  let s := bits w 105 92
  let h := k.word s
  let rc := rcOf (bits h 28 26)
  let (r0, c0) := if bit w 109 && rc.rnd == 2 then coord (k.word (s + 4)) th.lc else (0, 0)
  { stroke := th.pc, a := at_ (bits w 77 64), as_ := at_ (bits w 77 64 + 1), b := at_ (bits w 91 78),
    bs := at_ (bits w 91 78 + 1), set := bits w 106 106, init := bits w 108 107, last := bit w 109,
    af := fmtOf (bits h 11 8), bf := fmtOf (bits h 15 12), acomp := bit h 16, bcomp := bit h 17,
    ofmt := fmtOf (bits h 21 18), cf := fmtOf (bits h 25 22), rc := rc, orient := bits h 29 29, m := bits h 37 30,
    n := bits h 45 38, kc := bits h 60 46, stream := bits h 76 61, out := at_ (s + 1), outScale := at_ (s + 2),
    c := at_ (s + 3), row0 := r0, col0 := c0, sig := skSig w, dsig := skDsig w }

/-- M = 0 or N = 0 (R98). -/
def MmaOp.empty (o : MmaOp) : Bool := o.m == 0 || o.n == 0

/-- The F thread's next stroke when it is an MMA stroke that is not held (R83, R166). -/
def nextMma (d : Dev) (c : Nat) : Option MmaOp :=
  let k := d.core c
  let w := k.word k.f.pc
  if k.f.ready && decide (k.f.pc < (k.image .F).2) && skClass w == 0 && skOp w == 0 && waitsHold k w then some (mkMma k w)
  else none

/-! ## The scan (R83, R87) -/

/-- ETOPX of R87. -/
def etopx : Fmt → Int
  | .f8e4 => 8
  | .i8 => 7
  | _ => 2

/-- The larger of two lane exponents, NONE below all. -/
def maxExp (a b : Option Int) : Option Int :=
  match a, b with
  | none, y => y
  | x, none => x
  | some x, some y => some (max x y)

/-- ex of a finite nonzero value (R87). -/
def exNum (x : Num) : Option Int :=
  match x with
  | .fin _ m e => if m = 0 then none else some (exOf m e)
  | _ => none

/-- The values of one operand vector: 128 lanes (R80). -/
def mmaVector (x : Fmt) (e s : List Byte) : List Num := readVals x false 128 e s

/-- The vectors of an element plane and their four scale bytes. -/
def mmaVectors (x : Fmt) (kc : Nat) (e s : List Byte) : List (List Num) :=
  ((pieces (fmtBytes x 128) kc e).zip (pieces 4 kc (slice s 0 (4 * kc)))).map (fun p => mmaVector x p.1 p.2)

/-- Lane exponents of a plain operand (R87). -/
def lanesPlain (vs : List (List Num)) : List (Option Int) :=
  vs.foldl (fun a v => (a.zip v).map (fun p => maxExp p.1 (exNum p.2))) (List.replicate 128 none)

/-- Lane exponents of a block-scaled operand, from its scales alone (R87). -/
def lanesBlock (x : Fmt) (kc : Nat) (s : List Byte) : List (Option Int) :=
  let bl := (pieces 4 kc s).foldl (fun (a : List (Option Int)) v =>
    (a.zip v).map (fun p => if p.2 = 255#8 then p.1 else maxExp p.1 (some ((p.2.toNat : Int) - 127 + etopx x.elem))))
    (List.replicate 4 none)
  (bl.map (List.replicate 32)).flatten

/-- The regions the scan reads: scale planes of block-scaled operands, element planes of others (R83). -/
def MmaOp.scanRegions (o : MmaOp) : List (Nat × Nat) :=
  [if o.af.isBlock then (o.as_, 4 * o.kc) else (o.a, o.kc * fmtBytes o.af 128),
   if o.bf.isBlock then (o.bs, 4 * o.kc) else (o.b, o.kc * fmtBytes o.bf 128)]

/-- The lane exponents of one operand from the Plate as the scan sees it. -/
def scanLanes (m : List Host.Cell) (x : Fmt) (kc a s : Nat) : List (Option Int) :=
  if x.isBlock then lanesBlock x kc (readBytes m s (4 * kc))
  else lanesPlain (mmaVectors x kc (readBytes m a (kc * fmtBytes x 128)) [])

/-- MMA_SCAN (R83, R87): the chunk of the F thread's next MMA stroke is scanned, once. -/
def mmaScan (c : Nat) (u : Upset) (f : Fuses) (d : Dev) : Dev :=
  match nextMma d c with
  | none => d
  | some o =>
    if o.empty ∨ o.kc = 0 ∨ (match (d.core c).mma.scan with | some r => decide (r.ea ≠ []) | none => false) = true then d
    else
      let d := meetUpset d c u o.scanRegions
      match (d.core c).badIn o.scanRegions with
      | some a => plateUeFault f d c .F o.stroke a 1
      | none =>
        let m := plateView d c .feeder
        let r : ScanRec := { stroke := o.stroke, ea := scanLanes m o.af o.kc o.a o.as_, eb := scanLanes m o.bf o.kc o.b o.bs }
        spendFree (d.modCore c (fun k => { k with mma := { k.mma with scan := some r } })) (racing d c .feeder)

/-! ## The operand expanders (R130, R251 to R253) -/

/-- What an expander has of a chunk: the bytes decoded, its codebook once a coded sector has named one, and the status and
sector at which it stopped. -/
structure Expanded where
  bytes : List Byte := []
  book : Option Nat := none
  stop : Option (Nat × Nat) := none
  deriving DecidableEq, Repr

/-- Decode the next sector of a chunk (R251, R252): the checks 1 to 5 of R248, then the chunk's codebook, which the first coded
sector names, then the checks 6 to 8. -/
def expandSector (books : Nat → Except Nat Book) (bad : Nat → Nat → Bool) (plane : List Byte) (offs : List Nat) (x : Expanded)
    (i : Nat) : Expanded :=
  let o := offs.getD i 0
  let nx := offs.getD (i + 1) 0
  let stopAt := fun (y : Expanded) (st : Nat) => { y with stop := some (st, i) }
  if x.stop.isSome then x
  else if bad o (nx - o) then stopAt x Status.plateUe
  else match sectorAt plane o nx with
    | .error st => stopAt x st
    | .ok s => match sectorForm s (fun k => k == (field plane 0 4 + i) % 2 ^ 32) with
      | .error st => stopAt x st
      | .ok none => { x with bytes := x.bytes ++ slice s 80 4096 }
      | .ok (some b) =>
        if x.book.getD b ≠ b then stopAt x Status.bookMismatch
        else
          let y := { x with book := some b }
          match books b with
          | .error st => stopAt y st
          | .ok bk => match decodeCoded bk s with
            | .error st => stopAt y st
            | .ok l => { y with bytes := y.bytes ++ l }

/-- A chunk of `n` sectors decoded by an expander from the bytes it may read (R250 to R252): an uncorrectable word of the index
and a failed index stop it before its first sector; of the latter the sector number is 0 (DESIGN CHOICE, log entry 152). -/
def expandChunk (books : Nat → Except Nat Book) (bad : Nat → Nat → Bool) (plane : List Byte) (n : Nat) : Expanded :=
  if bad 0 (indexSpan plane.length plane) then { stop := some (Status.plateUe, 0xFFFFFFFFFFFFFFFF) }
  else match checkIndex plane n with
    | .error st => { stop := some (st, 0) }
    | .ok offs => (List.range n).foldl (expandSector books bad plane offs) {}

/-- The bytes of a coded chunk of `n` sectors that an expander may read from `a` on (R108, R250): what its sectors and the index
the stored NSEC implies can take, as far as the partitions of the F thread go. -/
def expandPlane (f : Fuses) (d : Dev) (c a n : Nat) : List Byte :=
  let m := plateView d c .feeder
  let room := (permitted f d .F none).2 - a
  readBytes m a (min room (max (codedMax n) (planeX (min 65535 (field (readBytes m a 8) 4 4)))))

/-- EXPAND_DECODE (R130, R252, R253): the expander of operand A (or B) decodes the coded chunk of the next MMA
stroke into a free buffer. -/
def expandDecode (c : Nat) (opB : Bool) (u : Upset) (f : Fuses) (d : Dev) : Dev :=
  match nextMma d c with
  | none => d
  | some o =>
    let k := d.core c
    let comp := if opB then o.bcomp else o.acomp
    let x := if opB then o.bf else o.af
    let a := if opB then o.b else o.a
    if comp = false ∨ o.empty ∨ o.kc = 0 ∨ (if opB then k.mma.expB else k.mma.expA).isSome = true then d
    else
      let n := o.kc * fmtBytes x 128 / 4096
      let w : Who := { tile := f.tileOf c, act := 0, stamp := d.stampNow }
      let d1 := meetUpset d c u [(a, (expandPlane f d c a n).length)]
      let g := (ctxOf d c).getD 4096
      let plane := expandPlane f d1 c a n
      let r := expandChunk (readBook f d1 g) (fun o' l => ((d1.core c).badWord (a + o') l).isSome) plane n
      if (r.book.map (entryReady f d w g)).getD true = false then d
      else
      let d := match r.book with
        | some b => noteBook f d1 w g b
        | none => d1
      let d := (spendFree d (racing d c .feeder)).bump (0xB100 + c) 0 64 (r.bytes.length / 4096)
      match r.stop with
      | none =>
        d.modCore c (fun k => { k with mma := if opB then { k.mma with expB := some r.bytes } else { k.mma with expA := some r.bytes } })
      | some (st, i) =>
        let d := d.bump (0xB100 + c) 1 32 1
        let d := if st = Status.plateUe then
            let d := d.bump (cIdx c) 0x18 32 1
            d.log Status.plateUe 1 (coreUnit c) (f.physOf c) [f.physOf c, ((d.core c).badWord a plane.length).getD a]
          else d
        faultThread f d c .F { status := st, source := 0, resource := 11, stroke := o.stroke, requested := i }

/-! ## The C load (R94, R96) -/

def MmaState.acc (s : MmaState) (i : Nat) : SMap AP := if i = 0 then s.acc0 else s.acc1

def MmaState.setAcc (s : MmaState) (i : Nat) (x : SMap AP) : MmaState :=
  if i = 0 then { s with acc0 := x } else { s with acc1 := x }

/-- The set is neither draining nor waiting to drain (R84). -/
def MmaState.setFree (s : MmaState) (i : Nat) : Bool :=
  !(s.waiting.any (fun r => r.set == i)) && (match s.draining with | some (r, _) => r.set != i | none => true)

/-- The stroke that feeds accumulates into the set. -/
def MmaState.feedsInto (s : MmaState) (i : Nat) : Bool := match s.feed with | some r => r.op.set == i | none => false

/-- One C element as an AP; a NaN also sets NANSRC (R63, R94). -/
def cElement (x : Fmt) (l : List Byte) : AP :=
  let a := if x = .ap then AP.ofBytes l else (decodeElem x (leNat l)).toAP
  { a with nansrc := a.nan }

/-- The C operand as the cells of a set (R94). -/
def loadCells (m : List Host.Cell) (o : MmaOp) (old : SMap AP) : SMap AP :=
  let w := fmtBytes o.cf 1
  let v := fmtBytes o.cf 128
  (List.range o.m).foldl (fun acc i =>
    (List.range o.n).foldl (fun acc j =>
      SMap.set ({} : AP) acc (128 * i + j) (cElement o.cf (readBytes m (o.c + v * i + w * j) w))) acc) old

/-- C_LOAD (R94, R96): the initial value of the next MMA stroke is loaded into its set over the drain path. -/
def cLoad (c : Nat) (u : Upset) (f : Fuses) (d : Dev) : Dev :=
  match nextMma d c with
  | none => d
  | some o =>
    let k := d.core c
    let s := k.mma
    let scanned := o.kc == 0 || (match s.scan with | some r => r.ea != [] | none => false)
    let done := match s.scan with | some r => r.cDone | none => false
    if o.empty ∨ o.init ≠ 1 ∨ scanned = false ∨ done = true ∨ s.waiting ≠ [] ∨ s.draining.isSome = true ∨ s.feedsInto o.set = true then d
    else
      let rs := [(o.c, o.m * fmtBytes o.cf 128)]
      let d := meetUpset d c u rs
      match (d.core c).badIn rs with
      | some a => plateUeFault f d c .F o.stroke a 1
      | none =>
        let m := plateView d c .feeder
        let r : ScanRec := match s.scan with
          | some r => { r with cDone := true }
          | none => { stroke := o.stroke, ea := [], eb := [], cDone := true }
        let acc := loadCells m o (s.acc o.set)
        spendFree (d.modCore c (fun k => { k with mma := { k.mma.setAcc o.set acc with scan := some r } })) (racing d c .feeder)

/-! ## Accumulation (R88 to R90) -/

/-- One product into a set, whose W is still the exact sum: specials combine with the flags by R62, where NAN takes the
place of INF, so that their order does not show (R90, R91); finite products are truncated into the window (R89).  Where PX is
NONE and the bytes changed after the scan, 2^(PX + 1) names no bound, and every finite nonzero product sets OVF (DESIGN CHOICE,
log entry 139). -/
def addProduct (px : Option Int) (a b : Num) (acc : AP) : AP :=
  match Num.mul a b with
  | .nan => { acc with nan := true, inf := false, neg := false, nansrc := acc.nansrc || a.isNan || b.isNan }
  | .inf n =>
    if acc.nan || acc.ovf || (acc.inf && acc.neg != n) then { acc with nan := true, inf := false, neg := false }
    else { acc with inf := true, neg := n }
  | .fin n m e =>
    if m = 0 then acc
    else
      let big := match px with
        | some p => decide (exOf m e ≥ p + 1)
        | none => true
      let (v, lost) := truncAt n m e (126 - acc.e)
      { acc with w := acc.w + v, trunc := acc.trunc || lost, ovf := acc.ovf || big }

/-- One chunk at one cell (R88 to R90).  The window of a set with INF is summed as the steps of R89 give it, so it can set OVF
and TRUNC, though R59 has W and E ignored (DEDUCED, log entry 140). -/
def accumulateChunk (acc : AP) (as_ bs : List Num) (px : Option Int) : AP :=
  let acc := match px with
    | some p => if p + 24 > acc.e then acc.align (p + 24) else acc
    | none => acc
  let acc := (as_.zip bs).foldl (fun acc p => addProduct px p.1 p.2 acc) acc
  let (w, o) := windowOf acc.w
  { acc with w := w, ovf := acc.ovf || o }

/-- PX of a cell (R87). -/
def pxOf (a b : Option Int) : Option Int :=
  match a, b with
  | some x, some y => some (x + y + 1)
  | _, _ => none

/-- A lane of operand vectors. -/
def laneOf (vs : List (List Num)) (l : Nat) : List Num := vs.map (fun v => v.getD l (.fin false 0 0))

/-- A lane whose products change nothing: its elements are all zeros. -/
def laneZero (l : List Num) : Bool := l.all Num.isZero

/-- A lane without specials. -/
def laneFinite (l : List Num) : Bool := l.all (fun x => !x.isNan && !x.isInf)

/-- A chunk accumulated over all cells of a set (R79, R87 to R90).  Where every product is a zero and no cell has
a PX, every cell keeps what it holds. -/
def accumulate (av bv : List (List Num)) (ea eb : List (Option Int)) (acc : SMap AP) : SMap AP :=
  let as_ := (List.range 128).map (fun i => let l := laneOf av i; (i, l, laneZero l, laneFinite l))
  let bs := (List.range 128).map (fun j => let l := laneOf bv j; (j, l, laneZero l, laneFinite l))
  if (as_.all (fun p => p.2.2.1) && bs.all (fun p => p.2.2.2) || as_.all (fun p => p.2.2.2) && bs.all (fun p => p.2.2.1)) &&
      (ea.all Option.isNone || eb.all Option.isNone) then acc
  else
    as_.foldl (fun acc p =>
      bs.foldl (fun acc q =>
        let key := 128 * p.1 + q.1
        SMap.set ({} : AP) acc key
          (accumulateChunk (SMap.get {} acc key) p.2.1 q.2.1 (pxOf (ea.getD p.1 none) (eb.getD q.1 none)))) acc) acc

/-! ## Issue (R84, R85, R98, R101) -/

/-- The element plane an operand feeds from: its expansion buffer, or the Plate. -/
def feedBytes (m : List Host.Cell) (comp : Bool) (buf : Option (List Byte)) (x : Fmt) (kc a : Nat) : List Byte :=
  if comp then buf.getD [] else readBytes m a (kc * fmtBytes x 128)

/-- The Plate regions the feed reads. -/
def MmaOp.feedRegions (o : MmaOp) : List (Nat × Nat) :=
  (if o.acomp then [] else [(o.a, o.kc * fmtBytes o.af 128)]) ++ (if o.af.isBlock then [(o.as_, 4 * o.kc)] else []) ++
  (if o.bcomp then [] else [(o.b, o.kc * fmtBytes o.bf 128)]) ++ (if o.bf.isBlock then [(o.bs, 4 * o.kc)] else [])

/-- The lines of some regions that hold something else in a second Plate. -/
def changedLines (rs : List (Nat × Nat)) (m n : List Host.Cell) : List Nat :=
  ((rs.map (fun r => linesOf r.1 r.2)).flatten).filter (fun l => decide (readBytes m (256 * l) 256 ≠ readBytes n (256 * l) 256))

/-- The Plate as the feed has read it by its last K-step (R97): of each operand line that changed since the issue, or is being
written, the old or the new contents by a free value (log entry 141). -/
def feedView (d : Dev) (c : Nat) (r : FeedRec) : List Host.Cell :=
  let new := plateView d c .feeder
  (changedLines r.op.feedRegions r.plate new).foldl (fun m l =>
    if Config.freeBit ((d.freeCtr * 256 + 255) * 65536 + l) then writeBytes m (256 * l) (readBytes new (256 * l) 256) else m) r.plate

/-- The set after the stroke's INIT and chunk (R88 to R94), its operands read from `m`. -/
def mmaCells (m : List Host.Cell) (r : FeedRec) (old : SMap AP) : SMap AP :=
  let o := r.op
  let start := if o.init = 0 then [] else old
  if o.kc = 0 then start
  else
    let av := mmaVectors o.af o.kc (feedBytes m o.acomp r.expA o.af o.kc o.a) (if o.af.isBlock then readBytes m o.as_ (4 * o.kc) else [])
    let bv := mmaVectors o.bf o.kc (feedBytes m o.bcomp r.expB o.bf o.kc o.b) (if o.bf.isBlock then readBytes m o.bs (4 * o.kc) else [])
    accumulate av bv r.ea r.eb start

/-- The drain record of a stroke marked LAST (R95). -/
def MmaOp.drain (o : MmaOp) : DrainRec :=
  { stroke := o.stroke, set := o.set, rows := o.m, cols := o.n, fmt := o.ofmt, rc := o.rc, orient := o.orient,
    out := o.out, outScale := o.outScale, stream := o.stream, row0 := o.row0, col0 := o.col0, dsig := o.dsig }

/-- A set is poisoned: the detecting stroke's thread faults with ARRAY_PARITY, the error is counted and logged with
the physical core, the place, the set and TIME (R101). -/
def arrayParity (f : Fuses) (d : Dev) (c set stroke place : Nat) : Dev :=
  let d := d.modCore c (fun k => { k with mma := if set = 0 then { k.mma with poison0 := true } else { k.mma with poison1 := true } })
  let d := d.bump (cIdx c) 0x16 32 1
  let d := d.log Status.arrayParity 2 (coreUnit c) (f.physOf c) [f.physOf c, place, set, d.now]
  faultThread f d c .F { status := Status.arrayParity, source := 0, resource := 10, stroke := stroke }

/-- EMPTY (R98): the stroke sends its signals, and EMPTY is recorded, flagged and counted. -/
def mmaEmpty (f : Fuses) (c : Nat) (o : MmaOp) (d : Dev) : Dev :=
  let d := signal f d c o.sig o.stroke
  let d := signal f d c o.dsig o.stroke
  let d := d.modCore c (fun k => { k with f := (k.f).setEmpty })
  (recordStatus d c .F Status.empty).bump (cIdx c) 0x13 32 1

/-- The stroke begins to feed its K-steps into its set (R85): errors met, its scan and expansion buffers taken over, the drain
queued. -/
def mmaFeed (f : Fuses) (c : Nat) (o : MmaOp) (u : Upset) (d : Dev) : Dev :=
  let d := meetUpset d c u o.feedRegions
  let m := plateView d c .feeder
  let d := spendFree d (racing d c .feeder)
  let d := d.modCore c (fun k =>
    let s := k.mma
    let (ea, eb) := match s.scan with | some r => (r.ea, r.eb) | none => ([], [])
    { k with mma := { s with
      scan := none, expA := none, expB := none,
      feed := some { op := o, ea := ea, eb := eb, expA := s.expA, expB := s.expB, plate := m },
      waiting := s.waiting ++ (if o.last then [{ o.drain with feeding := true }] else []) } })
  let d := match (d.core c).badIn o.feedRegions with
    | some a => plateUeFault f d c .F o.stroke a 1
    | none => d
  match u.parity with
  | some p => if o.kc = 0 then d else arrayParity f d c o.set o.stroke p
  | none => d

/-- The unit conditions of R84 on the stroke: 2 to 5. -/
def mmaReady (k : Core) (o : MmaOp) : Bool :=
  let s := k.mma
  s.feed.isNone &&
  (o.empty ||
    ((o.kc == 0 || (match s.scan with | some r => r.ea != [] | none => false)) &&
     (o.kc == 0 || ((!o.acomp || s.expA.isSome) && (!o.bcomp || s.expB.isSome))) &&
     s.setFree o.set && (o.init != 1 || (match s.scan with | some r => r.cDone | none => false))))

/-- MMA (R84, R85, R98): the F thread's next stroke, an MMA stroke, issues and feeds its K-steps. -/
def mmaRow (c : Nat) (u : Upset) (f : Fuses) (d : Dev) : Dev :=
  let k := d.core c
  let o := mkMma k (k.word k.f.pc)
  strokeRow f d c .F (fun w => skClass w == 0 && skOp w == 0)
    (fun _ => gateOpen d (f.tileOf c) && mmaReady k o)
    (fun _ d' => if o.empty then mmaEmpty f c o d' else mmaFeed f c o u d')

/-- OPERANDS_FREE (R85, R101): the last K-step has been read; the chunk is in the set, the signal is sent, the expansion
buffers are free, and the stroke's drain no longer waits for its feed. -/
def operandsFree (c : Nat) (f : Fuses) (d : Dev) : Dev :=
  let k := d.core c
  match k.mma.feed with
  | none => d
  | some r =>
    let s := k.mma.setAcc r.op.set (mmaCells (feedView d c r) r (k.mma.acc r.op.set))
    let d := spendFree d (decide (changedLines r.op.feedRegions r.plate (plateView d c .feeder) ≠ []))
    let d := d.setCore c { k with mma := { s with
      feed := none
      waiting := s.waiting.map (fun x => if x.stroke = r.op.stroke ∧ x.set = r.op.set then { x with feeding := false } else x) } }
    signal f d c r.op.sig r.op.stroke

/-! ## Drain (R95, R96, R100) -/

/-- A cell as a value for conversion: NAN or OVF is a NaN that counts unless NANSRC is set (R70, R100). -/
def cellVal (a : AP) : Val := ⟨a.toNum, a.isNan && !a.nansrc⟩

/-- Vector `v` of a drain as cells: 128 lanes, the padding lanes none (R95). -/
def drainVector (acc : SMap AP) (r : DrainRec) (v : Nat) : List (Option (Nat × Nat × AP)) :=
  (List.range 128).map (fun l =>
    if r.orient = 0 then (if l < r.cols then some (v, l, SMap.get {} acc (128 * v + l)) else none)
    else (if l < r.rows then some (l, v, SMap.get {} acc (128 * l + v)) else none))

/-- The bytes of one drained vector, of its scale plane, and the events (R95). -/
def drainLine (f : Fuses) (d : Dev) (acc : SMap AP) (r : DrainRec) (v : Nat) : List Byte × List Byte × Ev :=
  let cs := drainVector acc r v
  if r.fmt = .ap then
    ((cs.map (fun c => match c with
      | some (_, _, a) => a.toBytes
      | none => AP.zero.toBytes)).flatten, [], {})
  else
    let ks := noiseKey (noiseSeed f d) 0 r.stream 0
    let ns := if r.rc.rnd = 2 then cs.map (fun c => match c with
        | some (i, j, _) => noiseAt ks (r.row0 + i) (r.col0 + j)
        | none => 0) else []
    writePlanes r.fmt r.rc ns (cs.map (fun c => match c with
      | some (_, _, a) => cellVal a
      | none => Val.of (.fin false 0 0)))

/-- Vectors a drain writes: M under ROWS, N under COLS (R95). -/
def DrainRec.vectors (r : DrainRec) : Nat := if r.orient = 0 then r.rows else r.cols

/-- What a drain writes and counts (R95, R100): the patches, the format events, elements with TRUNC, with OVF. -/
def drainAll (f : Fuses) (d : Dev) (acc : SMap AP) (r : DrainRec) : List Patch × Ev × Nat × Nat :=
  let ls := (List.range r.vectors).map (drainLine f d acc r)
  let es := ((ls.map (fun l => l.1)).flatten)
  let ss := ((ls.map (fun l => l.2.1)).flatten)
  let cells := (((List.range r.vectors).map (drainVector acc r)).flatten).filterMap id
  ((⟨r.out, es⟩ : Patch) :: (if ss = [] then [] else [⟨r.outScale, ss⟩]), (ls.map (fun l => l.2.2)).foldl Ev.add {},
    (cells.filter (fun c => c.2.2.trunc)).length, (cells.filter (fun c => c.2.2.ovf)).length)

def MmaState.poisoned (s : MmaState) (i : Nat) : Bool := if i = 0 then s.poison0 else s.poison1

/-- DRAIN (R95, R96, R101): the oldest waiting drain, its stroke's accumulation done, takes the path; its cells are
converted and counted.  A parity error here poisons the set; a poisoned set writes nothing. -/
def drainStart (c : Nat) (u : Upset) (f : Fuses) (d : Dev) : Dev :=
  let k := d.core c
  match k.mma.draining, k.mma.waiting with
  | none, r :: rest =>
    if r.feeding then d
    else
      let d := match u.parity with
        | some p => arrayParity f d c r.set r.stroke p
        | none => d
      let k := d.core c
      if k.mma.poisoned r.set then
        d.setCore c { k with mma := { k.mma with waiting := rest, draining := some (r, []) } }
      else
        let (ps, ev, tr, ov) := drainAll f d (k.mma.acc r.set) r
        let d := d.setCore c { k with mma := { k.mma with waiting := rest, draining := some (r, ps) } }
        ((countEv d c ev).bump (cIdx c) 0x14 32 tr).bump (cIdx c) 0x15 32 ov
  | _, _ => d

/-- DRAIN_DONE (R85, R94, R101): the drain has written; the set reads as the zero AP and is free, and the drain
signal is sent.  A poisoned set sends none. -/
def drainDone (c : Nat) (f : Fuses) (d : Dev) : Dev :=
  let k := d.core c
  match k.mma.draining with
  | none => d
  | some (r, ps) =>
    if k.mma.poisoned r.set then d.setCore c { k with mma := { k.mma with draining := none } }
    else
      let k := k.patches ps
      let d := d.setCore c { k with mma := { k.mma.setAcc r.set [] with draining := none } }
      signal f d c r.dsig r.stroke

end Sys2Proof.Machine
end

