-- ==== Sys2Proof/Machine/Msg.lean ====
section
/-! DEFINITION. Messages between cores and engines: token and credit messages at a core's message port, queue words
at its queue port, and the inbound queues (R116 to R129). -/

namespace Sys2Proof.Machine

/-! ## Message frames (R119, R125) -/

/-- SRC_UNIT of a thread, of its mover, and of the units that are not cores (R119). -/
def unitThread : Thr → Nat
  | .F => 0
  | .B => 1

def unitMover : Thr → Nat
  | .F => 2
  | .B => 3

/-- A token or credit message (R119). -/
def tokenMsg (amount : Nat) (r : CtrRef) (dest dev act srcDev srcTile srcCore srcUnit stroke : Nat) : Nat :=
  amount + r.idx * 2 ^ 16 + (if r.credit then 2 ^ 23 else 0) + dest * 2 ^ 24 + dev * 2 ^ 32 + act * 2 ^ 48 +
    srcDev * 2 ^ 64 + srcTile * 2 ^ 80 + srcCore * 2 ^ 84 + srcUnit * 2 ^ 91 + stroke * 2 ^ 95

/-- A queue word message (R125). -/
def queueMsg (word : Nat) (p : Producer) (queue : Nat) (first : Bool) (dest act : Nat) : Nat :=
  word + p.dev * 2 ^ 64 + p.tile * 2 ^ 80 + p.core * 2 ^ 84 + p.unit * 2 ^ 91 + queue * 2 ^ 95 +
    (if first then 2 ^ 97 else 0) + dest * 2 ^ 98 + act * 2 ^ 105

/-- The producer a queue word message names (R125). -/
def msgProducer (w : Nat) : Producer :=
  { dev := bits w 79 64, tile := bits w 83 80, core := bits w 90 84, unit := bits w 94 91 }

/-- The torus channel of an activity (R302): compute and collectives and the rest each on their own, management on
MGMT. -/
def vcOfAct (act : Nat) : Nat := act

/-- The tile a message for a core of this device goes to; a core the device does not have leaves it at the tile it comes from,
which rejects it (R121). -/
def destTile (f : Fuses) (core src : Nat) : Nat := if core < f.cores then f.tileOf core else src

/-- Send a token or credit message to a core of this device over the mesh, or to another device over the torus
(R24): the state, and whether it could be sent. -/
def sendToken (f : Fuses) (d : Dev) (m : Nat) : Dev × Bool :=
  let dev := bits m 47 32
  let act := bits m 50 48
  if dev = devAddr f d then (sendMesh d (bits m 83 80) (destTile f (bits m 30 24) (bits m 83 80)) act d.stampNow (.token m), true)
  else
    routeSend f d { dest := dev, src := devAddr f d, kind := 0, act := act, addr := 0, data := leBytes 16 m, vc := vcOfAct act,
                    stamp := d.stampNow }

/-- Send a queue word (R24, R125). -/
def sendQueueWord (f : Fuses) (d : Dev) (dev m : Nat) : Dev × Bool :=
  let act := bits m 107 105
  if dev = devAddr f d then (sendMesh d (bits m 83 80) (destTile f (bits m 104 98) (bits m 83 80)) act d.stampNow (.word m), true)
  else
    routeSend f d { dest := dev, src := devAddr f d, kind := 1, act := act, addr := 0, data := leBytes 16 m, vc := vcOfAct act,
                    stamp := d.stampNow }

/-! ## Rejection (R121, R135) -/

/-- MSG_REJECT gains 1 at the tile R121 names. -/
def msgReject (f : Fuses) (d : Dev) (dest srcDev srcTile : Nat) : Dev :=
  let t := if dest < f.cores then f.tileOf dest else if srcDev = devAddr f d then srcTile else 0
  d.bump (0xA180 + t) 0 32 1

/-- The destination core cannot take a message (R121). -/
def destRefuses (f : Fuses) (d : Dev) (dest srcDev : Nat) : Bool :=
  let k := d.core dest
  decide (dest ≥ f.cores) || withdrawn d dest || coreInReset f d dest ||
    (match k.f.state, k.b.state with | .idle, .idle => true | _, _ => false) ||
    (decide (srcDev ≠ devAddr f d) && !k.acceptRemote)

/-- The message port of the destination core takes a message (R116, R121, R122). -/
def takeToken (m : Nat) (f : Fuses) (d : Dev) : Dev :=
  let dest := bits m 30 24
  let r : CtrRef := { credit := bit m 23, idx := bits m 22 16 }
  if destRefuses f d dest (bits m 79 64) ||
      (bit m 31 || decide (bits m 63 51 ≠ 0 ∨ bits m 127 109 ≠ 0)) || (r.credit && decide (r.idx ≥ 64)) then
    msgReject f d dest (bits m 79 64) (bits m 83 80)
  else addCounter f d dest r (bits m 15 0) 2 0xFFFF m

/-- TOKEN_CREDIT_MESSAGE (R19, R24, R116): a message that is the oldest of its flow on the mesh reaches its core. -/
def tokenCreditMessage (m : Nat) (f : Fuses) (d : Dev) : Dev :=
  match meshHead d (.token m) with
  | some x => takeToken m f (takeMesh d x)
  | none => d

/-! ## Inbound queues (R125 to R129) -/

/-- Words of a queue's ring (R109). -/
def QCfg.size (q : QCfg) : Nat := 64 * 2 ^ q.log2

/-- The thread that owns a queue. -/
def queueOwner (q : Nat) : Thr := if q < 2 then .F else .B

def Core.qcfgOf (k : Core) (q : Nat) : QCfg := k.qcfg.getD q {}

def Core.queue (k : Core) (q : Nat) : Queue := k.queues.getD q {}

def Core.setQueue (k : Core) (q : Nat) (x : Queue) : Core := { k with queues := k.queues.set q x }

/-- Words of the ring that reservations hold. -/
def Queue.held (q : Queue) : Nat := (q.items.map QItem.len).sum

/-- The item has not been delivered and is not void: it is in assembly or waits behind one that is (R126). -/
def QItem.open_ (i : QItem) : Bool := !i.void && decide (i.wrote < i.len)

/-- Items in assembly (R126). -/
def Queue.assembly (q : Queue) : List QItem := q.items.filter QItem.open_

/-- Void reservations at the head are released (R126). -/
def releaseVoid (size rp : Nat) : List QItem → Nat × List QItem
  | [] => (rp, [])
  | i :: t => if i.void then releaseVoid size ((rp + i.len) % size) t else (rp, i :: t)

/-- Delivery in reservation order (R126 step 4): the items, and how many became deliverable. -/
def deliver : List QItem → List QItem × Nat
  | [] => ([], 0)
  | i :: t =>
    if i.delivered || i.void then
      let (t', n) := deliver t
      (i :: t', n)
    else if i.wrote = i.len then
      let (t', n) := deliver t
      ({ i with delivered := true } :: t', n + 1)
    else (i :: t, 0)

/-- Deliver what has become deliverable: the bound token gains 1 for each (R126). -/
def settle (f : Fuses) (d : Dev) (c q msg : Nat) : Dev :=
  let k := d.core c
  let x := k.queue q
  let (items, n) := deliver x.items
  let (rp, items) := releaseVoid (k.qcfgOf q).size x.rp items
  let d := d.setCore c (k.setQueue q { x with rp := rp, items := items })
  (List.range n).foldl (fun d _ => addCounter f d c { credit := false, idx := (k.qcfgOf q).token } 1 3 0xFFFF msg) d

/-- A producer's mark is set: FLUSHED (true) or OVERFLOWED (R127). -/
def Queue.mark (x : Queue) (p : Producer) (flushed : Bool) : Queue :=
  { x with marks := (p, flushed) :: x.marks.filter (fun m => m.1 ≠ p) }

/-- The queue port refuses a header: the producer is marked OVERFLOWED (R127). -/
def refuseHeader (d : Dev) (c q : Nat) (p : Producer) : Dev :=
  d.modCore c (fun k => k.setQueue q ((k.queue q).mark p false))

/-- A header is handled (R126 step 1, R127): the state and the status.  Where the producer has an item in assembly and the new
header overflows, two rows of R127 apply; the earlier item is voided first, and the tests of space and slots see the queue
without it (DEDUCED, log entry 144). -/
def queueHeader (f : Fuses) (d : Dev) (c q m : Nat) (p : Producer) : Dev × Nat :=
  let n := bits m 6 0
  let d := d.modCore c (fun k => let x := k.queue q; k.setQueue q { x with marks := x.marks.filter (fun y => y.1 ≠ p) })
  if n = 0 ∨ n > 64 ∨ bits m 15 7 ≠ 0 then (refuseHeader d c q p, Status.itemLength)
  else
    let d :=
      if ((d.core c).queue q).items.any (fun i => i.open_ && i.prod == p) then
        let d := d.modCore c (fun k =>
          let x := k.queue q
          k.setQueue q { x with items := x.items.map (fun i => if i.open_ && i.prod == p then { i with void := true } else i) })
        settle f (d.bump (cIdx c) 0x1A 32 1) c q m
      else d
    let k := d.core c
    let x := k.queue q
    let size := (k.qcfgOf q).size
    let free := size - x.held
    let slots := x.assembly.length ≥ 8
    if n > free ∨ slots then
      let d := refuseHeader d c q p
      (faultThread f d c (queueOwner q)
        { status := Status.queueOverflow, source := 3, resource := if n > free then 4 else 5, stroke := 0xFFFF, index := q,
          requested := n, limit := if n > free then free else 8, message := m }, Status.queueOverflow)
    else
      let x := { x with wp := (x.wp + n) % size, items := x.items ++ [{ prod := p, start := x.wp, len := n, got := 1 }] }
      let k := k.setQueue q x
      (d.setCore c { k with qport := some { queue := q, prod := p, pos := (x.wp + size - n % size) % size, word := m } }, 0)

/-- A word that is no header (R126 step 2, R127): the state and the status. -/
def queueData (d : Dev) (c q m : Nat) (p : Producer) : Dev × Nat :=
  let k := d.core c
  let x := k.queue q
  match x.marks.find? (fun y => y.1 == p) with
  | some (_, true) => (d, Status.flushed)
  | some (_, false) => (d, Status.queueOverflow)
  | none =>
    match x.items.find? (fun i => i.open_ && i.prod == p && decide (i.got < i.len)) with
    | none => (d, Status.noItem)
    | some i =>
      let items := x.items.map (fun j => if j.start = i.start ∧ j.open_ = true ∧ j.prod = p then { j with got := j.got + 1 } else j)
      let k := k.setQueue q { x with items := items }
      (d.setCore c { k with qport := some { queue := q, prod := p, pos := (i.start + i.got) % (k.qcfgOf q).size, word := m } }, 0)

/-- The status of a queue word travels back to its producer (R125, R127): to a mover channel of this device, or
away from the block. -/
def returnStatus (f : Fuses) (d : Dev) (p : Producer) (st : Nat) : Dev :=
  if p.dev = devAddr f d ∧ (p.unit = 2 ∨ p.unit = 3) then
    let t : Thr := if p.unit = 2 then .F else .B
    d.modCore p.core (fun k => k.setMov t (match k.mov t with
      | m :: rest => { m with awaiting := m.awaiting - 1, result := if m.result = 0 then st else m.result } :: rest
      | [] => []))
  else d.emit (.queueStatus p st)

/-- QUEUE_WORD_MESSAGE (R19, R121, R125 to R127): a queue word that is the oldest of its flow on the mesh reaches its core,
whose queue port takes it.  While an earlier word waits for the Plate write port the word is held back (R126). -/
def queueWordMessage (m : Nat) (f : Fuses) (d : Dev) : Dev :=
  let c := bits m 104 98
  let q := bits m 96 95
  let p := msgProducer m
  let bad := destRefuses f d c p.dev || decide (bits m 127 108 ≠ 0)
  match meshHead d (.word m) with
  | none => d
  | some x =>
   if !bad && (d.core c).qport.isSome then d
   else
    let d := takeMesh d x
    if bad then returnStatus f (msgReject f d c p.dev p.tile) p Status.noCore
    else if ((d.core c).qcfgOf q).en = false then
      returnStatus f (d.bump (0xA180 + f.tileOf c) 0 32 1) p Status.queueOff
    else
      let (d, st) := if bit m 97 then queueHeader f d c q m p else queueData d c q m p
      returnStatus f d p st

/-- QUEUE_WORD_WRITE (R126): the word that waits is written into the ring; at an item's last word the item is
committed, and what became deliverable is delivered. -/
def queueWordWrite (c : Nat) (f : Fuses) (d : Dev) : Dev :=
  let k := d.core c
  match k.qport with
  | none => d
  | some w =>
    let g := k.qcfgOf w.queue
    let x := k.queue w.queue
    let k := k.patch ⟨g.base + 8 * w.pos, leBytes 8 (w.word % 2 ^ 64)⟩
    let items := x.items.map (fun i => if i.open_ && i.prod == w.prod then { i with wrote := i.wrote + 1 } else i)
    let k := { k.setQueue w.queue { x with items := items } with qport := none }
    settle f (d.setCore c k) c w.queue w.word

/-- Flush a queue (R129): deliverable and committed items count in Q_DISCARD, items in assembly in Q_ABORT and their
producers are marked; the bound token loses the deliverable items.  A word the port has accepted that still waits for the
Plate write port is dropped and never written (DESIGN CHOICE, log entry 145). -/
def flushQueue (d : Dev) (c q : Nat) : Dev :=
  let k := d.core c
  let x := k.queue q
  let done := x.items.filter (fun i => !i.void && !i.open_)
  let part := x.assembly
  let tok : CtrRef := { credit := false, idx := (k.qcfgOf q).token }
  let k := k.setCounter tok (k.counter tok - (x.items.filter QItem.delivered).length)
  let x := part.foldl (fun x i => x.mark i.prod true) x
  let k := k.setQueue q { x with rp := 0, wp := 0, items := [] }
  let k := { k with qport := match k.qport with
    | some w => if w.queue = q then none else some w
    | none => none }
  ((d.setCore c k).bump (cIdx c) 0x19 32 done.length).bump (cIdx c) 0x1A 32 part.length

end Sys2Proof.Machine
end

