-- ==== Sys2Proof/Machine/Move.lean ====
section
/-! DEFINITION. The MOVE strokes and the mover channels (R152 to R155, R617, R105). -/

namespace Sys2Proof.Machine

/-- A Plate region lies in the exchange partition (R31). -/
def inExch (f : Fuses) (d : Dev) (a n : Nat) : Bool :=
  let (c, e, _) := partEnds f d
  decide (c ≤ a ∧ a + n ≤ e)

/-- The activity of a MOVE stroke from the Plate regions it names (R31). -/
def moveAct (f : Fuses) (d : Dev) (t : Thr) (rs : List (Nat × Nat)) : Nat :=
  match t with
  | .B => 1
  | .F => if rs != [] && rs.all (fun r => inExch f d r.1 r.2) then 3 else 0

/-- A region lies wholly within the nine planes of the core's last UPD stroke, from their lowest byte to their highest
(R510). -/
def inUpdSpan (k : Core) (a n : Nat) : Bool :=
  match k.updSpan with
  | some (lo, hi) => decide (lo ≤ a ∧ a + n ≤ hi)
  | none => false

/-- Who a mover is when it accesses device memory for a stroke (R31, R510, R513). -/
def moveWho (f : Fuses) (c : Nat) (m : MoveOp) : Who := { tile := f.tileOf c, act := m.act, wb := m.wb, stamp := m.stamp }

/-- A MOVE stroke as its channel takes it, addresses evaluated (R152 to R154). -/
def mkMove (f : Fuses) (d : Dev) (k : Core) (t : Thr) (w : Nat) : MoveOp :=
  let th := k.th t
  let op := skOp w
  let n := if op = 4 then 8 * bits w 127 106 else if op = 5 then 512 else 16 * bits w 127 106
  let src := if op ≥ 5 then bits w 65 64 else (anyAddr (k.word (bits w 77 64)) th.lc).toNat
  let dst := if op = 4 ∨ op = 6 then 0 else (anyAddr (k.word (bits w 91 78)) th.lc).toNat
  let tg := bits w 105 92
  let rs := if op = 0 then [(dst, n)] else if op = 1 ∨ op = 4 then [(src, n)] else if op = 5 then [(dst, n)]
    else if op = 6 then [] else [(src, n), (dst, n)]
  { op := op, stroke := th.pc, src := src, dst := dst, len := n, tgt := if tg = 0x3FFF then none else some (targetOf (k.word tg)),
    sig := skSig w, act := moveAct f d t rs, stamp := d.stampNow, wb := decide (t = .F ∧ op = 1) && inUpdSpan k src n }

/-- The device a TARGET entry names (R153). -/
def Target.device (f : Fuses) (d : Dev) (x : Target) : Nat := if x.isLocal then devAddr f d else x.dev

/-- The notification of a stroke that has completed (R153). -/
def notifyMove (f : Fuses) (d : Dev) (c : Nat) (t : Thr) (m : MoveOp) : Dev :=
  match m.tgt with
  | some x =>
    if x.noteEn then
      (sendToken f d (tokenMsg x.noteAmt { credit := x.noteCredit, idx := x.noteCtr } x.core (x.device f d) m.act (devAddr f d)
        (f.tileOf c) c (unitMover t) m.stroke)).1
    else d
  | none => d

/-- A MOVE completes (R117, R134, R153, R154, R162): its signal, its notification and its status. -/
def finishMove (f : Fuses) (d : Dev) (c : Nat) (t : Thr) (m : MoveOp) (st : Nat) : Dev :=
  let d := signal f d c m.sig m.stroke
  let d := notifyMove f d c t m
  let d := recordStatus d c t st
  if st ≠ 0 ∧ (m.op = 3 ∨ m.op = 4) then d.modCore c (fun k => k.setTh t (k.th t).setProdErr) else d

/-- The transfer moves nothing and completes at once (R155). -/
def MoveOp.empty (m : MoveOp) : Bool := decide (m.len = 0 ∧ m.op ≤ 3)

/-- A thread's mover channel takes one more stroke (R155); a collective holds the B thread's (R111). -/
def moveTakes (k : Core) (t : Thr) : Bool := decide ((k.mov t).length < 4) && !(decide (t = .B) && k.coll.isSome)

/-- The rows LOAD to QFLUSH: the issue of a thread's next stroke, a MOVE of operation `op` (R123, R152, R155).  A
channel holds up to four. -/
def moveRow (op c : Nat) (t : Thr) (f : Fuses) (d : Dev) : Dev :=
  let k := d.core c
  strokeRow f d c t (fun w => skClass w == 3 && skOp w == op) (fun _ => moveTakes k t)
    (fun w d' =>
      let m := mkMove f d k t w
      if m.empty && (k.mov t).isEmpty then finishMove f d' c t m 0
      else d'.modCore c (fun k => k.setMov t (k.mov t ++ [m])))

/-! ## MOVE_START (R155, R617) -/

/-- The head of a channel is replaced. -/
def setHead (d : Dev) (c : Nat) (t : Thr) (m : MoveOp) : Dev :=
  d.modCore c (fun k => k.setMov t (m :: (k.mov t).tail))

/-- The head of a channel leaves it. -/
def popHead (d : Dev) (c : Nat) (t : Thr) : Dev := d.modCore c (fun k => k.setMov t (k.mov t).tail)

/-- The bytes of a copy whose destination lies above its source and meets it: a line that an earlier line of the same
transfer writes is read old or new by a free value (R118); every other line is read as it stood. -/
def copyBytes (pick : Nat → Bool) (m : List Host.Cell) (src dst n : Nat) : List Byte :=
  if src < dst ∧ dst < src + n then
    ((linesOf src n).foldl (fun (p : List Host.Cell × List Byte) line =>
      let lo := max src (256 * line)
      let l := readBytes (if pick line then p.1 else m) lo (min (src + n) (256 * line + 256) - lo)
      (writeBytes p.1 (dst + (lo - src)) l, p.2 ++ l)) (m, [])).2
  else readBytes m src n

/-- What a transfer reads from its own Plate: the bytes before the first line (R103) with an uncorrectable word, and that
word's address (R105). -/
def moveSource (d : Dev) (c : Nat) (t : Thr) (m : MoveOp) : List Byte × Option Nat :=
  let view := plateView d c (.mover t)
  let l := if m.op = 2 then copyBytes (fun i => Config.freeBit (d.freeCtr * 2 ^ 32 + i)) view m.src m.dst m.len
    else readBytes view m.src m.len
  match (d.core c).badWord m.src m.len with
  | some a => (l.take (256 * (a / 256) - m.src), some a)
  | none => (l, none)

/-- The payload bytes of one PUT packet: whole lines below the largest BYTES (R301; log entry 40). -/
abbrev putPiece : Nat := 14080

/-- Send a PUT to another device: packets of KIND 5 whose ADDR holds the Plate address and, above it, the core (log
entry 40); the state, and whether they could be sent. -/
def sendPut (f : Fuses) (d : Dev) (x : Target) (act stamp dst : Nat) (l : List Byte) : Dev × Bool :=
  ((pieces putPiece (ceilDiv l.length putPiece) l).zipIdx).foldl (fun p q =>
    let (d, ok) := routeSend f p.1
      { dest := x.device f d, src := devAddr f d, kind := 5, act := act, addr := dst + putPiece * q.2 + x.core * 2 ^ 32,
        data := q.1, vc := vcOfAct act, stamp := stamp }
    (d, p.2 && ok)) (d, true)

/-- The words of a QSEND: LEN and zeros in the low bits of word 0 (R154). -/
def qsendWords (len : Nat) (l : List Byte) : List Nat :=
  ((pieces 8 (l.length / 8) l).zipIdx).map (fun p => if p.2 = 0 then leNat p.1 / 65536 * 65536 + len / 8 else leNat p.1)

/-- Send the words of a QSEND in order (R154): to a core of this device one message each; to another device one packet
of KIND 1 with all of them. -/
def sendWords (f : Fuses) (d : Dev) (c : Nat) (t : Thr) (m : MoveOp) (x : Target) (l : List Byte) : Dev × Bool :=
  let p : Producer := { dev := devAddr f d, tile := f.tileOf c, core := c, unit := unitMover t }
  let ms := ((qsendWords m.len l).zipIdx).map (fun w => queueMsg w.1 p x.queue (w.2 == 0) x.core m.act)
  if x.device f d = devAddr f d then
    (ms.foldl (fun d w => sendMesh d (f.tileOf c) (destTile f x.core (f.tileOf c)) m.act m.stamp (.word w)) d, true)
  else if ms = [] then (d, true)
  else routeSend f d { dest := x.device f d, src := devAddr f d, kind := 1, act := m.act, addr := 0,
                       data := (ms.map (leBytes 16)).flatten, vc := vcOfAct m.act, stamp := m.stamp }

/-- A transfer starts that reads the core's own Plate: STORE, COPY, PUT and QSEND. -/
def startFromPlate (f : Fuses) (d : Dev) (c : Nat) (t : Thr) (m : MoveOp) : Dev :=
  let (l, ue) := moveSource d c t m
  let d := spendFree d true
  let m := { m with started := true, data := l, ue := ue }
  match m.tgt with
  | some x =>
    if m.op = 3 ∧ x.device f d ≠ devAddr f d then
      let (d, ok) := sendPut f d x m.act m.stamp m.dst l
      setHead d c t { m with result := if ok then 0 else Status.unreachable }
    else if m.op = 4 then
      let (d, ok) := sendWords f d c t m x l
      setHead d c t { m with result := if ok then 0 else Status.unreachable,
                             awaiting := if x.device f d = devAddr f d then l.length / 8 else 0 }
    else setHead d c t m
  | none => setHead d c t m

/-- The Plate words of a destination that come from poisoned lines of the source (R224). -/
def poisonWords (f : Fuses) (d : Dev) (dst : Nat) : Nat → List (Nat × Nat) → List Nat
  | _, [] => []
  | off, r :: rs =>
    (((linesOf r.1 r.2).filter (linePoisoned f d)).map (fun line =>
      let lo := max r.1 (256 * line) - r.1
      let hi := min (r.1 + r.2) (256 * line + 256) - r.1
      (List.range ((hi - lo + 7) / 8)).map (fun i => (dst + off + lo) / 8 + i))).flatten ++ poisonWords f d dst (off + r.2) rs

/-- A LOAD starts: its lines are read through their home tile caches (R152, R221, R224). -/
def startLoad (f : Fuses) (d : Dev) (c : Nat) (t : Thr) (m : MoveOp) : Dev :=
  match heldRuns d ((ctxOf d c).getD 4096) false m.src m.len with
  | none => d
  | some rs =>
    if rs.all (runReady f d (moveWho f c m)) = false then d
    else
      let m := { m with started := true, data := runBytes d rs, bad := poisonWords f d m.dst 0 rs }
      setHead (noteRead f d (moveWho f c m) rs) c t m

/-- A QPOP starts: the head deliverable item is taken, padded with zero words, and RP passes it; with nothing
deliverable the thread faults with QUEUE_EMPTY (R128). -/
def startPop (f : Fuses) (d : Dev) (c : Nat) (t : Thr) (m : MoveOp) : Dev :=
  let k := d.core c
  let q := k.queue m.src
  let g := k.qcfgOf m.src
  match q.items with
  | i :: rest =>
    if i.delivered = false then
      faultThread f (popHead d c t) c t { status := Status.queueEmpty, source := srcOf t, stroke := m.stroke, index := m.src }
    else
      let at_ := fun j => g.base + 8 * ((i.start + j) % g.size)
      match k.badIn ((List.range i.len).map (fun j => (at_ j, 8))) with
      | some a => plateUeFault f (popHead d c t) c t m.stroke a 1
      | none =>
        let l := ((List.range i.len).map (fun j => readBytes k.plate (at_ j) 8)).flatten
        let (rp, items) := releaseVoid g.size ((q.rp + i.len) % g.size) rest
        let k := k.setQueue m.src { q with rp := rp, items := items }
        setHead (d.setCore c k) c t { m with started := true, data := slice l 0 512 }
  | [] =>
    faultThread f (popHead d c t) c t { status := Status.queueEmpty, source := srcOf t, stroke := m.stroke, index := m.src }

/-- MOVE_START (R155, R617): a mover channel starts its oldest stroke once the one before has completed. -/
def moveStart (c : Nat) (t : Thr) (u : Upset) (f : Fuses) (d : Dev) : Dev :=
  match (d.core c).mov t with
  | m :: _ =>
    if m.started then d
    else if m.empty then finishMove f (popHead d c t) c t m 0
    else if m.op = 0 then startLoad f d c t m
    else if m.op = 5 then startPop f (meetUpset d c u ((((d.core c).queue m.src).items.take 1).map (fun i => (((d.core c).qcfgOf m.src).base + 8 * i.start, 8 * i.len)))) c t m
    else if m.op = 6 then setHead (flushQueue d c m.src) c t { m with started := true }
    else startFromPlate f (meetUpset d c u [(m.src, m.len)]) c t m
  | [] => d

/-! ## MOVE_COMPLETE (R617) -/

/-- Where a transfer's bytes go when its writes are accepted. -/
def landMove (f : Fuses) (d : Dev) (c : Nat) (m : MoveOp) : Dev :=
  if m.op = 1 then
    match heldRuns d ((ctxOf d c).getD 4096) true m.dst m.data.length with
    | some rs => writeRuns f d (moveWho f c m) rs m.data
    | none => d
  else if m.op = 0 ∨ m.op = 2 ∨ m.op = 5 then
    d.modCore c (fun k => let k := k.patch ⟨m.dst, m.data⟩; { k with plateBad := m.bad ++ k.plateBad })
  else if m.op = 3 then
    match m.tgt with
    | some x => if x.device f d = devAddr f d then d.modCore x.core (fun k => k.patch ⟨m.dst, m.data⟩) else d
    | none => d
  else d

/-- The writes of a transfer can be accepted: a STORE waits for its stacks (R231) and for a granule a proof protects
(R419). -/
def landReady (f : Fuses) (d : Dev) (c : Nat) (m : MoveOp) : Bool :=
  if m.op = 1 then
    match heldRuns d ((ctxOf d c).getD 4096) true m.dst m.data.length with
    | some rs => rs.all (writeReady f d (moveWho f c m))
    | none => true
  else decide (m.awaiting = 0)

/-- The statuses a queue word can return (R121, R127). -/
def wordStatuses : List Nat :=
  [0, Status.noCore, Status.queueOverflow, Status.flushed, Status.itemLength, Status.noItem, Status.queueOff]

/-- The words of the stroke went to another device, which answers them (R125). -/
def MoveOp.remote (f : Fuses) (d : Dev) (m : MoveOp) : Bool :=
  m.op == 4 && (match m.tgt with | some x => x.device f d != devAddr f d | none => false)

/-- MOVE_COMPLETE (R617): the writes of the channel's oldest stroke are accepted; it signals, notifies and records
its status.  `remote` is the first status other than OK that another device returned for a word of a QSEND (R127), and 0 for
every other stroke.  A transfer that met an uncorrectable word faults there, with no signal and no notification (R105). -/
def moveComplete (c : Nat) (t : Thr) (remote : Nat) (f : Fuses) (d : Dev) : Dev :=
  match (d.core c).mov t with
  | m :: _ =>
    if m.started = false ∨ landReady f d c m = false ∨ (if m.remote f d then wordStatuses.contains remote else remote == 0) = false then d
    else
      let d := popHead (landMove f d c m) c t
      match m.ue with
      | some a => plateUeFault f d c t m.stroke a 1
      | none => finishMove f d c t m (if m.result ≠ 0 then m.result else remote)
  | [] => d

end Sys2Proof.Machine
end

