-- ==== Sys2Proof/Machine/Coll.lean ====
section
/-! DEFINITION. Collectives: groups, rings and the division of the work, the exact sums and their wire forms, chunk
tokens, and the COLL strokes (R319 to R337, R348, R349). -/

namespace Sys2Proof.Machine

/-! ## Division of the work (R328, R330, R331) -/

/-- Elements of a unit (R328). -/
def CollRun.unit (r : CollRun) : Nat := if r.ifmt.isBlock || r.ofmt.isBlock then 32 else 1

/-- A reduction (R326). -/
def CollRun.reduces (r : CollRun) : Bool := r.op == 1 || r.op == 2

/-- The directions a collective runs in (R330). -/
def collDirs (x : GroupDesc) (r : CollRun) : List Nat := if x.bidir && r.op != 3 then [0, 1] else [0]

/-- The units of a part of `u` units that sub-ring `k` runs in a direction (R328, R330). -/
def halfUnits (x : GroupDesc) (r : CollRun) (k dir u : Nat) : Nat × Nat :=
  let c := max 1 x.subs
  let lo := k * u / c
  let hi := (k + 1) * u / c
  if (collDirs x r).length = 2 then
    let mid := lo + (hi - lo) / 2
    if dir = 0 then (lo, mid) else (mid, hi)
  else (lo, hi)

/-- The part of a position in a direction: the element of the whole buffer at which PART begins, and the elements of
it, counted within PART (R328, R330, R348). -/
def partOf (x : GroupDesc) (r : CollRun) (g : Ring) (dir pos : Nat) : Nat × Nat × Nat :=
  let u := r.unit
  let (lo, hi) := halfUnits x r g.k dir (r.count / u)
  if r.op = 2 then
    let n := max 1 g.size
    let a := lo + pos * (hi - lo) / n
    let b := lo + (pos + 1) * (hi - lo) / n
    (u * a, 0, u * (b - a))
  else if r.op = 4 then (0, u * lo, u * hi)
  else (g.ranks.getD pos 0 * r.count, u * lo, u * hi)

/-- Bytes on the wire of 32 elements of a form: 0 raw, 1 narrow, 2 AP (R333 to R336). -/
def wire32 (r : CollRun) (form : Nat) : Nat :=
  if form = 0 then 4 * r.ofmt.width + (if r.ofmt.isBlock then 1 else 0)
  else if form = 1 then 264 else 640

/-- Bytes on the wire of 32 elements of the anchor or scale phase (R333, R335). -/
def rec32 (r : CollRun) : Nat := if r.acc = 1 then 64 else 4

/-- Elements one packet carries: whole units below the largest BYTES less the header (R301, R348; log entry 41). -/
def packetElems (b32 : Nat) : Nat := 32 * (14288 / b32)

/-- Elements of a chunk (R331). -/
def chunkElems (r : CollRun) : Nat :=
  let b := wire32 r (if r.reduces then r.form else 0)
  if r.unit = 1 then max 1 (32 * r.chunk / b) else max 32 (32 * (r.chunk / b))

/-- Cut a run of elements into pieces of at most `n`: first element and length.  The fuel bounds their number. -/
def cutRun (n : Nat) : Nat → Nat → Nat → List (Nat × Nat)
  | 0, _, _ => []
  | k + 1, lo, hi => if lo ≥ hi ∨ n = 0 then [] else (lo, min n (hi - lo)) :: cutRun n k (lo + n) hi

def cuts (n lo hi : Nat) : List (Nat × Nat) := cutRun n (ceilDiv (hi - lo) (max 1 n)) lo hi

/-- The output elements a member gains in a direction, at each step in order (R326, R331). -/
def stepParts (x : GroupDesc) (r : CollRun) (g : Ring) (dir : Nat) : List (Nat × Nat) :=
  let n := g.size
  let at_ := fun pos => let (b, lo, hi) := partOf x r g dir pos; (b + lo, b + hi)
  if r.op = 1 then (let (_, lo, hi) := partOf x r g dir g.me; [(lo, hi)])
  else if r.op = 4 then (if g.ranks.contains x.root then [at_ 0] else [])
  else if r.op = 5 then []
  else (List.range n).map (fun s => at_ (if r.op = 3 ∨ dir = 0 then (g.me + n - s) % n else (g.me + s) % n))

/-- The output elements of the parts of a member, in the order their chunk tokens follow (R331): step by step, the lower half
before the upper. -/
def outParts (x : GroupDesc) (r : CollRun) (g : Ring) : List (Nat × Nat) :=
  ((List.range g.size).map (fun s => ((collDirs x r).map (fun dir => ((stepParts x r g dir)[s]?).toList)).flatten)).flatten

/-- The output chunks of a member, in order: first element and length (R331). -/
def outChunks (x : GroupDesc) (r : CollRun) (g : Ring) : List (Nat × Nat) :=
  ((outParts x r g).map (fun p => cuts (chunkElems r) p.1 p.2)).flatten

/-- Whether finished runs cover an interval of elements.  The fuel is the number of runs. -/
def covers (l : List (Nat × Nat)) : Nat → Nat → Nat → Bool
  | 0, lo, hi => decide (hi ≤ lo)
  | k + 1, lo, hi =>
    if hi ≤ lo then true
    else match l.find? (fun p => decide (p.1 ≤ lo ∧ lo < p.1 + p.2)) with
      | some p => covers l k (p.1 + p.2) hi
      | none => false

/-! ## Reading and writing elements -/

/-- Who the collective of a core is when it accesses device memory (R30, R513). -/
def collWho (f : Fuses) (d : Dev) (c : Nat) : Who :=
  { tile := f.tileOf c, act := 1, stamp := match (d.core c).coll with | some r => r.stamp | none => d.stampNow }

/-- Bytes of a plane of a collective's operand, and the address of an uncorrectable Plate word among them (R349). -/
def collBytes (d : Dev) (c : Nat) (mem : Bool) (a n : Nat) : List Byte × Option Nat :=
  if mem then (runBytes d ((heldRuns d ((ctxOf d c).getD 4096) false a n).getD []), none)
  else (readBytes (plateView d c .coll) a n, (d.core c).badWord a n)

/-- The byte range that holds elements of `w` bits: its first byte and its length. -/
def elemBytes (w a n : Nat) : Nat × Nat := (w * a / 8, ceilDiv (w * (a + n)) 8 - w * a / 8)

/-- Codes and scales of a run of elements of an operand, and an uncorrectable word. -/
structure Piece where
  codes : List Nat
  scales : List Nat
  ue : Option Nat := none
  deriving DecidableEq, Repr

/-- The codes of `n` elements from element `a` of a byte string that begins at byte `o`. -/
def codesAt (w a n o : Nat) (l : List Byte) : List Nat :=
  let v := leNat l
  (List.range n).map (fun i => (v >>> (w * (a + i) - 8 * o)) % 2 ^ w)

/-- Read a run of elements of an operand (R326). -/
def readPiece (d : Dev) (c : Nat) (b : CollBuf) (x : Fmt) (a n : Nat) : Piece :=
  let (o, k) := elemBytes x.width a n
  let (l, u) := collBytes d c b.mem (b.addr + o) k
  let (sl, su) := if x.isBlock then collBytes d c b.mem (b.sadr + a / 32) (ceilDiv n 32) else ([], none)
  { codes := codesAt x.width a n o l, scales := sl.map BitVec.toNat, ue := u.or su }

/-- The device memory that holds a run of elements of an operand, both its planes; none for one in the Plate. -/
def pieceRuns (d : Dev) (c : Nat) (b : CollBuf) (w : Bool) (x : Fmt) (a n : Nat) : List (Nat × Nat) :=
  let get := fun a n => (heldRuns d ((ctxOf d c).getD 4096) w a n).getD []
  let (o, k) := elemBytes x.width a n
  if b.mem then get (b.addr + o) k ++ (if x.isBlock then get (b.sadr + a / 32) (ceilDiv n 32) else []) else []

/-- The memory accesses of a read of an operand. -/
def notePiece (f : Fuses) (d : Dev) (c : Nat) (b : CollBuf) (x : Fmt) (a n : Nat) : Dev :=
  if b.mem then noteRead f d (collWho f d c) (pieceRuns d c b false x a n) else spendFree d (racing d c .coll)

/-- A line of a run of elements is poisoned (R349). -/
def piecePoison (f : Fuses) (d : Dev) (c : Nat) (b : CollBuf) (x : Fmt) (a n : Nat) : Bool :=
  !(poisonedIn f d (pieceRuns d c b false x a n)).isEmpty

/-- A run of elements can be read, or written, now (R231, R419). -/
def pieceReady (f : Fuses) (d : Dev) (c : Nat) (b : CollBuf) (w : Bool) (x : Fmt) (a n : Nat) : Bool :=
  (pieceRuns d c b w x a n).all (fun r => if w then writeReady f d (collWho f d c) r else runReady f d (collWho f d c) r)

/-- Write bytes of an operand. -/
def putCollBytes (f : Fuses) (d : Dev) (c : Nat) (mem : Bool) (a : Nat) (l : List Byte) : Dev :=
  if mem then
    match heldRuns d ((ctxOf d c).getD 4096) true a l.length with
    | some rs => writeRuns f d (collWho f d c) rs l
    | none => d
  else d.modCore c (fun k => k.patch ⟨a, l⟩)

/-- Write a run of elements of an operand; bits of other elements in the first and last byte stay. -/
def putPiece' (f : Fuses) (d : Dev) (c : Nat) (b : CollBuf) (x : Fmt) (a : Nat) (codes scales : List Nat) : Dev :=
  let w := x.width
  let n := codes.length
  if n = 0 then d
  else
    let (o, k) := elemBytes w a n
    let old := leNat (collBytes d c b.mem (b.addr + o) k).1
    let sh := w * a - 8 * o
    let v := (codes.zipIdx).foldl (fun v p => v + p.1 % 2 ^ w * 2 ^ (w * p.2)) 0
    let new := old % 2 ^ sh + v * 2 ^ sh + old / 2 ^ (sh + w * n) * 2 ^ (sh + w * n)
    let d := putCollBytes f d c b.mem (b.addr + o) (leBytes k new)
    if x.isBlock then putCollBytes f d c b.mem (b.sadr + a / 32) (scales.map (BitVec.ofNat 8)) else d

/-! ## Exact sums (R333 to R337) -/

/-- An element on the wire: the integer and the specials of the map or of FLAGS (R333, R336). -/
structure WireEl where
  s : Int := 0
  nan : Bool := false
  inf : Bool := false
  neg : Bool := false
  trunc : Bool := false
  /-- a NaN formed here from infinities of opposite sign (R75) -/
  fresh : Bool := false
  deriving DecidableEq, Repr

/-- Add two partial sums (R62, R333, R336). -/
def WireEl.add (a b : WireEl) : WireEl :=
  let clash := a.inf && b.inf && a.neg != b.neg
  let nan := a.nan || b.nan || clash
  { s := a.s + b.s, nan := nan, inf := !nan && (a.inf || b.inf), neg := !nan && ((a.inf && a.neg) || (b.inf && b.neg)),
    trunc := a.trunc || b.trunc, fresh := clash && !a.nan && !b.nan }

/-- A special value as a wire element. -/
def specialEl (x : Num) : WireEl :=
  match x with
  | .nan => { nan := true }
  | .inf neg => { inf := true, neg := neg }
  | .fin _ _ _ => {}

/-- A value as an integer at 2^e and whether bits are lost: floor of the magnitude under its sign (R334, R335). -/
def atGrid (x : Num) (e : Int) : Int × Bool :=
  match x with
  | .fin neg m ex =>
    let sh := ex - e
    let k := if sh ≥ 0 then m * 2 ^ sh.toNat else m / 2 ^ (-sh).toNat
    (if neg then -(k : Int) else (k : Int), decide (sh < 0) && decide (m % 2 ^ (-sh).toNat ≠ 0))
  | _ => (0, false)

/-- The exponent of LSB of the narrow form (R334, R335). -/
def lsbExp (r : CollRun) (rc : AncRec) : Int :=
  match r.ifmt with
  | .f8e5 => -16
  | .f8e4 => -9
  | .bs8 => rc.mn - 127 - 9
  | .bi8 => rc.mn - 127
  | _ => 0

/-- E* of an element (R333, R335). -/
def anchorOf (r : CollRun) (rc : AncRec) : Int := if r.acc = 1 then rc.mx else rc.mx - 127 + etopx r.ifmt.elem + 24

/-- The record of the phase for a unit; one that no member holds a value for. -/
def noRec : AncRec := { mx := -32768, mn := 255, nan := false }

/-- A member's own contribution of one element (R333 to R336). -/
def contribution (r : CollRun) (rc : AncRec) (code scale : Nat) : WireEl :=
  if r.acc = 1 then
    let a := AP.ofBytes (leBytes 20 code)
    if a.isNan then { nan := true, trunc := a.trunc }
    else if a.inf then { inf := true, neg := a.neg, trunc := a.trunc }
    else let b := a.align rc.mx; { s := b.w, trunc := b.trunc }
  else
    let x := if r.ifmt.isBlock then decodeBlockElem r.ifmt scale code else decodeElem r.ifmt code
    match x with
    | .fin _ m _ =>
      if m = 0 then {}
      else if r.form = 1 then { s := (atGrid x (lsbExp r rc)).1 }
      else let (s, t) := atGrid x (anchorOf r rc - 126); { s := s, trunc := t }
    | _ => specialEl x

/-- The result of an element (R337): the value to be converted, and the AP to be written where OFMT is AP.  A NaN formed by a
sum has been counted there (R75), one by OVF counts at its conversion. -/
def collResult (r : CollRun) (rc : AncRec) (e : WireEl) : Val × AP :=
  if r.form = 1 then
    let x : Num := if e.nan then .nan else if e.inf then .inf e.neg
      else if e.s = 0 then .fin false 0 0 else .fin (decide (e.s < 0)) e.s.natAbs (lsbExp r rc)
    (Val.of x, x.toAP)
  else
    let (w, ovf) := windowOf e.s
    let a : AP := { w := w, e := anchorOf r rc, nan := e.nan, inf := e.inf, neg := e.neg, trunc := e.trunc, ovf := ovf }
    (⟨a.toNum, a.ovf && !a.nan⟩, a)

/-- Wire bytes of a run of partial sums (R333, R336). -/
def wireBytes (form : Nat) (l : List WireEl) : List Byte :=
  if form = 1 then
    (l.map (fun e => leBytes 8 (unsext 64 e.s))).flatten ++
      leBytes (ceilDiv l.length 4) ((l.zipIdx).foldl (fun v p =>
        v + (if p.1.nan then 1 else if p.1.inf then (if p.1.neg then 3 else 2) else 0) * 4 ^ p.2) 0)
  else
    (l.map (fun e =>
      let v := unsext 144 e.s
      leBytes 18 v ++ leBytes 2 ((AP.toBytes { AP.zero with nan := e.nan, inf := e.inf, neg := e.neg, trunc := e.trunc }).drop 18 |> leNat))).flatten

/-- Elements of a narrow or AP payload. -/
def wireCount (form : Nat) (n : Nat) : Nat := if form = 1 then 4 * n / 33 else n / 20

/-- A run of partial sums from wire bytes (R333, R336). -/
def wireEls (form : Nat) (l : List Byte) : List WireEl :=
  let n := wireCount form l.length
  if form = 1 then
    let m := field l (8 * n) (ceilDiv n 4)
    (List.range n).map (fun i =>
      let q := (m / 4 ^ i) % 4
      { s := sext 64 (field l (8 * i) 8), nan := q == 1, inf := q == 2 || q == 3, neg := q == 3 })
  else
    (List.range n).map (fun i =>
      let a := AP.ofBytes (zeros 18 ++ slice l (20 * i + 18) 2)
      { s := sext 144 (field l (20 * i) 18), nan := a.isNan, inf := a.inf, neg := a.neg, trunc := a.trunc })

/-- Wire bytes of converted elements: the element plane of the run, then its scale bytes (R348; log entry 42). -/
def rawBytes (x : Fmt) (codes scales : List Nat) : List Byte :=
  packPlane x.width codes ++ (if x.isBlock then scales.map (BitVec.ofNat 8) else [])

/-- Elements of a raw payload, at most `top`. -/
def rawCount (x : Fmt) (n top : Nat) : Nat :=
  if x.isBlock then 32 * (n / (4 * x.width + 1)) else min top (8 * n / x.width)

/-! ## Packets (R348) -/

/-- The collective header of R348.  A DATA packet that carries no elements marks the chunk that begins at its ELEM as poisoned
(R349; log entry 43). -/
structure CollHdr where
  grp : Nat
  epoch : Nat
  seq : Nat
  typ : Nat
  op : Nat := 0
  dir : Nat := 0
  form : Nat := 0
  rank : Nat
  arg : Nat := 0
  sub : Nat := 0
  part : Nat := 0
  sum : Nat := 0
  elem : Nat := 0
  deriving DecidableEq, Repr

def CollHdr.bytes (h : CollHdr) : List Byte :=
  leBytes 2 h.grp ++ leBytes 2 h.epoch ++ leBytes 4 h.seq ++ leBytes 1 h.typ ++ leBytes 1 (h.op + 8 * h.dir + 16 * h.form) ++
    leBytes 2 h.rank ++ leBytes 2 h.arg ++ leBytes 1 h.sub ++ leBytes 1 0 ++ leBytes 4 h.part ++
    leBytes 4 h.sum ++ leBytes 8 h.elem

def collHdr (l : List Byte) : CollHdr :=
  let o := field l 9 1
  { grp := field l 0 2 % 4096, epoch := field l 2 2, seq := field l 4 4, typ := field l 8 1, op := o % 8, dir := o / 8 % 2,
    form := o / 16 % 4, rank := field l 10 2, arg := field l 12 2, sub := field l 14 1,
    part := field l 16 4, sum := field l 20 4, elem := field l 24 8 }

/-- Send a collective packet to a rank: over the mesh to a core under AXIS NONE, over the torus on VC1 otherwise
(R330, R348). -/
def collSend (f : Fuses) (d : Dev) (h : CollHdr) (toId : Nat) (body : List Byte) : Dev :=
  let x := groupDesc f d h.grp
  let id := x.ids.getD toId 0
  let l := h.bytes ++ body
  if x.axis = 0 then sendMesh d (f.tileOf (x.ids.getD h.rank 0)) (f.tileOf id) 1 d.stampNow (.coll id l)
  else
    (routeSend f d { dest := withCoord f d (devAddr f d) (x.axis - 1) id, src := devAddr f d, kind := 6, act := 1, addr := 0,
                     data := l, vc := 1, stamp := d.stampNow }).1

/-- The number under which the mesh stands among the ports a packet has come by. -/
abbrev meshPort : Nat := 16

/-- Collective packets that have crossed the mesh reach the collective logic of their cores (R19, R24, R330). -/
def collArrive (d : Dev) : Dev :=
  d.mesh.foldl (fun d m => match m.body with
    | .coll id l => match meshHead d (.coll id l) with
      | some x =>
        let k : Packet := { dest := id, src := 0, kind := 6, act := x.act, addr := 0, data := l, vc := 1, stamp := x.stamp }
        let d := takeMesh d x
        { d with inbox := d.inbox ++ [(meshPort, k)] }
      | none => d
    | _ => d) d

/-- Two collective packets that are taken in the order in which they came (R24): of one group, sender, sub-ring and TYPE. -/
def sameStream (a b : CollHdr) : Bool := a.grp == b.grp && a.rank == b.rank && a.sub == b.sub && a.typ == b.typ

/-- The packet `l` for rank `toId` at the collective logic, when it is the oldest of its stream. -/
def collAt (d : Dev) (toId : Nat) (l : List Byte) : Option (Nat × Packet) :=
  (d.inbox.find? (fun q => q.2.kind == 6 && (q.1 != meshPort || q.2.dest == toId) && sameStream (collHdr q.2.data) (collHdr l))).filter
    (fun q => q.2.data == l)

/-- A collective packet is taken. -/
def takeColl (d : Dev) (toId : Nat) (l : List Byte) : Dev :=
  match collAt d toId l with
  | some q => { d with inbox := d.inbox.erase q }
  | none => d

/-- A collective packet of one TYPE that is there to be taken, handed to `g`. -/
def collMsg (typ toId : Nat) (l : List Byte) (d : Dev) (g : CollHdr → Dev) : Dev :=
  if (collAt d toId l).isSome && (collHdr l).typ == typ then g (collHdr l) else d

/-- The header of a DATA, ANCHOR or BARRIER packet of a run. -/
def runHdr (d : Dev) (r : CollRun) (g : Ring) (typ dir form part elem : Nat) : CollHdr :=
  { grp := r.grp, epoch := (d.group r.grp).epoch, seq := r.seq, typ := typ, op := r.op, dir := dir, form := form,
    rank := g.rank, sub := g.k, part := part, sum := r.sum, elem := elem }

/-- CFGSUM (R348). -/
def cfgSum (op count icode ocode rc acc n2 : Nat) : Nat :=
  crc32c (leBytes 1 op ++ leBytes 5 count ++ leBytes 1 icode ++ leBytes 1 ocode ++ leBytes 1 rc ++ leBytes 1 acc ++ leBytes 1 n2)

/-! ## A member's work -/

def Dev.setColl (d : Dev) (c : Nat) (r : CollRun) : Dev := d.modCore c (fun k => { k with coll := some r })

/-- Change the collective a core runs. -/
def Dev.modColl (d : Dev) (c : Nat) (h : CollRun → CollRun) : Dev :=
  d.modCore c (fun k => { k with coll := k.coll.map h })

/-- SEQ advances when every present member core of the device has completed, and STATE falls back to 1 then (R324, R325): while
a core has completed and another has not, the group is running. -/
def settleGroup (f : Fuses) (d : Dev) (g : Nat) : Dev :=
  let x := groupDesc f d g
  let gr := d.group g
  let cs := x.coreList.filter (fun c => x.axis != 0 || gr.present.testBit c)
  let gr := if cs != [] && cs.all (fun c => decide (SMap.get 0 gr.ahead c ≥ 1)) then
      { gr with seq := (gr.seq + 1) % 2 ^ 32, ahead := gr.ahead.map (fun p => (p.1, p.2 - 1)), bad := gr.bad.filter (· ≠ gr.seq) }
    else gr
  let running := x.coreList.any (fun c => match (d.core c).coll with | some r => r.grp == g | none => false) ||
    cs.any (fun c => decide (SMap.get 0 gr.ahead c ≥ 1))
  d.setGroup g { gr with state := if gr.state = 2 ∧ running = false then 1 else gr.state }

/-- A COLL stroke completes with a status (R325, R331, R349, R350): its signal, its status, SEQ. -/
def finishColl (f : Fuses) (d : Dev) (c : Nat) (r : CollRun) (st : Nat) : Dev :=
  let d := d.modCore c (fun k => { k with coll := none })
  let d := signal f d c r.sig r.stroke
  let d := recordStatus d c .B st
  let gr := d.group r.grp
  let d := if st = 0 ∨ st = Status.memUe then d.setGroup r.grp { gr with ahead := gr.ahead.put c (SMap.get 0 gr.ahead c + 1) } else d
  settleGroup f d r.grp

/-- A collective of a core faults its B thread (R348, R349): the stroke ends without a signal. -/
def faultColl (f : Fuses) (d : Dev) (c : Nat) (r : CollRun) (st : Nat) : Dev :=
  settleGroup f (faultThread f (d.modCore c (fun k => { k with coll := none })) c .B
    { status := st, source := 1, stroke := r.stroke }) r.grp

/-- An uncorrectable Plate word ends a collective with PLATE_UE (R168, R349). -/
def ueColl (f : Fuses) (d : Dev) (c : Nat) (r : CollRun) (a : Nat) : Dev :=
  settleGroup f (plateUeFault f (d.modCore c (fun k => { k with coll := none })) c .B r.stroke a 1) r.grp

/-- The record of a unit (R333, R335): of an element, or of a block. -/
def recOf (r : CollRun) (e : Nat) : AncRec := SMap.get noRec r.recs (if r.ifmt.isBlock then e / 32 else e)

/-- The chunk of a part an element lies in, as a run within PART (R331, R349). -/
def chunkAround (r : CollRun) (lo hi e : Nat) : Nat × Nat :=
  let n := chunkElems r
  let a := lo + (e - lo) / n * n
  (a, min n (hi - a))

/-- A member's own contribution to a part (R333 to R336). -/
def ownSums (r : CollRun) (base e : Nat) (p : Piece) : List WireEl :=
  (p.codes.zipIdx).map (fun q =>
    contribution r (recOf r (base + e + q.2)) q.1 (p.scales.getD ((base + e + q.2) / 32 - (base + e) / 32) 0))

/-- An output run is finished: its writes have been accepted (R331). -/
def markDone (d : Dev) (c e n : Nat) : Dev := d.modColl c (fun r => { r with finished := r.finished ++ [(e, n)] })

/-- Where an element of a part goes in the output (R326). -/
def outAt (r : CollRun) (base e : Nat) : Nat := if r.op = 1 then e else base + e

/-- Converted codes and scales of a run of results, with the events and the elements that carry TRUNC (R337). -/
def convertRun (f : Fuses) (d : Dev) (r : CollRun) (base e : Nat) (l : List WireEl) : List Nat × List Nat × Ev × Nat :=
  let rs := (l.zipIdx).map (fun p => collResult r (recOf r (base + e + p.2)) p.1)
  let tr := if r.form = 2 then (l.filter WireEl.trunc).length else 0
  if r.ofmt = .ap then (rs.map (fun v => leNat v.2.toBytes), [], {}, tr)
  else
    let ks := noiseKey (noiseSeed f d) 3 r.grp 0
    let ns := if r.rc.rnd = 2 then (List.range l.length).map (fun i => noiseAt ks r.seq (base + e + i)) else List.replicate l.length 0
    if r.ofmt.isBlock then
      let (ss, es, ev) := writeBlocks r.ofmt.elem r.rc (ceilDiv l.length 32) ns (rs.map Prod.fst)
      (es, ss, ev, tr)
    else
      let (es, ev) := writePlains r.ofmt r.rc ns (rs.map Prod.fst)
      (es, [], ev, tr)

/-- The owner forms and writes the results of a run (R337); under ALLREDUCE it passes them on (R330). -/
def finalRun (f : Fuses) (d : Dev) (c : Nat) (r : CollRun) (g : Ring) (dir base e : Nat) (l : List WireEl) : Dev :=
  let (codes, scales, ev, tr) := convertRun f d r base e l
  let d := countEv d c ev
  let d := d.modGroup r.grp (fun x => { x with trunc := satAdd (2 ^ 64 - 1) x.trunc tr })
  let d := putPiece' f d c r.dst r.ofmt (outAt r base e) codes scales
  let d := markDone d c (outAt r base e) l.length
  if r.op = 2 ∧ g.size > 1 then
    collSend f d (runHdr d r g 0 dir 0 g.rank e) (g.ranks.getD (g.succ dir) 0) (rawBytes r.ofmt codes scales)
  else d

/-- A chunk is marked as poisoned at a member (R349).  Its elements are written nowhere, the collective completes with MEM_UE at
every core of the device, and the mark goes on round the ring until each member has it; under ALLTOALL the member whose slot it
is tells every other.  A member that has completed before the mark reaches it has completed OK (log entry 43). -/
def markChunk (f : Fuses) (d : Dev) (c : Nat) (r : CollRun) (g : Ring) (m : CollMark) : Dev :=
  let d := d.modGroup r.grp (fun gr => if gr.bad.contains r.seq then gr else { gr with bad := r.seq :: gr.bad })
  if r.marks.contains m then d
  else
    let (base, lo, hi) := partOf (groupDesc f d r.grp) r g m.dir (g.ranks.idxOf (if r.op = 3 then m.src else m.part))
    let (a, n) := chunkAround r lo hi m.elem
    let mine := decide ((r.op ≠ 1 ∧ r.op ≠ 3) ∨ m.part = g.rank)
    let d := d.modColl c (fun q => { q with
      marks := m :: q.marks, finished := if mine then q.finished ++ [(outAt r base a, n)] else q.finished })
    let tell := fun (d : Dev) (toId : Nat) =>
      collSend f d (runHdr d r g 0 m.dir (if r.reduces then r.form else 0) m.part m.elem) toId []
    if r.op = 3 then (if m.src = g.rank then (g.ranks.filter (· ≠ g.rank)).foldl tell d else d)
    else if g.size > 1 then tell d (g.ranks.getD (g.succ m.dir) 0)
    else d

/-- A core still runs the collective `r`. -/
def stillRuns (d : Dev) (c : Nat) (r : CollRun) : Bool :=
  match (d.core c).coll with
  | some x => x.grp == r.grp && x.stroke == r.stroke
  | none => false

/-- The rank whose segment, slot or division a position's part belongs to (R348): of a broadcast it is the root's. -/
def partRank (x : GroupDesc) (r : CollRun) (g : Ring) (pos : Nat) : Nat := if r.op = 4 then x.root else g.ranks.getD pos 0

/-- Where the elements of a part whose buffer begins at `base` lie in a member's input (R326): that of ALLGATHER is its own
part alone. -/
def srcBase (r : CollRun) (base : Nat) : Nat := if r.op = 0 then 0 else base

/-- One packet's run of the first step of a direction (R330): a reduction sends its contribution to the part of its predecessor;
the others send and write their own. -/
def startRun (f : Fuses) (d : Dev) (c : Nat) (r : CollRun) (g : Ring) (dir pos : Nat) (e n : Nat) : Dev :=
  let x := groupDesc f d r.grp
  let base := (partOf x r g dir pos).1
  let p := readPiece d c r.src r.ifmt (srcBase r base + e) n
  let d := notePiece f d c r.src r.ifmt (srcBase r base + e) n
  let next := g.ranks.getD (g.succ dir) 0
  match p.ue with
  | some a => ueColl f d c r a
  | none =>
    if r.reduces then
      if g.size = 1 then finalRun f d c r g dir base e (ownSums r base e p)
      else collSend f d (runHdr d r g 0 dir r.form (g.ranks.getD pos 0) e) next (wireBytes r.form (ownSums r base e p))
    else if r.op = 3 ∧ pos ≠ g.me then
      collSend f d (runHdr d r g 0 dir 0 (g.ranks.getD pos 0) e) (g.ranks.getD pos 0) (rawBytes r.ifmt p.codes p.scales)
    else
      let d := markDone (putPiece' f d c r.dst r.ofmt (base + e) p.codes p.scales) c (base + e) n
      if g.size > 1 ∧ r.op ≠ 3 then
        collSend f d (runHdr d r g 0 dir 0 (partRank x r g pos) e) next (rawBytes r.ifmt p.codes p.scales)
      else d

/-- A chunk of the first step (R330, R331, R349): a member that reads a poisoned line in it marks it, else its packets go. -/
def startChunk (f : Fuses) (d : Dev) (c : Nat) (r : CollRun) (g : Ring) (dir pos : Nat) (e n : Nat) : Dev :=
  let x := groupDesc f d r.grp
  let a := srcBase r (partOf x r g dir pos).1 + e
  if piecePoison f d c r.src r.ifmt a n then
    markChunk f (notePiece f d c r.src r.ifmt a n) c r g
      { dir := dir, part := partRank x r g pos, elem := e, src := if r.op = 3 then g.rank else 0 }
  else
    (cuts (packetElems (wire32 r (if r.reduces then r.form else 0))) e (e + n)).foldl
      (fun d q => if stillRuns d c r then startRun f d c r g dir pos q.1 q.2 else d) d

/-- The parts a member reads in its first step, by direction and position (R330). -/
def firstParts (x : GroupDesc) (r : CollRun) (g : Ring) : List (Nat × Nat) :=
  ((collDirs x r).map (fun dir =>
    if r.reduces then [(dir, if g.size = 1 then g.me else g.pred dir)]
    else if r.op = 0 then [(dir, g.me)]
    else if r.op = 4 then (if g.rank = x.root then [(dir, g.me)] else [])
    else (List.range g.size).map (fun s => (dir, (g.me + s) % g.size)))).flatten

/-- The memory a member's first step reads, and writes, can be accessed now (R231, R419). -/
def firstReady (f : Fuses) (d : Dev) (c : Nat) (r : CollRun) (g : Ring) : Bool :=
  let x := groupDesc f d r.grp
  (firstParts x r g).all (fun p =>
    let (base, lo, hi) := partOf x r g p.1 p.2
    pieceReady f d c r.src false r.ifmt (srcBase r base + lo) (hi - lo) &&
      (p.2 != g.me || pieceReady f d c r.dst true r.ofmt (outAt r base lo) (hi - lo)))

/-- The data phase begins at a core (R330). -/
def startData (f : Fuses) (d : Dev) (c : Nat) (r : CollRun) (g : Ring) : Dev :=
  let x := groupDesc f d r.grp
  let r := { r with data := true }
  (firstParts x r g).foldl (fun d p =>
    let (_, lo, hi) := partOf x r g p.1 p.2
    (cuts (chunkElems r) lo hi).foldl (fun d q => if stillRuns d c r then startChunk f d c r g p.1 p.2 q.1 q.2 else d) d)
    (d.setColl c r)

/-! ## The anchor and scale phases (R333, R335) -/

/-- A reduction runs a phase before its data (R333 to R335). -/
def CollRun.hasPhase (r : CollRun) : Bool := r.reduces && (r.acc == 1 || r.ifmt.isBlock)

/-- Elements of a record of the phase. -/
def CollRun.recUnit (r : CollRun) : Nat := if r.acc = 1 then 1 else 32

/-- The member's own record of a unit (R333, R335). -/
def ownRec (r : CollRun) (codes : List Nat) (scale : Nat) : AncRec :=
  if r.acc = 1 then
    let a := AP.ofBytes (leBytes 20 (codes.headD 0))
    { mx := a.e, mn := 255, nan := false }
  else if scale = 255 then { mx := 0, mn := 255, nan := true }
  else if codes.all (fun c => (decodeElem r.ifmt.elem c).isZero) then { mx := 0, mn := 255, nan := false }
  else { mx := scale, mn := scale, nan := false }

/-- Two records of a unit together. -/
def AncRec.join (a b : AncRec) : AncRec := { mx := max a.mx b.mx, mn := min a.mn b.mn, nan := a.nan || b.nan }

/-- The member's own records of a run of elements of a part. -/
def ownRecs (r : CollRun) (p : Piece) : List AncRec :=
  let u := r.recUnit
  ((List.range (p.codes.length / u)).map (fun i => ownRec r ((p.codes.drop (u * i)).take u) (p.scales.getD i 0)))

/-- Wire bytes of records (R333, R335). -/
def recBytes (r : CollRun) (l : List AncRec) : List Byte :=
  (l.map (fun a => if r.acc = 1 then leBytes 2 (unsext 16 a.mx)
    else leBytes 1 a.mx.toNat ++ leBytes 1 a.mn.toNat ++ leBytes 1 (if a.nan then 1 else 0) ++ leBytes 1 0)).flatten

/-- Records from wire bytes. -/
def recsOf (r : CollRun) (l : List Byte) : List AncRec :=
  if r.acc = 1 then (List.range (l.length / 2)).map (fun i => { mx := sext 16 (field l (2 * i) 2), mn := 255, nan := false })
  else (List.range (l.length / 4)).map (fun i =>
    { mx := field l (4 * i) 1, mn := field l (4 * i + 1) 1, nan := field l (4 * i + 2) 1 % 2 == 1 })

/-- Records of a run are final at a member. -/
def storeRecs (d : Dev) (c base e : Nat) (l : List AncRec) : Dev :=
  d.modColl c (fun r => { r with
    recs := (l.zipIdx).foldl (fun m p => m.put ((base + e) / r.recUnit + p.2) p.1) r.recs
    recDone := r.recDone + l.length })

/-- Units of all parts a sub-ring reduces. -/
def phaseUnits (x : GroupDesc) (r : CollRun) (g : Ring) : Nat :=
  (((collDirs x r).map (fun dir => (List.range g.size).map (fun pos =>
    let (_, lo, hi) := partOf x r g dir pos; (hi - lo) / r.recUnit))).flatten).sum

/-- ceil(log2 n). -/
def clog2 (n : Nat) : Nat := if n ≤ 1 then 0 else Nat.log2 (n - 1) + 1

/-- The width test of R335 over the blocks a member holds. -/
def narrowFits (r : CollRun) (m : Nat) : Bool :=
  let gbits : Int := match r.ifmt with | .bs8 => 18 | _ => 7
  r.recs.all (fun p => decide (p.2.mx < p.2.mn) || decide ((clog2 m : Int) + gbits + (p.2.mx - p.2.mn) + 1 ≤ 64))

/-- The cores whose phases together decide the wire form (R335): every sub-ring of the device. -/
def phaseMates (x : GroupDesc) (c : Nat) : List Nat := if x.axis = 0 then [c] else x.coreList

/-- The phase ends when every sub-ring of the device has its records: the wire form is chosen for the whole collective
and the data phase is due (R333, R335). -/
def endPhase (f : Fuses) (d : Dev) (c : Nat) : Dev :=
  match (d.core c).coll with
  | none => d
  | some r =>
    let x := groupDesc f d r.grp
    let mates := phaseMates x c
    let ready := mates.all (fun m => match (d.core m).coll, ringOf f d r.grp m with
      | some q, some g => q.grp == r.grp && q.seq == r.seq && !q.data && decide (q.recDone ≥ phaseUnits x q g)
      | _, _ => false)
    if ready = false then d
    else
      let m' := (presentRanks x (d.group r.grp)).length
      let narrow := r.acc != 1 && mates.all (fun m => match (d.core m).coll with | some q => narrowFits q m' | none => true)
      mates.foldl (fun d m => d.modColl m (fun q => { q with form := if narrow then 1 else 2, due := .data })) d

/-- A read of the phase that meets a poisoned line: the collective completes with MEM_UE, and its data marks the chunk (R349). -/
def notePhase (f : Fuses) (d : Dev) (c : Nat) (r : CollRun) (a n : Nat) : Dev :=
  let bad := piecePoison f d c r.src r.ifmt a n
  let d := notePiece f d c r.src r.ifmt a n
  if bad then d.modGroup r.grp (fun gr => if gr.bad.contains r.seq then gr else { gr with bad := r.seq :: gr.bad }) else d

/-- The first step of the phase (R333, R335). -/
def startPhase (f : Fuses) (d : Dev) (c : Nat) (r : CollRun) (g : Ring) : Dev :=
  let x := groupDesc f d r.grp
  (firstParts x r g).foldl (fun d dp =>
    let (base, lo, hi) := partOf x r g dp.1 dp.2
    (cuts (packetElems (rec32 r)) lo hi).foldl (fun d q =>
      if stillRuns d c r = false then d
      else
        let p := readPiece d c r.src r.ifmt (base + q.1) q.2
        let d := notePhase f d c r (base + q.1) q.2
        match p.ue with
        | some a => ueColl f d c r a
        | none =>
          let l := ownRecs r p
          if g.size = 1 then storeRecs d c base q.1 l
          else collSend f d (runHdr d r g 1 dp.1 0 (g.ranks.getD dp.2 0) q.1) (g.ranks.getD (g.succ dp.1) 0) (recBytes r l)) d) d

/-- A collective goes on with what it is still to begin, once the memory it touches can be accessed. -/
def collGo (f : Fuses) (d : Dev) (c : Nat) : Dev :=
  match (d.core c).coll with
  | none => d
  | some r =>
    match ringOf f d r.grp c with
    | none => d
    | some g =>
      let q := { r with due := .nothing }
      if r.due = .nothing ∨ r.paused = true ∨ firstReady f d c r g = false then d
      else if r.due = .start ∧ r.hasPhase = true then endPhase f (startPhase f (d.setColl c q) c q g) c
      else startData f d c q g

/-- Every collective of the device that can go on does, in the order of the cores; a phase that ends lets data begin at cores
before it. -/
def collGoAll (f : Fuses) (d : Dev) : Dev :=
  let cs := (d.cores.filter (fun p => match p.2.coll with | some r => r.due != .nothing | none => false)).map Prod.fst
  let d := cs.foldl (collGo f) d
  cs.foldl (collGo f) d

/-- A collective begins, or begins again in a new epoch (R330, R333, R335, R342). -/
def beginColl (f : Fuses) (d : Dev) (c : Nat) : Dev :=
  match (d.core c).coll with
  | none => d
  | some r =>
    let r := { r with data := false, form := if r.acc = 1 then 2 else 1, recs := [], recDone := 0, seen := [], finished := [], next := 0,
                      marks := [], due := if r.op = 5 then .nothing else .start }
    let d := d.setColl c r
    match ringOf f d r.grp c with
    | none => d
    | some g =>
      if r.op ≠ 5 then collGo f d c
      else if g.size = 1 then finishColl f d c r 0
      else if g.me = 0 then collSend f d (runHdr d r g 13 0 0 0 0) (g.ranks.getD 1 0) []
      else d

/-! ## The strokes -/

/-- The run of a COLL stroke (R163). -/
def mkColl (k : Core) (c stamp : Nat) (gr : Group) (w : Nat) : CollRun :=
  let op := skOp w
  let h := if op = 5 then 0 else k.word (bits w 89 76)
  let i := fmtOf (bits h 79 76)
  let o := fmtOf (bits h 83 80)
  { grp := bits w 75 64, op := op, stroke := k.b.pc, seq := (gr.seq + SMap.get 0 gr.ahead c) % 2 ^ 32, count := bits h 75 36,
    ifmt := i, ofmt := o, rc := rcOf (bits h 86 84), acc := bits h 88 87, chunk := 2 ^ bits h 93 89,
    sum := cfgSum op (bits h 75 36) (bits h 79 76) (bits h 83 80) (bits h 86 84) (bits h 88 87) (bits h 93 89),
    src := if op = 5 then {} else collBuf k .B (bits h 21 8) i.isBlock,
    dst := if op = 5 then {} else collBuf k .B (bits h 35 22) o.isBlock,
    chtok := if bit w 97 then some (bits w 96 90) else none, sig := skSig w, stamp := stamp }

/-- The collective engine and the B thread's mover take a COLL stroke (R111, R325). -/
def collTakes (k : Core) : Bool := k.coll.isNone && k.movB.isEmpty

/-- The rows ALLGATHER to COLL_BARRIER: the issue of the B thread's next stroke, a COLL stroke of operation `op` (R163,
R325, R326).  R166 checks the group when the stroke becomes the next; a group that has become unusable since faults at the issue
(DESIGN CHOICE, log entry 150). -/
def collRow (op c : Nat) (f : Fuses) (d : Dev) : Dev :=
  let k := d.core c
  strokeGo f d c .B (fun w => skClass w == 6 && skOp w == op) (fun _ => collTakes k) (fun w =>
    let g := bits w 75 64
    if groupUsable f d ((ctxOf d c).getD 4096) g c = false then
      faultThread f d c .B { status := Status.groupNotFormed, source := 1, stroke := k.b.pc, requested := g }
    else
      issue f d c .B w (fun d' =>
        let r := mkColl k c d.stampNow (d'.group g) w
        let d' := d'.modGroup g (fun x => { x with state := 2 })
        let d' := d'.setColl c r
        if op ≠ 5 ∧ r.count = 0 then finishColl f d' c r 0 else beginColl f d' c))

/-- The status a collective completes with (R349). -/
def collEnd (d : Dev) (r : CollRun) : Nat := if (d.group r.grp).bad.contains r.seq then Status.memUe else 0

/-- COLL_CHUNK_DONE (R331, R342, R349): the next output chunk in the fixed order is finished and its token sent; after
the last the stroke completes. -/
def collChunkDone (c : Nat) (f : Fuses) (d : Dev) : Dev :=
  match (d.core c).coll with
  | none => d
  | some r =>
    match ringOf f d r.grp c with
    | none => d
    | some g =>
      let l := outChunks (groupDesc f d r.grp) r g
      if r.data = false ∨ r.op = 5 then d
      else match l[r.next]? with
        | none => if l = [] then finishColl f d c r (collEnd d r) else d
        | some (e, n) =>
          if covers r.finished r.finished.length e (e + n) = false then d
          else
            let fresh := decide (r.next ≥ r.sent)
            let r := { r with next := r.next + 1, sent := max r.sent (r.next + 1) }
            let d := d.setColl c r
            let d := match r.chtok with
              | some t => if fresh then addCounter f d c ⟨false, t⟩ 1 (srcOf (ownerOf ⟨false, t⟩)) r.stroke 0 else d
              | none => d
            if r.next = l.length then finishColl f d c r (collEnd d r) else d

/-! ## Receiving (R330, R333 to R338, R348) -/

/-- The core of this device a packet is for (R319, R348). -/
def collCore (f : Fuses) (d : Dev) (toId : Nat) (h : CollHdr) : Nat :=
  let x := groupDesc f d h.grp
  if x.axis = 0 then toId else x.coreList.getD h.sub 128

/-- Epochs in serial order: `a` is newer than `b` (R338). -/
def newer16 (a b : Nat) : Bool := let x := (a + 65536 - b) % 65536; decide (1 ≤ x ∧ x ≤ 32767)

/-- A header of this device for a message of the group protocol (R348). -/
def ctlHdr (f : Fuses) (d : Dev) (g typ arg me : Nat) : CollHdr :=
  let gr := d.group g
  { grp := g, epoch := gr.epoch, seq := gr.seq, typ := typ, rank := me, arg := arg,
    sum := if typ = 2 ∨ typ = 5 then groupDigest f d g else 0 }

/-- The rank that speaks for this device: its own, or under AXIS NONE that of core `to`. -/
def speaker (f : Fuses) (d : Dev) (g toId : Nat) : Nat :=
  let x := groupDesc f d g
  x.rankOf (if x.axis = 0 then toId else ownCoord f d x)

/-- A packet older than the epoch is discarded and counted; one that is newer is discarded and answered with
COMMIT_REQ (R338).  Otherwise `g` handles it. -/
def byEpoch (f : Fuses) (d : Dev) (toId : Nat) (l : List Byte) (g : Dev → CollHdr → Dev) : Dev :=
  let h := collHdr l
  let gr := d.group h.grp
  if gr.state ≠ 1 ∧ gr.state ≠ 2 ∧ gr.state ≠ 3 then takeColl d toId l
  else if h.epoch = gr.epoch then g d h
  else if newer16 h.epoch gr.epoch then
    let d := takeColl d toId l
    collSend f d (ctlHdr f d h.grp 12 0 (speaker f d h.grp toId)) h.rank []
  else (takeColl d toId l).modGroup h.grp (fun x => { x with stale := satAdd (2 ^ 64 - 1) x.stale 1 })

/-- A packet of a collective for a core: it waits while the core has not issued the stroke or is stopped; a DATA or
ANCHOR packet that disagrees with the running collective faults the B thread, and a BARRIER that does waits (R348). -/
def forRun (f : Fuses) (toId : Nat) (l : List Byte) (d : Dev) (h : CollHdr) (g : Dev → Nat → CollRun → Ring → Dev) : Dev :=
  let c := collCore f d toId h
  match (d.core c).coll with
  | none => d
  | some r =>
    if r.grp ≠ h.grp ∨ r.paused = true then d
    else if h.typ = 13 ∧ (r.seq ≠ h.seq ∨ r.op ≠ 5) then d
    else if h.typ ≠ 13 ∧ (r.seq ≠ h.seq ∨ r.op ≠ h.op ∨ r.sum ≠ h.sum) then faultColl f (takeColl d toId l) c r Status.collMismatch
    else match ringOf f d r.grp c with
      | none => d
      | some q => g d c r q

/-- An item a member waited for has arrived: the extensions of its timer are over (R339, R346). -/
def arrived (d : Dev) (h : CollHdr) : Dev := d.modGroup h.grp (fun gr => { gr with ext := gr.ext.del h.rank })

/-- The position that a packet's PART names: of its rank, or of the root (R348). -/
def partPos (g : Ring) (h : CollHdr) : Option Nat := if g.ranks.contains h.part then some (g.ranks.idxOf h.part) else none

/-- A reduction's partial sums arrive (R330): the member adds its own, and finishes the run or passes it on. -/
def takeSums (f : Fuses) (d : Dev) (c : Nat) (r : CollRun) (g : Ring) (h : CollHdr) (pos : Nat) (body : List Byte) : Dev :=
  let x := groupDesc f d r.grp
  let (base, lo, hi) := partOf x r g h.dir pos
  let els := wireEls h.form body
  let n := els.length
  let (a, m) := chunkAround r lo hi h.elem
  if piecePoison f d c r.src r.ifmt (base + a) m then
    markChunk f (notePiece f d c r.src r.ifmt (base + a) m) c r g { dir := h.dir, part := h.part, elem := a, src := 0 }
  else
    let p := readPiece d c r.src r.ifmt (base + h.elem) n
    let d := notePiece f d c r.src r.ifmt (base + h.elem) n
    match p.ue with
    | some a => ueColl f d c r a
    | none =>
      let sums := (els.zip (ownSums r base h.elem p)).map (fun q => q.1.add q.2)
      let d := countEv d c { nan := (sums.filter WireEl.fresh).length }
      if pos = g.me then finalRun f d c r g h.dir base h.elem sums
      else collSend f d (runHdr d r g 0 h.dir h.form h.part h.elem) (g.ranks.getD (g.succ h.dir) 0) (wireBytes h.form sums)

/-- The position a raw packet's elements come from: of its sender under ALLTOALL, else of its PART (R326). -/
def rawPos (r : CollRun) (g : Ring) (h : CollHdr) (pos : Nat) : Nat :=
  if r.op = 3 ∧ g.ranks.contains h.rank = true then g.ranks.idxOf h.rank else pos

/-- Elements arrive that are to be written as they are (R326, R330): they are written and passed on round the ring. -/
def takeRaw (f : Fuses) (d : Dev) (c : Nat) (r : CollRun) (g : Ring) (h : CollHdr) (pos : Nat) (body : List Byte) : Dev :=
  let x := groupDesc f d r.grp
  let (base, _, hi) := partOf x r g h.dir (rawPos r g h pos)
  let n := rawCount r.ofmt body.length (hi - h.elem)
  let w := r.ofmt.width
  let codes := codesAt w 0 n 0 body
  let scales := if r.ofmt.isBlock then (slice body (planeBytes w n) (n / 32)).map BitVec.toNat else []
  let d := markDone (putPiece' f d c r.dst r.ofmt (outAt r base h.elem) codes scales) c (outAt r base h.elem) n
  let last := g.ranks.getD (g.succ h.dir) 0 == h.part
  if r.op = 3 ∨ last then d
  else collSend f d (runHdr d r g 0 h.dir 0 h.part h.elem) (g.ranks.getD (g.succ h.dir) 0) body

/-- The memory a DATA packet's elements are read from and written to can be accessed now (R231, R419). -/
def dataReady (f : Fuses) (d : Dev) (c : Nat) (r : CollRun) (g : Ring) (h : CollHdr) (pos : Nat) (body : List Byte) : Bool :=
  let x := groupDesc f d r.grp
  if h.form = 0 then
    let (base, _, hi) := partOf x r g h.dir (rawPos r g h pos)
    pieceReady f d c r.dst true r.ofmt (outAt r base h.elem) (rawCount r.ofmt body.length (hi - h.elem))
  else
    let base := (partOf x r g h.dir pos).1
    let n := wireCount h.form body.length
    pieceReady f d c r.src false r.ifmt (base + h.elem) n &&
      (pos != g.me || pieceReady f d c r.dst true r.ofmt (outAt r base h.elem) n)

/-- A DATA packet of the running collective (R330, R337, R349): one without elements is a mark, one of a marked chunk is
dropped. -/
def takeData (f : Fuses) (d : Dev) (c : Nat) (r : CollRun) (g : Ring) (h : CollHdr) (pos : Nat) (body : List Byte) : Dev :=
  let (_, lo, hi) := partOf (groupDesc f d r.grp) r g h.dir (rawPos r g h pos)
  let m : CollMark := { dir := h.dir, part := h.part, elem := (chunkAround r lo hi h.elem).1, src := if r.op = 3 then h.rank else 0 }
  if body = [] then markChunk f d c r g m
  else if r.marks.contains m then d
  else if h.form = 0 then takeRaw f d c r g h pos body
  else if r.reduces && h.form == r.form then takeSums f d c r g h pos body
  else d

/-- COLL_DATA (R330, R337, R338, R348): a DATA packet at a core. -/
def collData (toId : Nat) (l : List Byte) (f : Fuses) (d : Dev) : Dev :=
  collMsg 0 toId l d (fun _ => byEpoch f d toId l (fun d h => forRun f toId l d h (fun d c r g =>
    match partPos g h with
    | none => takeColl d toId l
    | some pos =>
      if r.data = false ∨ dataReady f d c r g h pos (l.drop 32) = false then d
      else takeData f (arrived (takeColl d toId l) h) c r g h pos (l.drop 32))))

/-- A record of the phase comes back to a member that has it to store and to pass on: from its owner, or for the second time
(R330, R333). -/
def anchorGathers (r : CollRun) (g : Ring) (h : CollHdr) (pos : Nat) : Bool :=
  decide (pos ≠ g.me) && (g.pred h.dir == pos || r.seen.contains (h.dir, h.part, h.elem))

/-- An ANCHOR packet whose elements the member is to read waits while their memory cannot be accessed, or while the member has
not begun. -/
def anchorWaits (f : Fuses) (d : Dev) (c : Nat) (r : CollRun) (g : Ring) (h : CollHdr) (pos : Nat) (l : List Byte) : Bool :=
  let base := (partOf (groupDesc f d r.grp) r g h.dir pos).1
  r.due == .start ||
    (!r.data && r.hasPhase && !anchorGathers r g h pos &&
      !pieceReady f d c r.src false r.ifmt (base + h.elem) ((recsOf r (l.drop 32)).length * r.recUnit))

/-- Records of the phase at a member (R330, R333, R335). -/
def takeAnchor (f : Fuses) (d : Dev) (c : Nat) (r : CollRun) (g : Ring) (h : CollHdr) (pos : Nat) (l : List Byte) : Dev :=
  if r.data || !r.hasPhase then d
  else
    let base := (partOf (groupDesc f d r.grp) r g h.dir pos).1
    let got := recsOf r (l.drop 32)
    let to' := g.ranks.getD (g.succ h.dir) 0
    let pass := fun (d : Dev) (b : List Byte) => collSend f d (runHdr d r g 1 h.dir 0 h.part h.elem) to' b
    if anchorGathers r g h pos then
      let d := storeRecs d c base h.elem got
      endPhase f (if to' = h.part then d else pass d (l.drop 32)) c
    else
      let n := got.length * r.recUnit
      let p := readPiece d c r.src r.ifmt (base + h.elem) n
      let d := notePhase f d c r (base + h.elem) n
      match p.ue with
      | some a => ueColl f d c r a
      | none =>
        let all := (got.zip (ownRecs r p)).map (fun q => q.1.join q.2)
        if pos = g.me then endPhase f (pass (storeRecs d c base h.elem all) (recBytes r all)) c
        else pass (d.modColl c (fun r => { r with seen := (h.dir, h.part, h.elem) :: r.seen })) (recBytes r all)

/-- COLL_ANCHOR (R333, R335): records of the anchor or scale phase at a core. -/
def collAnchor (toId : Nat) (l : List Byte) (f : Fuses) (d : Dev) : Dev :=
  collMsg 1 toId l d (fun _ => byEpoch f d toId l (fun d h => forRun f toId l d h (fun d c r g =>
    match partPos g h with
    | none => takeColl d toId l
    | some pos => if anchorWaits f d c r g h pos l then d else takeAnchor f (arrived (takeColl d toId l) h) c r g h pos l)))

/-- COLL_BARRIER_PASS (R330): an arrival or a release at a core, passed on once the core has arrived itself. -/
def collBarrierPass (toId : Nat) (l : List Byte) (f : Fuses) (d : Dev) : Dev :=
  collMsg 13 toId l d (fun _ => byEpoch f d toId l (fun d h => forRun f toId l d h (fun d c r g =>
    if r.op ≠ 5 then d
    else
      let d := arrived (takeColl d toId l) h
      let nxt := g.ranks.getD (g.succ 0) 0
      let send := fun (d : Dev) (arg : Nat) => collSend f d { runHdr d r g 13 0 0 0 0 with arg := arg } nxt []
      if h.arg = 0 then
        if g.me = 0 then finishColl f (send d 1) c r 0 else send d 0
      else if g.me = 0 then d
      else finishColl f (if g.me + 1 < g.size then send d 1 else d) c r 0)))

end Sys2Proof.Machine
end

