-- ==== Sys2Proof/Machine/CollProto.lean ====
section
/-! DEFINITION. Collective groups over their life: forming and dissolving, deadlines, probes, epochs, exclusion, SLOW and
HOLD (R323, R338 to R347). -/

namespace Sys2Proof.Machine

/-! ## Forming (R323) -/

/-- A COLL stroke runs on the group at this device. -/
def groupRunning (f : Fuses) (d : Dev) (g : Nat) : Bool :=
  (groupDesc f d g).coreList.any (fun c => match (d.core c).coll with | some r => r.grp == g | none => false)

/-- The group as GROUP_FORM leaves it (R323). -/
def formedGroup (x : GroupDesc) : Group :=
  { state := 1, epoch := x.epoch0, present := if x.axis = 0 then x.cores else x.devs }

/-- Every other member's rank. -/
def otherRanks (f : Fuses) (d : Dev) (g : Nat) : List Nat :=
  let x := groupDesc f d g
  (List.range x.ranks).filter (fun r => r ≠ x.rankOf (ownCoord f d x))

/-- Members that asked and wait are told this device's digest (R323). -/
def answerAsked (f : Fuses) (d : Dev) (g : Nat) : Dev :=
  let gr := d.group g
  gr.asked.foldl (fun d r => collSend f d (ctlHdr f d g 5 0 (speaker f d g 0)) r []) (d.setGroup g { gr with asked := [] })

/-- A GROUP_FORM ends with a status (R323). -/
def endForm (f : Fuses) (d : Dev) (g st : Nat) : Dev :=
  let gr := d.group g
  match gr.forming with
  | none => d
  | some r =>
    let d := if st = 0 then d.setGroup g { formedGroup (groupDesc f d g) with asked := gr.asked }
      else d.setGroup g { gr with forming := none }
    r.handles.foldl (fun d h => completeHandle f d h st 0) d

/-- The group cannot be formed (R323, R343): its descriptor is not VALID, or this device was excluded and the group has not been
dissolved and given a new descriptor since (log entry 160). -/
def formBarred (x : GroupDesc) (gr : Group) : Bool := !x.valid || gr.state == 4 || gr.needDesc

/-- GROUP_FORM (R323): it completes at once under AXIS NONE; otherwise a FORM goes to every member device.  A second one while
the first is under way sends the FORMs again and completes with it (log entry 159). -/
def groupForm (f : Fuses) (d : Dev) (g h : Nat) : Dev :=
  let x := groupDesc f d g
  if groupRunning f d g then completeHandle f d h Status.groupBusy 0
  else if formBarred x (d.group g) then completeHandle f d h Status.groupConfig 0
  else
    let left := if x.axis = 0 then [] else otherRanks f d g
    let hs := match (d.group g).forming with | some r => r.handles | none => []
    let d := answerAsked f (d.modGroup g (fun gr => { gr with forming := some ⟨hs ++ [h], left⟩ })) g
    if left = [] then endForm f d g 0
    else left.foldl (fun d r => collSend f d (ctlHdr f d g 2 0 (speaker f d g 0)) r []) d

/-- The group is unformed (R322 to R324): STATE 0, and nothing of its collectives is left; its counters stay, and so does a
GROUP_FORM under way (log entry 159). -/
def Group.unformed (gr : Group) : Group :=
  { gr with state := 0, ahead := [], hold := false, ext := [], suspects := [], probing := [], bad := [] }

/-- GROUP_DISSOLVE (R323, R343): STATE 0; after an exclusion a new descriptor is needed. -/
def groupDissolve (f : Fuses) (d : Dev) (g h : Nat) : Dev :=
  if groupRunning f d g then completeHandle f d h Status.groupBusy 0
  else completeHandle f (d.modGroup g (fun gr => { gr.unformed with needDesc := gr.needDesc || gr.state == 4 })) h 0 0

/-- A committed descriptor unforms its group (R322); an excluded group stays excluded until it is dissolved (R343). -/
def newDescriptor (gr : Group) : Group := if gr.state = 4 then gr else { gr.unformed with needDesc := false }

/-- A member's digest for a group being formed (R323). -/
def formAnswer (f : Fuses) (d : Dev) (h : CollHdr) : Dev :=
  let gr := d.group h.grp
  match gr.forming with
  | none => d
  | some r =>
    if h.sum ≠ groupDigest f d h.grp then endForm f d h.grp Status.groupMismatch
    else
      let left := r.left.erase h.rank
      let d := d.setGroup h.grp { gr with forming := some { r with left := left } }
      if left = [] then endForm f d h.grp 0 else d

/-- COLL_FORM (R323): a member forms the group.  Its FORM counts as its answer; it is answered when this device forms
or has formed the group, and at once when this device holds a different descriptor. -/
def collForm (toId : Nat) (l : List Byte) (f : Fuses) (d : Dev) : Dev :=
  collMsg 2 toId l d (fun h =>
    let d := takeColl d toId l
    let gr := d.group h.grp
    let x := groupDesc f d h.grp
    let tell := fun (d : Dev) => collSend f d (ctlHdr f d h.grp 5 0 (speaker f d h.grp toId)) h.rank []
    if gr.forming.isSome then formAnswer f (tell d) h
    else if gr.state ≠ 0 ∨ (x.valid = true ∧ h.sum ≠ groupDigest f d h.grp) then tell d
    else d.setGroup h.grp { gr with asked := h.rank :: gr.asked.filter (· ≠ h.rank) })

/-- FORM_TIMEOUT (R323): 60 s have passed and a member has not answered. -/
def formTimeout (g : Nat) (f : Fuses) (d : Dev) : Dev := endForm f d g Status.formTimeout

/-! ## Abandoning and epochs (R341 to R345) -/

/-- The cores of this device that run a collective of the group. -/
def runners (f : Fuses) (d : Dev) (g : Nat) : List (Nat × CollRun) :=
  ((groupDesc f d g).coreList.map (fun c => match (d.core c).coll with
    | some r => if r.grp = g then [(c, r)] else []
    | none => [])).flatten

/-- Every running COLL stroke of the group completes with a status (R341, R343, R344). -/
def endRunners (f : Fuses) (d : Dev) (g st : Nat) : Dev :=
  (runners f d g).foldl (fun d p => finishColl f d p.1 p.2 st) d

/-- The group is abandoned at this device (R341, R344). -/
def abandonGroup (f : Fuses) (d : Dev) (g : Nat) : Dev :=
  (endRunners f d g Status.collAbandoned).modGroup g (fun x => { x with state := 5, suspects := [], probing := [], hold := false })

/-- EPOCH_NEW of a core's B thread (R162, R342). -/
def flagEpoch (d : Dev) (c : Nat) : Dev := d.modCore c (fun k => k.setTh .B (k.th .B).setEpochNew)

/-- The event EPOCH_CHANGED (R342): to the group's context and to the CMC, with the group in ARG. -/
def epochEvent (f : Fuses) (d : Dev) (g : Nat) : Dev :=
  cmcEvent (ctxEvent f d (groupDesc f d g).ctx Status.epochChanged g) Status.epochChanged g

/-- A COMMIT is adopted (R342, R343). -/
def adoptCommit (f : Fuses) (d : Dev) (g epoch present : Nat) : Dev :=
  let x := groupDesc f d g
  let d := d.modGroup g (fun gr => { gr with
    epoch := epoch, present := present, reforms := satAdd 0xFFFFFFFF gr.reforms 1, suspects := [], probing := [], ext := [], hold := false, bad := [] })
  let here := fun c => if x.axis = 0 then present.testBit c else present.testBit (ownCoord f d x)
  let d := x.coreList.foldl flagEpoch d
  let gone := (runners f d g).filter (fun p => !here p.1)
  let d := gone.foldl (fun d p => finishColl f d p.1 p.2 Status.excluded) d
  let d := if x.axis ≠ 0 ∧ present.testBit (ownCoord f d x) = false then d.modGroup g (fun gr => { gr with state := 4 })
    else epochEvent f d g
  (runners f d g).foldl (fun d p => beginColl f d p.1) d

/-- A COMMIT of the current epoch for a rank (R341, R343). -/
def sendCommit (f : Fuses) (d : Dev) (g me toId : Nat) : Dev :=
  collSend f d (ctlHdr f d g 7 0 me) toId (leBytes 32 (d.group g).present)

/-- The ranks of this device: its own, or every core's under AXIS NONE. -/
def ownRanks (f : Fuses) (d : Dev) (g : Nat) : List Nat :=
  let x := groupDesc f d g
  if x.axis = 0 then List.range x.ranks else [x.rankOf (ownCoord f d x)]

/-- The coordinator commits epoch e + 1 with a present set (R341, R345): a COMMIT to every member of the old set, this
device's own adoption. -/
def commitEpoch (f : Fuses) (d : Dev) (g me newPresent : Nat) : Dev :=
  let gr := d.group g
  let old := presentRanks (groupDesc f d g) gr
  let own := ownRanks f d g
  let d := adoptCommit f d g ((gr.epoch + 1) % 65536) newPresent
  (old.filter (fun r => !own.contains r)).foldl (fun d r => sendCommit f d g me r) d

/-- The identities of ranks as a PRESENT mask. -/
def maskOf (x : GroupDesc) (rs : List Nat) : Nat := (rs.map (fun r => 2 ^ x.ids.getD r 0)).sum

/-- The majority rule (R341): more than half of the old set, or exactly half with its lowest rank, and at least
MIN_PRESENT. -/
def quorum (x : GroupDesc) (old new : List Nat) : Bool :=
  (decide (2 * new.length > old.length) || (decide (2 * new.length = old.length) && new.contains (old.headD 0))) &&
    decide (new.length ≥ x.minPresent)

/-- The coordinator excludes ranks, or abandons (R341). -/
def exclude (f : Fuses) (d : Dev) (g me : Nat) (out : List Nat) : Dev :=
  let x := groupDesc f d g
  let old := presentRanks x (d.group g)
  let new := old.filter (fun r => !out.contains r)
  if quorum x old new then commitEpoch f d g me (maskOf x new)
  else
    let own := ownRanks f d g
    let d := (old.filter (fun r => !own.contains r)).foldl (fun d r => collSend f d (ctlHdr f d g 8 0 me) r []) d
    abandonGroup f d g

/-! ## Deadlines and probes (R339, R340, R344) -/

/-- A group that runs or is formed at this device. -/
def groupLive (d : Dev) (g : Nat) : Bool := let s := (d.group g).state; s == 1 || s == 2 || s == 3

/-- A proposal reaches the coordinator (R340): the suspect is probed. -/
def propose (f : Fuses) (d : Dev) (g me suspect proposer : Nat) : Dev :=
  let gr := d.group g
  match gr.probing.find? (fun p => p.rank == suspect) with
  | some _ =>
    d.setGroup g { gr with probing := gr.probing.map (fun p => if p.rank = suspect then { p with proposers := proposer :: p.proposers.filter (· ≠ proposer) } else p) }
  | none =>
    let d := d.setGroup g { gr with probing := gr.probing ++ [{ rank := suspect, proposers := [proposer] }] }
    collSend f d (ctlHdr f d g 4 0 me) suspect []

/-- The lowest present rank that is none of some (R339, R344). -/
def coordinator (f : Fuses) (d : Dev) (g : Nat) (but : List Nat) : Option Nat :=
  (presentRanks (groupDesc f d g) (d.group g)).find? (fun r => !but.contains r)

/-- The SUSPECTs of a member, or those of it to one coordinator, have their answer (R340, R344). -/
def answered (d : Dev) (g me toId : Nat) : Dev :=
  d.modGroup g (fun gr => { gr with suspects := gr.suspects.filter (fun s => s.me != me || s.sentTo != toId) })

/-- A member sends SUSPECT to a coordinator, itself where it is that (R339); one that names the same rank takes the place of its
last. -/
def sendSuspect (f : Fuses) (d : Dev) (g : Nat) (s : SuspectRec) : Dev :=
  let d := d.modGroup g (fun gr => { gr with suspects := gr.suspects.filter (fun x => x.me != s.me || x.rank != s.rank) ++ [s] })
  if s.sentTo = s.me then propose f d g s.me s.rank s.me
  else collSend f d (ctlHdr f d g 3 s.rank s.me) s.sentTo []

/-- Output that a member still waits for in a direction: an element of its parts is not finished (R330, R339). -/
def CollRun.lacks (r : CollRun) (l : List (Nat × Nat)) : Bool :=
  l.any (fun p => !covers r.finished r.finished.length p.1 p.2)

/-- The member waits for an item from a rank (R339): a record of the phase, an element that the rank is to send it, a pass of a
barrier. -/
def awaits (f : Fuses) (d : Dev) (r : CollRun) (g : Ring) (rank : Nat) : Bool :=
  let x := groupDesc f d r.grp
  let before := fun dir => g.ranks.getD (g.pred dir) 0 == rank
  g.size > 1 && rank != g.rank && g.ranks.contains rank && r.due == .nothing &&
    (if r.op = 3 then
       let (base, lo, hi) := partOf x r g 0 (g.ranks.idxOf rank)
       r.lacks [(base + lo, base + hi)]
     else if r.op = 5 then before 0
     else (r.op != 4 || g.rank != x.root) && (collDirs x r).any (fun dir => before dir && (!r.data || r.lacks (stepParts x r g dir))))

/-- DEADLINE_EXPIRY (R339): the deadline timer of a core for an item from a rank expires. -/
def deadlineExpiry (c rank : Nat) (f : Fuses) (d : Dev) : Dev :=
  match (d.core c).coll with
  | none => d
  | some r =>
    match ringOf f d r.grp c with
    | none => d
    | some g =>
      if (d.group r.grp).hold || r.paused || !awaits f d r g rank then d
      else match coordinator f d r.grp [rank] with
        | none => d
        | some toId => sendSuspect f d r.grp { me := g.rank, rank := rank, sentTo := toId }

/-- SUSPECT (R340, R343): the suspect is probed; a member that is not present is sent the COMMIT. -/
def suspect (toId : Nat) (l : List Byte) (f : Fuses) (d : Dev) : Dev :=
  collMsg 3 toId l d (fun h =>
    let me := speaker f d h.grp toId
    if groupLive d h.grp && !(presentRanks (groupDesc f d h.grp) (d.group h.grp)).contains h.rank then
      sendCommit f (takeColl d toId l) h.grp me h.rank
    else byEpoch f d toId l (fun d h =>
      let d := takeColl d toId l
      if (presentRanks (groupDesc f d h.grp) (d.group h.grp)).contains h.arg then propose f d h.grp me h.arg h.rank else d))

/-- The state of a core for a group (R340): 0 RUNNING, 1 PENDING, 2 DEAD.  A STOPPED thread that has not issued the stroke answers
PENDING (DESIGN CHOICE, log entry 161). -/
def collState (f : Fuses) (d : Dev) (g c : Nat) : Nat :=
  let k := d.core c
  if (match k.coll with | some r => r.grp == g | none => false) then 0
  else if withdrawn d c || coreInReset f d c then 2
  else match k.b.state with
    | .run | .wait | .stopped => 1
    | _ => 2

/-- The answer to a PROBE (R340): the state of the core, or of the device's cores together. -/
def answerProbe (f : Fuses) (d : Dev) (toId : Nat) (h : CollHdr) : Dev :=
  let x := groupDesc f d h.grp
  let st := ((if x.axis = 0 then [toId] else x.coreList).map (collState f d h.grp)).foldl max 0
  collSend f d (ctlHdr f d h.grp 5 st (speaker f d h.grp toId)) h.rank []

/-- COLL_PROBE (R338, R340): answered in its epoch; a device on which the group is not live answers too, with its own epoch. -/
def collProbe (toId : Nat) (l : List Byte) (f : Fuses) (d : Dev) : Dev :=
  collMsg 4 toId l d (fun h =>
    if groupLive d h.grp then byEpoch f d toId l (fun d h => answerProbe f (takeColl d toId l) toId h)
    else answerProbe f (takeColl d toId l) toId h)

/-- A member that proposed a suspect restarts its timer (R340). -/
def sendExtend (f : Fuses) (d : Dev) (g me toId : Nat) : Dev :=
  if toId = me then answered d g me me
  else collSend f d (ctlHdr f d g 6 0 me) toId []

/-- A suspect has answered (R340): RUNNING or PENDING extends the proposers, DEAD marks it. -/
def takeReply (f : Fuses) (d : Dev) (toId : Nat) (h : CollHdr) : Dev :=
  let gr := d.group h.grp
  match gr.probing.find? (fun p => p.rank == h.rank) with
  | none => d
  | some p =>
    if h.arg ≥ 2 then
      d.setGroup h.grp { gr with probing := gr.probing.map (fun q => if q.rank = h.rank then { q with dead := true } else q) }
    else if p.dead then d
    else
      let d := d.setGroup h.grp { gr with probing := gr.probing.filter (fun q => q.rank != h.rank) }
      p.proposers.foldl (fun d r => sendExtend f d h.grp (speaker f d h.grp toId) r) d

/-- REPLY (R323, R338, R340): the answer of a suspect, or of a member of a group being formed. -/
def reply (toId : Nat) (l : List Byte) (f : Fuses) (d : Dev) : Dev :=
  collMsg 5 toId l d (fun h =>
    if (d.group h.grp).forming.isSome then formAnswer f (takeColl d toId l) h
    else byEpoch f d toId l (fun d h => takeReply f (takeColl d toId l) toId h))

/-- EXTEND (R340): the deadline timer starts again. -/
def extend (toId : Nat) (l : List Byte) (f : Fuses) (d : Dev) : Dev :=
  collMsg 6 toId l d (fun _ => byEpoch f d toId l (fun d h =>
    answered (takeColl d toId l) h.grp (speaker f d h.grp toId) h.rank))

/-- The members found excluded when the oldest probe has waited 1 ms: the one it asked, and every suspect that has
answered DEAD (R340). -/
def foundOut : List ProbeRec → List Nat
  | [] => []
  | p :: ps => p.rank :: (ps.filter ProbeRec.dead).map ProbeRec.rank

/-- PROBE_WAIT_EXPIRY (R340, R341): 1 ms has passed since the oldest probe; the suspects found excluded leave together. -/
def probeWaitExpiry (g : Nat) (f : Fuses) (d : Dev) : Dev :=
  let gr := d.group g
  match gr.probing with
  | [] => d
  | ps =>
    let me := ((ownRanks f d g).find? (fun r => ps.all (fun p => p.rank != r))).getD 0
    exclude f (d.setGroup g { gr with probing := [] }) g me (foundOut ps)

/-- SUSPECT_RETRY_EXPIRY (R344): 2 ms without EXTEND or COMMIT for the member whose SUSPECT is the oldest; it suspects the
coordinator at the next lowest rank, and after three attempts the collective is abandoned. -/
def suspectRetryExpiry (g : Nat) (f : Fuses) (d : Dev) : Dev :=
  match (d.group g).suspects with
  | [] => d
  | s :: rest =>
    if s.tries ≥ 3 then abandonGroup f d g
    else
      let next := (presentRanks (groupDesc f d g) (d.group g)).find? (fun r => decide (r > s.sentTo) && r != s.rank)
      let d := d.modGroup g (fun gr => { gr with suspects := rest })
      match next with
      | none => d.modGroup g (fun gr => { gr with suspects := rest ++ [{ s with tries := s.tries + 1 }] })
      | some toId => sendSuspect f d g { me := s.me, rank := s.sentTo, sentTo := toId, tries := s.tries + 1 }

/-- COLL_COMMIT (R338, R342, R343): a newer epoch is adopted. -/
def collCommit (toId : Nat) (l : List Byte) (f : Fuses) (d : Dev) : Dev :=
  collMsg 7 toId l d (fun h =>
    let d := takeColl d toId l
    let gr := d.group h.grp
    if groupLive d h.grp = false then d
    else if newer16 h.epoch gr.epoch then adoptCommit f d h.grp h.epoch (field l 32 32)
    else if h.epoch = gr.epoch then d
    else d.modGroup h.grp (fun x => { x with stale := satAdd (2 ^ 64 - 1) x.stale 1 }))

/-- ABANDON (R341): every running COLL stroke of the group completes with COLL_ABANDONED. -/
def abandon (toId : Nat) (l : List Byte) (f : Fuses) (d : Dev) : Dev :=
  collMsg 8 toId l d (fun _ => byEpoch f d toId l (fun d h => abandonGroup f (takeColl d toId l) h.grp))

/-- COMMIT_REQ (R338): answered with the latest COMMIT. -/
def commitReq (toId : Nat) (l : List Byte) (f : Fuses) (d : Dev) : Dev :=
  collMsg 12 toId l d (fun h =>
    let d := takeColl d toId l
    if groupLive d h.grp then sendCommit f d h.grp (speaker f d h.grp toId) h.rank else d)

/-! ## SLOW and HOLD (R346, R347) -/

/-- SLOW (R346): counted, and it extends the timer on its sender at most SLOW_MAX times for each item. -/
def slow (toId : Nat) (l : List Byte) (f : Fuses) (d : Dev) : Dev :=
  collMsg 9 toId l d (fun _ => byEpoch f d toId l (fun d h =>
    let n := (groupDesc f d h.grp).slowMax
    (takeColl d toId l).modGroup h.grp (fun gr => { gr with
      slowRx := satAdd 0xFFFFFFFF gr.slowRx 1
      ext := gr.ext.put h.rank (min n (SMap.get 0 gr.ext h.rank + 1)) })))

/-- The device throttles: G is below 64 on a tile (R346, R528). -/
def throttling (d : Dev) : Bool := (List.range 16).any (fun t => decide (gateG d t < 64))

/-- The ranks that wait on this member (R346). -/
def waitOnMe (f : Fuses) (d : Dev) (r : CollRun) (g : Ring) : List Nat :=
  if r.op = 3 then g.ranks.filter (· ≠ g.rank)
  else ((collDirs (groupDesc f d r.grp) r).map (fun dir => g.ranks.getD (g.succ dir) 0)).filter (· ≠ g.rank)

/-- The ranks a SLOW of a core's member goes to (R346): those that wait on its collective of the group; where it runs none of
it, its successor and under BIDIR its predecessor. -/
def slowTo (f : Fuses) (d : Dev) (g c : Nat) (q : Ring) : List Nat :=
  let idle := ((if (groupDesc f d g).bidir then [0, 1] else [0]).map (fun dir => q.ranks.getD (q.succ dir) 0)).filter (· ≠ q.rank)
  match (d.core c).coll with
  | some r => if r.grp = g then waitOnMe f d r q else idle
  | none => idle

/-- SLOW_SEND (R346): a throttling device tells the members that wait on it, each once: under AXIS NONE for each of its member
cores, else for all its cores together. -/
def slowSend (g : Nat) (f : Fuses) (d : Dev) : Dev :=
  let x := groupDesc f d g
  if throttling d = false ∨ groupLive d g = false then d
  else
    let ms := ((x.coreList.map (fun c => match ringOf f d g c with
      | some q => (slowTo f d g c q).map (fun r => (q.rank, r))
      | none => [])).flatten).eraseDups
    ms.foldl (fun d m => collSend f d (ctlHdr f d g 9 0 m.1) m.2 []) d

/-- A message to every other present member. -/
def toPresent (f : Fuses) (d : Dev) (g typ me : Nat) : Dev :=
  ((presentRanks (groupDesc f d g) (d.group g)).filter (· ≠ me)).foldl (fun d r => collSend f d (ctlHdr f d g typ 0 me) r []) d

/-- A stop of a B thread that runs a collective (R114, R347): the chunk in hand has ended, HOLD goes to every present
member. -/
def holdColl (f : Fuses) (d : Dev) (c : Nat) : Dev :=
  match (d.core c).coll with
  | some r => if r.paused then d else toPresent f (d.setColl c { r with paused := true }) r.grp 10 (speaker f d r.grp c)
  | none => d

/-- The thread goes on (R347): RESUME. -/
def resumeColl (f : Fuses) (d : Dev) (c : Nat) : Dev :=
  match (d.core c).coll with
  | some r => if r.paused then toPresent f (d.setColl c { r with paused := false }) r.grp 11 (speaker f d r.grp c) else d
  | none => d

/-- HOLD (R347): the group's deadline timers stop. -/
def hold (toId : Nat) (l : List Byte) (f : Fuses) (d : Dev) : Dev :=
  collMsg 10 toId l d (fun _ => byEpoch f d toId l (fun d h => (takeColl d toId l).modGroup h.grp (fun gr => { gr with hold := true })))

/-- RESUME (R347): they start again from zero. -/
def resume (toId : Nat) (l : List Byte) (f : Fuses) (d : Dev) : Dev :=
  collMsg 11 toId l d (fun _ => byEpoch f d toId l (fun d h =>
    (takeColl d toId l).modGroup h.grp (fun gr => { gr with hold := false, ext := [] })))

/-- HOLD_LIMIT_EXPIRY (R347): a hold longer than HOLD_LIMIT_MS lapses. -/
def holdLimitExpiry (g : Nat) (_f : Fuses) (d : Dev) : Dev :=
  if (d.group g).hold then d.modGroup g (fun gr => { gr with hold := false, ext := [] }) else d

/-- A broken link in the ring of a group's axis (R345): its coordinator commits a new epoch with the same members. -/
def ringDownReform (f : Fuses) (d : Dev) (axis : Nat) : Dev :=
  ((d.groups.filter (fun p => (p.2.state == 1 || p.2.state == 2) && (groupDesc f d p.1).axis == axis + 1)).map Prod.fst).foldl
    (fun d g =>
      let me := speaker f d g 0
      if (presentRanks (groupDesc f d g) (d.group g)).head? = some me then commitEpoch f d g me (d.group g).present else d) d

end Sys2Proof.Machine
end

