-- ==== Sys2Proof/Machine/Crypto.lean ====
section
/-! DEFINITION. The published algorithms the device runs: SHA-256 (R475, image digests), AES-256, GCM and GMAC
(R402, R494), AES key wrap (R397). -/

namespace Sys2Proof.Machine

/-! ## SHA-2 (FIPS 180-4)

Both digests take their constants from one pair of tables: the first 64 bits of the fractions of the cube roots of the first 80
primes and of the square roots of the first 16, four to a row, the first lowest.  SHA-256 uses the upper halves. -/

/-- The round constants. -/
def cubeRows : List Nat := [
  0xe9b5dba58189dbbcb5c0fbcfec4d3b2f7137449123ef65cd428a2f98d728ae22,
  0xab1c5ed5da6d8118923f82a4af194f9b59f111f1b605d0193956c25bf348b538,
  0x550c7dc3d5ffb4e2243185be4ee4b28c12835b0145706fbed807aa98a3030242,
  0xc19bf174cf6926949bdc06a725c7123580deb1fe3b1696b172be5d74f27b896f,
  0x240ca1cc77ac9c650fc19dc68b8cd5b5efbe4786384f25e3e49b69c19ef14ad2,
  0x76f988da831153b55cb0a9dcbd41fbd44a7484aa6ea6e4832de92c6f592b0275,
  0xbf597fc7beef0ee4b00327c898fb213fa831c66d2db43210983e5152ee66dfab,
  0x142929670a0e6e7006ca6351e003826fd5a79147930aa725c6e00bf33da88fc2,
  0x53380d139d95b3df4d2c6dfc5ac42aed2e1b21385c26c92627b70a8546d22ffc,
  0x92722c851482353b81c2c92e47edaee6766a0abb3c77b2a8650a73548baf63de] ++ [
  0xc76c51a30654be30c24b8b70d0f89791a81a664bbc423001a2bfe8a14cf10364,
  0x106aa07032bbd1b8f40e35855771202ad69906245565a910d192e819d6ef5218,
  0x34b0bcb5e19b48a82748774cdf8eeb991e376c085141ab5319a4c116b8d2d0c8,
  0x682e6ff3d6b2b8a35b9cca4f7763e3734ed8aa4ae3418acb391c0cb3c5c95a63,
  0x8cc702081a6439ec84c87814a1f0ab7278a5636f43172f60748f82ee5defb2fc,
  0xc67178f2e372532bbef9a3f7b2c67915a4506cebde82bde990befffa23631e28,
  0xf57d4f7fee6ed178eada7dd6cde0eb1ed186b8c721c0c207ca273eceea26619c,
  0x1b710b35131c471b113f9804bef90dae0a637dc5a2c898a606f067aa72176fba,
  0x431d67c49c100d4c3c9ebe0a15c9bebc32caab7b40c7249328db77f523047d84,
  0x6c44198c4a4758175fcb6fab3ad6faec597f299cfc657e2a4cc5d4becb3e42b6]

/-- The initial words. -/
def rootRows : List Nat := [
  0xa54ff53a5f1d36f13c6ef372fe94f82bbb67ae8584caa73b6a09e667f3bcc908,
  0x5be0cd19137e21791f83d9abfb41bd6b9b05688c2b3e6c1f510e527fade682d1,
  0x152fecd8f70e59399159015a3070dd17629a292a367cd507cbbb9d5dc1059ed8,
  0x47b5481dbefa4fa4db0c2e0d64f98fa78eb44a876858151167332667ffc00b31]

/-- What tells one SHA-2 digest from another: its word size, its number of rounds, the first of its initial words and how many of them it
returns, the rotations of its four sums, and the shifts that end the two small ones. -/
structure Sha2 where
  size : Nat
  rounds : Nat
  first : Nat
  words : Nat
  upA : List Nat
  upE : List Nat
  low : List Nat × Nat
  high : List Nat × Nat
  deriving DecidableEq, Repr

def Sha2.sha256 : Sha2 := ⟨32, 64, 0, 8, [2, 13, 22], [6, 11, 25], ([7, 18], 3), ([17, 19], 10)⟩

def Sha2.sha384 : Sha2 := ⟨64, 80, 8, 6, [28, 34, 39], [14, 18, 41], ([1, 8], 7), ([19, 61], 6)⟩

/-- Entry `i` of a table, cut to a digest's words. -/
def Sha2.entry (z : Sha2) (rows : List Nat) (i : Nat) : Nat := ((rows.getD (i / 4) 0 >>> (64 * (i % 4))) % 2 ^ 64) >>> (64 - z.size)

/-- Exclusive or of a word's rotations to the right. -/
def Sha2.turns (z : Sha2) (ks : List Nat) (x : Nat) : Nat :=
  ks.foldl (fun y k => y ^^^ ((x * 2 ^ z.size + x) >>> k) % 2 ^ z.size) 0

/-- A small sum of the message schedule. -/
def Sha2.small (z : Sha2) (q : List Nat × Nat) (x : Nat) : Nat := z.turns q.1 x ^^^ x >>> q.2

/-- The working words, first word first, after a round with a schedule word and a round constant. -/
def Sha2.round (z : Sha2) (v : List Nat) (wk : Nat) : List Nat :=
  let at_ := fun (i : Nat) => v.getD i 0
  let choice := at_ 6 ^^^ (at_ 4 &&& (at_ 5 ^^^ at_ 6))
  let major := (at_ 0 &&& (at_ 1 ||| at_ 2)) ||| (at_ 1 &&& at_ 2)
  let t := at_ 7 + z.turns z.upE (at_ 4) + choice + wk
  let cut := fun (x : Nat) => x % 2 ^ z.size
  (cut (t + z.turns z.upA (at_ 0) + major) :: v.take 3) ++ cut (at_ 3 + t) :: (v.drop 4).take 3

/-- The message schedule runs along with the rounds: a window of sixteen words, of which each round uses the first. -/
def Sha2.run (z : Sha2) : Nat → Nat → List Nat → List Nat → List Nat
  | 0, _, _, v => v
  | n + 1, i, win, v =>
    let new := (win.getD 0 0 + z.small z.low (win.getD 1 0) + win.getD 9 0 + z.small z.high (win.getD 14 0)) % 2 ^ z.size
    z.run n (i + 1) (win.drop 1 ++ [new]) (z.round v (win.getD 0 0 + z.entry cubeRows i))

/-- The chaining words after a block. -/
def Sha2.block (z : Sha2) (h : List Nat) (b : List Byte) : List Nat :=
  let v := z.run z.rounds 0 ((pieces (z.size / 8) 16 b).map beNat) h
  (List.range 8).map (fun i => (h.getD i 0 + v.getD i 0) % 2 ^ z.size)

/-- A SHA-2 digest of a byte string: the message, a bit 1, zeros, and its length in bits, in whole blocks. -/
def Sha2.digest (z : Sha2) (m : List Byte) : List Byte :=
  let n := 2 * z.size
  let tail := z.size / 4
  let full := m ++ 0x80#8 :: zeros ((n - (m.length + 1 + tail) % n) % n) ++ beBytes tail (8 * m.length)
  let h := (pieces n (full.length / n) full).foldl z.block ((List.range 8).map (fun i => z.entry rootRows (z.first + i)))
  ((h.take z.words).map (beBytes (z.size / 8))).flatten

/-- SHA-256 of a byte string: 32 bytes. -/
def sha256 (m : List Byte) : List Byte := Sha2.sha256.digest m

/-- SHA-384 of a byte string: 48 bytes. -/
def sha384 (m : List Byte) : List Byte := Sha2.sha384.digest m

/-! ## AES-256 -/

/-- Multiplication by x in GF(2^8) modulo `p`, of an `a` below 256. -/
def gfX (p a : Nat) : Nat := (2 * a) ^^^ (a / 128 * p)

/-- Multiplication in GF(2^8) modulo `p` over the low `n` bits of `b`. -/
def gfMulN (p : Nat) : Nat → Nat → Nat → Nat
  | 0, _, _ => 0
  | n + 1, a, b => (b % 2 * a) ^^^ gfMulN p n (gfX p a) (b / 2)

/-- Multiplication in GF(2^8) modulo `p`. -/
def gfMul (p a b : Nat) : Nat := gfMulN p 8 a b

/-- a^254, the inverse of a nonzero element of GF(2^8). -/
def gfInv (p a : Nat) : Nat :=
  let a2 := gfMul p a a
  let a3 := gfMul p a2 a
  let a6 := gfMul p a3 a3
  let a12 := gfMul p a6 a6
  let a15 := gfMul p a12 a3
  let a30 := gfMul p a15 a15
  let a60 := gfMul p a30 a30
  let a120 := gfMul p a60 a60
  let a126 := gfMul p a120 a6
  let a127 := gfMul p a126 a
  gfMul p a127 a127

/-- The AES S-box, the entry of byte b at bits 8 b + 7 .. 8 b. -/
def sboxTable : Nat :=
  0x76abd7fe2b670130c56f6bf27b777c63 <<< 0 |||
  0xc072a49cafa2d4adf04759fa7dc982ca <<< 128 |||
  0x1531d871f1e5a534ccf73f362693fdb7 <<< 256 |||
  0x75b227ebe28012079a059618c323c704 <<< 384 |||
  0x842fe329b3d63b52a05a6e1b1a2c8309 <<< 512 |||
  0xcf584c4a39becb6a5bb1fc20ed00d153 <<< 640 |||
  0xa89f3c507f02f94585334d43fbaaefd0 <<< 768 |||
  0xd2f3ff1021dab6bcf5389d928f40a351 <<< 896 |||
  0x73195d643d7ea7c41744975fec130ccd <<< 1024 |||
  0xdb0b5ede14b8ee4688902a22dc4f8160 <<< 1152 |||
  0x79e4959162acd3c25c2406490a3a32e0 <<< 1280 |||
  0x08ae7a65eaf4566ca94ed58d6d37c8e7 <<< 1408 |||
  0x8a8bbd4b1f74dde8c6b4a61c2e2578ba <<< 1536 |||
  0x9e1dc186b95735610ef6034866b53e70 <<< 1664 |||
  0xdf2855cee9871e9b948ed9691198f8e1 <<< 1792 |||
  0x16bb54b00f2d99416842e6bf0d89a18c <<< 1920

/-- Its inverse, laid out in the same way. -/
def invSboxTable : Nat :=
  0xfbd7f3819ea340bf38a53630d56a0952 <<< 0 |||
  0xcbe9dec444438e3487ff2f9b8239e37c <<< 128 |||
  0x4ec3fa420b954cee3d23c2a632947b54 <<< 256 |||
  0x25d18b6d49a25b76b224d92866a12e08 <<< 384 |||
  0x92b6655dcc5ca4d41698688664f6f872 <<< 512 |||
  0x849d8da75746155edab9edfd5048706c <<< 640 |||
  0x0645b3b80558e4f70ad3bc8c00abd890 <<< 768 |||
  0x6b8a130103bdafc1020f3fca8f1e2cd0 <<< 896 |||
  0x73e6b4f0cecff297eadc674f4111913a <<< 1024 |||
  0x6edf751ce837f9e28535ade72274ac96 <<< 1152 |||
  0x1bbe18aa0e62b76f89c5291d711af147 <<< 1280 |||
  0xf45acd78fec0db9a2079d2c64b3e56fc <<< 1408 |||
  0x5fec8027591012b131c7078833a8dd1f <<< 1536 |||
  0xef9cc9939f7ae52d0d4ab519a97f5160 <<< 1664 |||
  0x619953833cbbebc8b0f52aae4d3be0a0 <<< 1792 |||
  0x7d0c2155631469e126d677ba7e042b17 <<< 1920

def sbox (b : Nat) : Nat := (sboxTable >>> (8 * b)) % 256

def invSbox (b : Nat) : Nat := (invSboxTable >>> (8 * b)) % 256

/-- One more word of the key schedule; words are 4 bytes, kept newest first. -/
def keyExpand : Nat → Nat → Nat → List (List Nat) → List (List Nat)
  | 0, _, _, w => w
  | n + 1, i, rcon, w =>
    let prev := w.getD 0 []
    let t :=
      if i % 8 = 0 then
        match prev.map sbox with
        | [a, b, c, d] => [b ^^^ rcon, c, d, a]
        | l => l
      else if i % 8 = 4 then prev.map sbox
      else prev
    keyExpand n (i + 1) (if i % 8 = 0 then gfX 0x11B rcon else rcon)
      (((w.getD 7 []).zip t).map (fun p => p.1 ^^^ p.2) :: w)

/-- The fifteen round keys of a 32-byte key. -/
def aesKeys (key : List Byte) : List (List Nat) :=
  let w := (keyExpand 52 8 1 ((pieces 4 8 (key.map BitVec.toNat)).reverse)).reverse
  (pieces 4 15 w).map List.flatten

def xorL (a b : List Nat) : List Nat := (a.zip b).map (fun p => p.1 ^^^ p.2)

def shiftRows (s : List Nat) : List Nat := (List.range 16).map (fun i => s.getD ((i + 4 * (i % 4)) % 16) 0)

def invShiftRows (s : List Nat) : List Nat := (List.range 16).map (fun i => s.getD ((i + 12 * (i % 4)) % 16) 0)

/-- MixColumns with the row of coefficients given, each below 16. -/
def mixCols (c : List Nat) (s : List Nat) : List Nat :=
  ((pieces 4 4 s).map (fun col => (List.range 4).map (fun i =>
    (List.range 4).foldl (fun a j => a ^^^ gfMulN 0x11B 4 (col.getD j 0) (c.getD ((j + 4 - i) % 4) 0)) 0))).flatten

/-- AES-256 encryption of one block of 16 bytes. -/
def aesEnc (ks : List (List Nat)) (blk : List Nat) : List Nat :=
  let s0 := xorL blk (ks.getD 0 [])
  let s := (List.range 13).foldl (fun s i =>
    xorL (mixCols [2, 3, 1, 1] (shiftRows (s.map sbox))) (ks.getD (i + 1) [])) s0
  xorL (shiftRows (s.map sbox)) (ks.getD 14 [])

/-- AES-256 decryption of one block of 16 bytes. -/
def aesDec (ks : List (List Nat)) (blk : List Nat) : List Nat :=
  let s0 := (invShiftRows (xorL blk (ks.getD 14 []))).map invSbox
  let s := (List.range 13).foldl (fun s i =>
    (invShiftRows (mixCols [14, 11, 13, 9] (xorL s (ks.getD (13 - i) [])))).map invSbox) s0
  xorL s (ks.getD 0 [])

/-! ## GCM -/

/-- Multiplication in GF(2^128) with GCM's bit order; `n` bits of `x` from its most significant. -/
def ghashMul : Nat → Nat → Nat → Nat → Nat
  | 0, _, _, z => z
  | n + 1, x, v, z =>
    ghashMul n x ((v / 2) ^^^ (v % 2 * (0xE1 <<< 120))) (z ^^^ ((x >>> n) % 2 * v))

def ghash (h : Nat) (l : List Byte) : Nat :=
  (pieces 16 (l.length / 16) l).foldl (fun y b => ghashMul 128 (y ^^^ beNat b) h 0) 0

def pad16 (l : List Byte) : List Byte := l ++ zeros ((16 - l.length % 16) % 16)

/-- Key stream blocks from counter value `c` on. -/
def gcmStream (ks : List (List Nat)) (iv : List Byte) (c n : Nat) : List Byte :=
  ((List.range n).map (fun i =>
    (aesEnc ks ((iv ++ beBytes 4 (c + i)).map BitVec.toNat)).map (BitVec.ofNat 8))).flatten

def xorB (a b : List Byte) : List Byte := (a.zip b).map (fun p => p.1 ^^^ p.2)

/-- The GCM tag over AAD and ciphertext, for a 12-byte IV. -/
def gcmTag (key iv aad ct : List Byte) : List Byte :=
  let ks := aesKeys key
  let h := beNat ((aesEnc ks (List.replicate 16 0)).map (BitVec.ofNat 8))
  let s := ghash h (pad16 aad ++ pad16 ct ++ beBytes 8 (8 * aad.length) ++ beBytes 8 (8 * ct.length))
  xorB (beBytes 16 s) (gcmStream ks iv 1 1)

/-- The GCM counter-mode transform of a text (both directions). -/
def gcmCrypt (key iv text : List Byte) : List Byte :=
  xorB text (gcmStream (aesKeys key) iv 2 (ceilDiv text.length 16))

/-- AES-256-GCM encryption: ciphertext and tag. -/
def gcmSeal (key iv aad pt : List Byte) : List Byte × List Byte :=
  let ct := gcmCrypt key iv pt
  (ct, gcmTag key iv aad ct)

/-! ## Key wrap (RFC 3394) -/

/-- One unwrap step: A, R_i, step number t. -/
def unwrapStep (ks : List (List Nat)) (a : List Byte) (r : List Byte) (t : Nat) : List Byte × List Byte :=
  let b := (aesDec ks ((xorB a (beBytes 8 t) ++ r).map BitVec.toNat)).map (BitVec.ofNat 8)
  (b.take 8, b.drop 8)

/-- Unwrap a wrapped key of 8 (n + 1) bytes: the key data, when the integrity value holds. -/
def aesUnwrap (kek wrapped : List Byte) : Option (List Byte) :=
  let ks := aesKeys kek
  let n := wrapped.length / 8 - 1
  let rs := pieces 8 n (wrapped.drop 8)
  let (a, rs) := (List.range (6 * n)).foldl (fun (p : List Byte × List (List Byte)) j =>
    let t := 6 * n - j
    let i := (t - 1) % n
    let (a, r) := unwrapStep ks p.1 (p.2.getD i []) t
    (a, p.2.set i r)) (wrapped.take 8, rs)
  if a = List.replicate 8 0xA6#8 then some rs.flatten else none

end Sys2Proof.Machine
end

