-- ==== Sys2Proof/Machine/Vault.lean ====
section
/-! DEFINITION. The key vault and the cipher engines (R392 to R412): loading and erasing keys, the descriptors of
R403, alarms and self-tests. -/

namespace Sys2Proof.Machine

/-! ## Principals (R482) -/

/-- The principal of a WDP frame whose tag verifies; contexts are principals 0 to 4,095 (R482). -/
abbrev mgmtPrin : Nat := 4096

/-- The principal of a frame without a tag (R482). -/
abbrev untagged : Nat := 4097

/-- A free ARG for a device event whose chapter states none (R471). -/
def freeArg (d : Dev) : Nat := (Config.freeWord d.freeCtr).toNat % 2 ^ 32

/-- A device event to every open context and the CMC with an ARG its chapter does not state. -/
def eventAllFree (f : Fuses) (d : Dev) (st : Nat) : Dev := spendFree (eventAll f d st (freeArg d)) true

/-! ## Slots (R392 to R400) -/

/-- The key of a slot that is loaded while the vault serves (R400, R409). -/
def slotKey (d : Dev) (s : Nat) : Option (List Byte) :=
  if d.vault.state = .service then (SMap.find? d.vault.slots s).map KeySlot.key else none

/-- The source of a command that comes by a command ring (R395), beside those of R489. -/
abbrev ringSrc : Nat := 4099

/-- The principal may load, erase or name a slot, by the way its command came: slots 0 to 3 only by the mailbox of the physical
function or over WDP (R395). -/
def slotGranted (f : Fuses) (d : Dev) (p src s : Nat) : Bool :=
  if s < 4 then (p == 0 && src != ringSrc) || p == mgmtPrin
  else decide (p < 4096) && (obj f d (0x7000 + p) 0x0A).testBit s

/-- The runs of a region cut at the ends of lines: address, offset in the region, length. -/
def lineParts (rs : List (Nat × Nat)) : List (Nat × Nat × Nat) :=
  (rs.foldl (fun (p : List (Nat × Nat × Nat) × Nat) r =>
    (p.1 ++ (linesOf r.1 r.2).map (fun l =>
      let lo := max r.1 (256 * l)
      (lo, p.2 + (lo - r.1), min (r.1 + r.2) (256 * l + 256) - lo)), p.2 + r.2)) ([], 0)).1

/-- The bytes of some runs. -/
def runLen (rs : List (Nat × Nat)) : Nat := (rs.map Prod.snd).sum

/-- The index of an engine's counters in 6000h (R411). -/
def cipherCtr (e i : Nat) : Nat := 0x10 + 8 * e + i

/-- A completion of a descriptor, counted (R411). -/
def endCipher (f : Fuses) (d : Dev) (o : CipherOp) (st bytes : Nat) : Dev :=
  let d := { d with vault := { d.vault with ops := d.vault.ops.erase o } }
  let d := (d.bump 0x6000 (cipherCtr o.engine 0) 64 1).bump 0x6000 (cipherCtr o.engine 1) 64 bytes
  let d := d.moved (360 + o.engine) (bytes / 65536)
  let d := if st = Status.tagFail then d.bump 0x6000 (cipherCtr o.engine 3) 64 1 else d
  let d := if st = Status.keyErased then d.bump 0x6000 (cipherCtr o.engine 4) 32 1 else d
  completeHandle f d o.handle st 0

/-- Who a cipher engine is when it accesses device memory for an operation (R30, R401, R513). -/
def cipherWho (o : CipherOp) : Who := { tile := 15 * o.engine, act := 3, stamp := o.stamp }

/-- A running operation fails (R400, R406): zeros go over every byte of DST it had written; which further lines it
had written since its start is a free value, and so is the number of bytes it had processed. -/
def failCipher (f : Fuses) (d : Dev) (o : CipherOp) (st : Nat) (whole : Bool) : Dev :=
  let shown := match o.run with | some (_, _, ls) => ls | none => []
  let parts := (lineParts o.dst).zipIdx
  let k := d.freeCtr
  let d := parts.foldl (fun d p =>
    if whole || shown.contains p.2 || Config.freeBit (k * 2 ^ 20 + p.2) then writeRun f d (cipherWho o) p.1.1 (zeros p.1.2.2) else d) d
  let n := runLen o.src
  endCipher f (spendFree d true) o st (if whole then n else (Config.freeWord k).toNat % (n + 1))

/-- Every running operation whose key came from an erased slot stops (R400). -/
def abortBySlot (f : Fuses) (d : Dev) (gone : Nat → Bool) : Dev :=
  (d.vault.ops.filter (fun o => o.run.isSome && gone o.slot)).foldl (fun d o => failCipher f d o Status.keyErased false) d

/-- The ranks whose datagrams are sent under a key slot (R370). -/
def txRanks (f : Fuses) (d : Dev) (s : Nat) : List Nat :=
  if s = 0 then [] else (List.range 64).filter (fun j => obj f d 0x5030 j == s)

/-- Intaglio's response to an erased slot (R387): the port sends nothing further to the ranks it serves, and
IG_KEY_LOST is posted for each holder. -/
def igKeyLost (f : Fuses) (d : Dev) (s : Nat) : Dev :=
  (txRanks f d s).foldl (fun d _ => d.holders.foldl (fun d h =>
    if h.2.state = .unformed then d else eventAll f d Status.igKeyLost h.1) d) d

/-- Intaglio's response to a rewritten slot (R387): retention for its ranks is discarded, and what was to be
sent again from it is built again. -/
def igKeyNew (f : Fuses) (d : Dev) (s : Nat) : Dev :=
  let rs := txRanks f d s
  let d : Dev := { d with lh := d.lh.map (fun q => (q.1, { q.2 with kept := q.2.kept.filter (fun k => !rs.contains k.dg.rank) })) }
  { d with holders := d.holders.map (fun h => (h.1, { h.2 with
      queue := h.2.queue.map (fun g => if rs.contains g.rank then { g with again := none } else g) })) }

/-- The vault buses (R399, R518): tile 0 or 15, by engine. -/
def vaultBus (e : Nat) : Nat := 0x7000 + 0xF00 * e

/-- A transfer of a tile's vault bus (R399, R509): 0 tile 0, 1 tile 15. -/
def busTurn (d : Dev) (e : Nat) (q : Ask) : Dev := d.grant (vaultBus e) q

/-- A cipher unit's operation start at the vault bus (R509). -/
def unitAsk (stamp : Nat) : Ask := { kind := 1, stamp := stamp }

/-- A load or an erase at the vault bus, the CMC's, which is privileged (R509). -/
def cmcAsk (stamp : Nat) : Ask := { kind := 0, priv := some 0, stamp := stamp }

/-- A load or an erase is one transfer on the bus of each copy (R393, R399). -/
def slotTurn (d : Dev) (stamp : Nat) : Dev := busTurn (busTurn d 0 (cmcAsk stamp)) 1 (cmcAsk stamp)

/-- Neither vault bus is frozen, so that a load or an erase can go to both copies (R393, R515). -/
def slotsFree (d : Dev) : Bool := !d.frozen (vaultBus 0) && !d.frozen (vaultBus 1)

/-- The vault bus of the management cipher unit, on the active CMC's tile (R401). -/
def mgmtBus (d : Dev) : Nat := ctr d 0xA050 7

/-- The management cipher unit can copy a key now (R399, R515). -/
def mgmtFree (d : Dev) : Bool := !d.frozen (vaultBus (mgmtBus d))

/-- The management cipher unit copies a key and runs an operation (R399, R401, R407): the state, and whether it ends with MISMATCH;
one that found its slot EMPTY has copied none. -/
def mgmtStart (d : Dev) (slot : Nat) : Dev × Bool :=
  let e := busTurn d (mgmtBus d) (unitAsk d.stampNow)
  if (slotKey d slot).isSome && d.vault.clash then ({ e with vault := { e.vault with clash := false } }.bump 0x6000 0x16 32 1, true)
  else (e, false)

/-- Slots are erased (R398): they are EMPTY, operations that copied their keys stop, and Intaglio and a proof that is being
sealed respond (R387, R431). -/
def eraseSlots (f : Fuses) (d : Dev) (gone : Nat → Bool) : Dev :=
  let had := (d.vault.slots.map Prod.fst).filter gone
  let d := { d with vault := { d.vault with slots := d.vault.slots.filter (fun p => !gone p.1) },
                    proof := { d.proof with keyLost := d.proof.keyLost || (d.proof.manifest.any (fun m => bit (field m 44 1) 0) && had.contains 2) } }
  had.foldl (fun d s => igKeyLost f d s) (abortBySlot f d gone)

/-- The status of KEY_LOAD's checks in their order (R397), and the slot to be written. -/
def keyLoadCheck (f : Fuses) (d : Dev) (p src : Nat) (b : List Byte) : Except Nat (Nat × KeySlot) :=
  let slot := field b 2 1
  let use := field b 3 1
  if field b 0 2 ≠ 1 ∨ field b 8 8 ≠ 0 ∨ (use ≠ 1 ∧ use ≠ 2) then .error Status.blobFormat
  else if use ≠ (if slot < 4 then 2 else 1) then .error Status.blobFormat
  else if slotGranted f d p src slot = false then .error Status.slotGrant
  else if d.vault.state ≠ .service then .error Status.vaultBusy
  else match aesUnwrap f.kdu (slice b 16 56) with
    | none => .error Status.blobAuth
    | some m => if m.take 16 = b.take 16 then .ok (slot, ⟨b.take 16, m.drop 16⟩) else .error Status.blobAuth

/-- A load or an erase has its transfer on the bus (R397 to R399). -/
def keyTransfer (f : Fuses) (d : Dev) (c : KeyCmd) : Dev :=
  let d := slotTurn d c.stamp
  if c.blob.isEmpty then
    let gone := fun (s : Nat) => match c.slot with | some n => s == n | none => true
    completeHandle f (eraseSlots f d gone) c.handle 0 0
  else match keyLoadCheck f d c.prin c.src c.blob with
    | .error st => completeHandle f (if st = Status.blobAuth then d.bump 0x6000 0x0C 32 1 else d) c.handle st 0
    | .ok (s, k) =>
      let d := { d with vault := { d.vault with slots := d.vault.slots.put s k,
                                                gens := d.vault.gens.put s (sat32 (SMap.get 0 d.vault.gens s) 1) } }
      completeHandle f (igKeyNew f d s) c.handle 0 0

/-- Loads and erases that wait have their transfers, in order, while the buses are not frozen (R399, R515). -/
def vaultGo (f : Fuses) (d : Dev) : Dev :=
  if slotsFree d then d.vault.waits.foldl (keyTransfer f) { d with vault := { d.vault with waits := [] } } else d

/-- A load or an erase raises its request at the vault bus. -/
def askBus (f : Fuses) (d : Dev) (c : KeyCmd) : Dev := vaultGo f { d with vault := { d.vault with waits := d.vault.waits ++ [c] } }

/-- KEY_LOAD (R397): what its checks refuse takes no transfer. -/
def keyLoad (f : Fuses) (d : Dev) (h p src : Nat) (b : List Byte) : Dev :=
  match keyLoadCheck f d p src b with
  | .error st => completeHandle f (if st = Status.blobAuth then d.bump 0x6000 0x0C 32 1 else d) h st 0
  | .ok (s, _) => askBus f d { handle := h, slot := some s, blob := b, prin := p, src := src, stamp := d.stampNow }

/-- KEY_ERASE (R398). -/
def keyErase (f : Fuses) (d : Dev) (h p src s : Nat) : Dev :=
  if slotGranted f d p src s then askBus f d { handle := h, slot := some s, prin := p, src := src, stamp := d.stampNow }
  else completeHandle f d h Status.slotGrant 0

/-- ERASE_ALL (R398). -/
def eraseAll (f : Fuses) (d : Dev) (h p src : Nat) : Dev := askBus f d { handle := h, slot := none, prin := p, src := src, stamp := d.stampNow }

/-! ## Self-tests and alarms (R407 to R410) -/

def Dev.setVault (d : Dev) (s : VaultState) : Dev := { d with vault := { d.vault with state := s } }

/-- SELFTEST (R411): the unit leaves service and is tested under TEST. -/
def selftest (_f : Fuses) (d : Dev) (h unit : Nat) : Dev :=
  { d with vault := { d.vault with state := .test, testing := d.vault.testing ++ [(unit, some h)] } }

/-- SELFTEST_COMPLETE (R409, R410): the vault's self-test ends. -/
def selftestComplete (pass : Bool) (f : Fuses) (d : Dev) : Dev :=
  match d.vault.state with
  | .selftest | .test | .recovery =>
    let hs := d.vault.testing.filterMap Prod.snd
    let d := { d with vault := { d.vault with testing := [], passed := pass } }
    if pass then
      hs.foldl (fun d h => completeHandle f d h 0 0) (d.setVault (if d.vault.sources.isEmpty then .service else .alarmed))
    else
      let d := eventAllFree f ((eraseSlots f (slotTurn d d.stampNow) (fun _ => true)).setVault .alarmed) Status.selftestFail
      hs.foldl (fun d h => completeHandle f d h Status.selftestFail 0) d
  | _ => d

/-- VAULT_ALARM (R408, R409): an alarm of cause 1 glitch, 2 clock, 3 temperature, 4 datapath mismatch or 5 copy
mismatch; `stays` says that its source remains active.  In SERVICE a mismatch ends only the operation that meets it, the next to
copy a key (R393, R407; log entry 164). -/
def vaultAlarm (cause : Nat) (stays : Bool) (f : Fuses) (d : Dev) : Dev :=
  let act := if stays ∧ 1 ≤ cause ∧ cause ≤ 3 ∧ d.vault.sources.contains cause = false then cause :: d.vault.sources else d.vault.sources
  if cause = 0 ∨ cause > 5 then d
  else match d.vault.state with
    | .off => d
    | .alarmed => { d with vault := { d.vault with sources := act } }
    | s =>
      if s = .service ∧ cause ≥ 4 then { d with vault := { d.vault with clash := true } }
      else
        let d := eraseSlots f (slotTurn { d with vault := { d.vault with sources := act } } d.stampNow) (fun _ => true)
        let d := (d.setObj 0x6000 0x0A cause).bump 0x6000 0x0B 32 1
        (eventAll f d Status.vaultAlarm cause).setVault (if s = .service then .selftest else s)

/-- ALARM_RECHECK (R409): an ALARMED vault looks at its alarm sources again. -/
def alarmRecheck (active : List Nat) (_f : Fuses) (d : Dev) : Dev :=
  if d.vault.state = .alarmed then
    let d := { d with vault := { d.vault with sources := active.filter (fun c => decide (1 ≤ c ∧ c ≤ 3)) } }
    if d.vault.sources.isEmpty ∧ d.vault.passed = true then d.setVault .service else d
  else d

/-- The abort of a cipher engine's running operations at its reset, and the self-test that follows (R410). -/
def cipherReset (f : Fuses) (d : Dev) (e : Nat) : Dev :=
  let d := (d.vault.ops.filter (fun o => o.engine == e && o.run.isSome)).foldl (fun d o => failCipher f d o Status.cipherReset false) d
  if d.vault.state = .service then d.setVault .recovery else d

/-! ## Descriptors (R403 to R406) -/

/-- The fields a descriptor must leave at 0, and its VERSION (R403, R404). -/
def cipherFormat (b : List Byte) : Bool :=
  decide (field b 0 2 = 1) && decide (field b 2 1 ≤ 1) && decide (field b 3 1 ≤ 1) &&
    decide (field b 5 3 = 0) && decide (field b 28 4 = 0)

/-- The regions of a descriptor in a context's memory: AAD, SRC, DST and TAG (R403). -/
def cipherRegions (d : Dev) (g : Nat) (b : List Byte) :
    Option (List (Nat × Nat) × List (Nat × Nat) × List (Nat × Nat) × List (Nat × Nat)) :=
  match ctxRuns d g false (field b 32 8) (field b 20 4), ctxRuns d g false (field b 40 8) (field b 24 4),
      ctxRuns d g true (field b 48 8) (field b 24 4), ctxRuns d g (field b 2 1 == 0) (field b 56 8) 16 with
  | some a, some s, some t, some g => some (a, s, t, g)
  | _, _, _, _ => none

/-- The checks of R404 on a well-formed descriptor, in their order. -/
def cipherCheck (f : Fuses) (d : Dev) (g : Nat) (b : List Byte) : Nat :=
  if f.longHaul = false then Status.noCipher
  else if field b 4 1 < 4 ∨ slotGranted f d g ringSrc (field b 4 1) = false then Status.slotGrant
  else if field b 20 4 > 4096 ∨ field b 24 4 > 67108864 then Status.length
  else if (cipherRegions d g b).isNone then Status.window
  else 0

/-- A SEAL or OPEN descriptor is checked and joins its engine's operations, or its handle completes with the refusal
(R403, R404). -/
def cipherSubmit (f : Fuses) (d : Dev) (g h : Nat) (b : List Byte) : Dev :=
  let st := cipherCheck f d g b
  if st ≠ 0 then
    completeHandle f (if st = Status.length then d.bump 0x6000 (cipherCtr (field b 3 1) 5) 32 1 else d) h st 0
  else match cipherRegions d g b with
    | none => d
    | some (a, s, t, tg) =>
      { d with vault := { d.vault with ops := d.vault.ops ++ [
        { engine := field b 3 1, ctx := g, handle := h, openOp := field b 2 1 == 1, slot := field b 4 1,
          iv := slice b 8 12, aad := a, src := s, dst := t, tag := tg, raw := slice b 0 64, stamp := d.stampNow }] } }

/-- Operations of an engine that hold an operation context (R405). -/
def cipherBusy (d : Dev) (e : Nat) : Nat := (d.vault.ops.filter (fun o => o.engine == e && o.run.isSome)).length

/-- The unit ID of a cipher engine: engine 0 on tile 0, engine 1 on tile 15 (R401, R564). -/
def cipherUnit (e : Nat) : Nat := 0x7000 + 0xF01 * e

/-- An engine starts new operations: it is not under test, not in reset, and has a free context (R405, R411). -/
def cipherFree (d : Dev) (e : Nat) : Bool :=
  decide (cipherBusy d e < 8) && !(d.vault.testing.any (fun t => t.1 == e)) && !unitInReset d (cipherUnit e)

/-- Two regions share bytes. -/
def runsMeet (a b : List (Nat × Nat)) : Bool :=
  a.any (fun p => b.any (fun q => decide (p.1 < q.1 + q.2 ∧ q.1 < p.1 + p.2)))

/-- CIPHER_START (R400, R405, R406): the engine's oldest waiting operation copies its key.  Each line of DST that can be
written by then holds the output, the input or zeros, or is not written yet, by a free value. -/
def cipherStart (e : Nat) (f : Fuses) (d : Dev) : Dev :=
  match d.vault.ops.find? (fun o => o.engine == e && o.run.isNone) with
  | none => d
  | some o =>
    if cipherFree d e = false ∨ d.frozen (vaultBus e) then d
    else match slotKey (busTurn d e (unitAsk o.stamp)) o.slot with
      | none => endCipher f (busTurn d e (unitAsk o.stamp)) o Status.noKey 0
      | some key =>
        if d.vault.clash then
          let d := (busTurn { d with vault := { d.vault with clash := false } } e (unitAsk o.stamp)).bump 0x6000 (cipherCtr e 2) 32 1
          endCipher f d o Status.mismatch 0
        else if ((o.aad ++ o.src ++ o.tag).all (runReady f d (cipherWho o))) = false then d
        else
          let bad := !(poisonedIn f d (o.aad ++ o.src ++ (if o.openOp then o.tag else []))).isEmpty
          let text := runBytes d o.src
          let aad := runBytes d o.aad
          let clash := (runsMeet o.src o.dst && decide (o.src ≠ o.dst)) || runsMeet o.aad o.dst || runsMeet o.tag o.dst
          let out := if clash then freeBytes d text.length else gcmCrypt key o.iv text
          let tag := gcmTag key o.iv aad (if o.openOp then text else out)
          let k := d.freeCtr
          let d := spendFree (noteRead f (busTurn d e (unitAsk o.stamp)) (cipherWho o) (o.aad ++ o.src)) true
          let parts := (lineParts o.dst).zipIdx
          let pick := fun i => if bad then 0 else (Config.freeWord (k * 2 ^ 20 + i)).toNat % 4
          let shown := (parts.filter (fun p => pick p.2 ≠ 0 && writeReady f d (cipherWho o) (p.1.1, p.1.2.2))).map Prod.snd
          let d := parts.foldl (fun d p =>
            if shown.contains p.2 then
              let l := if pick p.2 = 1 then out else if pick p.2 = 2 then zeros text.length else text
              writeRun f d (cipherWho o) p.1.1 (slice l p.1.2.1 p.1.2.2)
            else d) d
          let o' := { o with run := some (out, tag, shown), bad := bad }
          { d with vault := { d.vault with ops := d.vault.ops.map (fun x => if x = o then o' else x) } }

/-- CIPHER_COMPLETE (R406, R407): the running operation of a handle ends; `mismatch` says that its datapaths
disagreed. -/
def cipherComplete (h : Nat) (mismatch : Bool) (f : Fuses) (d : Dev) : Dev :=
  match d.vault.ops.find? (fun o => o.handle == h) with
  | none => d
  | some o =>
    match o.run with
    | none => d
    | some (out, tag, _) =>
      if ((o.dst ++ (if o.openOp then [] else o.tag)).all (writeReady f d (cipherWho o))) = false then d
      else if o.bad then endCipher f d o Status.memUe 0
      else if mismatch then failCipher f (d.bump 0x6000 (cipherCtr o.engine 2) 32 1) o Status.mismatch false
      else if o.openOp then
        if runBytes d o.tag = tag then endCipher f (writeRuns f d (cipherWho o) o.dst out) o 0 (runLen o.src)
        else failCipher f d o Status.tagFail true
      else endCipher f (writeRuns f (writeRuns f d (cipherWho o) o.dst out) (cipherWho o) o.tag tag) o 0 (runLen o.src)

end Sys2Proof.Machine
end

