-- ==== Sys2Proof/Machine/Ig.lean ====
section
/-! DEFINITION. Intaglio's holders, streams and frames: the IG block, the erasure code, the datagram on the wire, and the
memory of a served holder (R351 to R376). -/

namespace Sys2Proof.Machine

/-! ## Round groups and holders (R351, R352) -/

/-- The sites of the round groups, ascending: rank j is the j-th (R351). -/
def igSites (f : Fuses) (d : Dev) : List Nat := bitList 64 (obj f d 0x5000 0x0A)

/-- M_S (R351). -/
def igSize (f : Fuses) (d : Dev) : Nat := (igSites f d).length

/-- This site's rank (R351). -/
def ownRank (f : Fuses) (d : Dev) : Nat := (igSites f d).idxOf (siteOf f d (devAddr f d))

/-- The rank of a device's site; none where the site is not in SITES. -/
def rankOfDev (f : Fuses) (d : Dev) (dev : Nat) : Option Nat :=
  let s := siteOf f d dev
  if (igSites f d).contains s then some ((igSites f d).idxOf s) else none

def Dev.holder (d : Dev) (x : Nat) : Holder := SMap.get {} d.holders x

def Dev.setHolder (d : Dev) (x : Nat) (h : Holder) : Dev := { d with holders := d.holders.put x h }

def Dev.modHolder (d : Dev) (x : Nat) (g : Holder → Holder) : Dev := d.setHolder x (g (d.holder x))

def Dev.lhPort (d : Dev) (p : Nat) : LhPort := SMap.get {} d.lh p

def Dev.modLh (d : Dev) (p : Nat) (g : LhPort → LhPort) : Dev := { d with lh := d.lh.put p (g (d.lhPort p)) }

/-- The device address of the holder at an X coordinate of this device's X ring (R352). -/
def holderDev (f : Fuses) (d : Dev) (x : Nat) : Nat := withCoord f d (devAddr f d) 0 x

/-- The X coordinates served (R376). -/
def servedXs (f : Fuses) (d : Dev) : List Nat := (List.range 256).filter (fun x => obj f d 0x5040 x ≠ 0)

/-- Fields of the IG block (R359). -/
def Holder.blk (h : Holder) (o n : Nat) : Nat := field h.block o n

def Holder.round_ (h : Holder) (r : Nat) : IgRound := SMap.get {} h.rounds r

def Holder.modRound (h : Holder) (r : Nat) (g : IgRound → IgRound) : Holder := { h with rounds := h.rounds.put r (g (h.round_ r)) }

def Holder.contrib (h : Holder) (r j : Nat) : Contrib := SMap.get {} (h.round_ r).recv j

def Holder.modContrib (h : Holder) (r j : Nat) (g : Contrib → Contrib) : Holder :=
  h.modRound r (fun y => { y with recv := y.recv.put j (g (SMap.get {} y.recv j)) })

/-- IG_STATE as read (R388). -/
def IgState.code : IgState → Nat
  | .unformed => 0
  | .formed => 1
  | .running => 2
  | .joining => 3
  | .removed => 4
  | .abandoned => 5
  | .fault => 6

/-- The engine serves the holder: it is formed or joining and has not left the group. -/
def Holder.live (h : Holder) : Bool :=
  match h.state with
  | .formed | .running | .joining => true
  | _ => false

/-- The unit IDs of a long-haul port and of its Intaglio engine (R564). -/
def lhUnit (p : Nat) : Nat := 0x6000 + 0xF01 * p

def igUnit (p : Nat) : Nat := 0x8000 + 0xF01 * p

/-- A long-haul port is UP (R386): its sub-links are up, PORT_ENABLE is 1, it is not being reset, and the engine of its
tile is not under test (R411). -/
def lhUp (f : Fuses) (d : Dev) (p : Nat) : Bool :=
  f.longHaul && (d.lhPort p).up && obj f d (0x5010 + p) 0x0C == 1 && !unitInReset d (lhUnit p) &&
    !(d.vault.testing.any (fun t => t.1 == p))

/-- LH_STATE (R389). -/
def lhState (f : Fuses) (d : Dev) (p : Nat) : Nat :=
  if f.longHaul = false then 0 else if obj f d (0x5010 + p) 0x0C = 0 then 1 else if lhUp f d p then 3 else 2

/-! ## The holder's memory (R359, R376) -/

/-- The context of the running job (log entry 76): the lowest RUNNING one whose JOB_START named Intaglio or the long-haul ports
(R476), else the lowest RUNNING one, else context 0. -/
def jobCtx (d : Dev) : Nat :=
  let l := d.ctxs.filter (fun p : Nat × Context => p.2.state == .running)
  match (l.filter (fun p => decide (bits p.2.job 1 0 ≠ 0)) ++ l).head? with
  | some p => p.1
  | none => 0

/-- Who the engine that serves a holder is when it accesses device memory (R30, R352, R513). -/
def igWho (d : Dev) (x : Nat) : Who := { tile := if (d.holder x).port = 0 then 0 else 15, act := 3, stamp := d.stampNow }

/-- The holder is this device. -/
def isOwn (f : Fuses) (d : Dev) (x : Nat) : Bool := holderDev f d x == devAddr f d

/-- The reads that a range of a remote holder's memory takes: one for every 14,080 bytes (R302, R376; log entry 75). -/
def readParts (q : Nat × Nat) : List (Nat × Nat) :=
  (List.range (ceilDiv q.2 14080)).map (fun i => (q.1 + 14080 * i, min 14080 (q.2 - 14080 * i)))

/-- A read asks for these bytes of this holder. -/
def HoldRead.names (r : HoldRead) (x : Nat) (p : Nat × Nat) : Bool := r.x == x && r.addr == p.1 && r.len == p.2

/-- What a read of a remote holder's memory has answered. -/
def answerOf (d : Dev) (x : Nat) (p : Nat × Nat) : Option (List Byte) :=
  (d.igReads.find? (fun r => r.names x p && r.ans.isSome)).bind HoldRead.ans

/-- The engine has these ranges of a holder's memory: every line of its own device can be served, or every read over the torus
has been answered (R231, R376). -/
def holdHave (f : Fuses) (d : Dev) (x : Nat) (rs : List (Nat × Nat)) : Bool :=
  if isOwn f d x then rs.all (runReady f d (igWho d x))
  else rs.all (fun q => (readParts q).all (fun p => (answerOf d x p).isSome))

/-- A read request goes to a holder's device on VC3 (R301, R376), unless it has gone or the device cannot be reached. -/
def askPart (f : Fuses) (x : Nat) (d : Dev) (p : Nat × Nat) : Dev :=
  if d.igReads.any (fun r => r.names x p) then d
  else
    let (e, sent) := routeSend f d { dest := holderDev f d x, src := devAddr f d, kind := 3, act := 3, addr := p.1,
                                     data := leBytes 4 p.2, vc := 3, stamp := d.stampNow }
    if sent then { e with igReads := e.igReads ++ [{ x := x, addr := p.1, len := p.2 }] } else e

/-- What the engine lacks of some ranges of a holder's memory is asked for (R376). -/
def holdAsk (f : Fuses) (d : Dev) (x : Nat) (rs : List (Nat × Nat)) : Dev :=
  if isOwn f d x then d else ((rs.map readParts).flatten).foldl (askPart f x) d

/-- Ranges of a holder's memory have been used: the reads of the own device are counted, those over the torus are spent. -/
def holdUsed (f : Fuses) (d : Dev) (x : Nat) (rs : List (Nat × Nat)) : Dev :=
  if isOwn f d x then noteRead f d (igWho d x) rs
  else
    let ps := (rs.map readParts).flatten
    { d with igReads := d.igReads.filter (fun r => !ps.any (r.names x)) }

/-- An answer to a read comes from a holder's device (R376): the oldest read of those bytes that waits takes it. -/
def holdAnswer (f : Fuses) (d : Dev) (k : Packet) : Dev :=
  match d.igReads.find? (fun r => r.ans.isNone && r.addr == k.addr && holderDev f d r.x == k.src && (k.data.isEmpty || k.data.length == r.len)) with
  | none => d
  | some r => { d with igReads := d.igReads.map (fun q => if q = r then { q with ans := some k.data } else q) }

/-- Bytes of a range of a holder's memory that the engine has. -/
def holdRead (f : Fuses) (d : Dev) (x a n : Nat) : List Byte :=
  if isOwn f d x then readBytes d.mem.bytes a n
  else slice (((readParts (a, n)).map (fun p => (answerOf d x p).getD [])).flatten) 0 n

/-- A range the engine has holds a poisoned line (R224); the answer to a read that meets one is empty (log entry 158). -/
def holdPoisoned (f : Fuses) (d : Dev) (x : Nat) (rs : List (Nat × Nat)) : Bool :=
  if isOwn f d x then !(poisonedIn f d rs).isEmpty
  else rs.any (fun q => (readParts q).any (fun p => answerOf d x p == some []))

/-- Memory-write packets of at most 14,080 bytes (55 lines) on VC3 (R301, R302, R376).  One that is unreachable is counted and
lost (R306): an engine's write has no stroke and no descriptor to complete. -/
def remoteWrite (f : Fuses) (d : Dev) (dev a : Nat) (l : List Byte) : Dev :=
  ((pieces 14080 (ceilDiv l.length 14080) l).zipIdx).foldl (fun d p =>
    (routeSend f d { dest := dev, src := devAddr f d, kind := 2, act := 3, addr := a + 14080 * p.2, data := p.1, vc := 3, stamp := d.stampNow }).1) d

/-- A write of an engine to a holder's memory (R375, R376, R380). -/
def holdWrite (f : Fuses) (d : Dev) (x a : Nat) (l : List Byte) : Dev :=
  if isOwn f d x then writeRun f d (igWho d x) a l else remoteWrite f d (holderDev f d x) a l

/-- A write to a holder's memory can be accepted now (R231, R419). -/
def holdReady (f : Fuses) (d : Dev) (x a n : Nat) : Bool := if isOwn f d x then writeReady f d (igWho d x) (a, n) else true

/-- The tile of the engine that serves a holder (R352). -/
def igTile (h : Holder) : Nat := if h.port = 0 then 0 else 15

/-- The engine's token to the holder's NOTE_CORE (R359, R380, R385). -/
def igToken (f : Fuses) (d : Dev) (x ctr : Nat) : Dev :=
  let h := d.holder x
  (sendToken f d (tokenMsg 1 { credit := false, idx := ctr } (h.blk 92 1) (holderDev f d x) 3 (devAddr f d) (igTile h) 0 6 0)).1

/-! ## Streams (R357, R358, R363) -/

/-- IG_K, IG_P and SLICE. -/
def igK (f : Fuses) (d : Dev) : Nat := obj f d 0x5000 7
def igP (f : Fuses) (d : Dev) : Nat := obj f d 0x5000 8
def igSlice (f : Fuses) (d : Dev) : Nat := obj f d 0x5000 9

/-- Slices of a stream. -/
def sliceCount (f : Fuses) (d : Dev) (len : Nat) : Nat := ceilDiv len (igSlice f d)

/-- Groups of a stream. -/
def groupCount (f : Fuses) (d : Dev) (len : Nat) : Nat := ceilDiv (sliceCount f d len) (igK f d)

/-- Data slices of a group; the last may hold fewer. -/
def groupK (f : Fuses) (d : Dev) (len g : Nat) : Nat := min (igK f d) (sliceCount f d len - g * igK f d)

/-- The codebook ID B of a rank's record of a round (R357). -/
def igBook (f : Fuses) (d : Dev) (x j r : Nat) : Nat := obj f d 0x5000 0x0D + 2 * (256 * j + x) + r % 2

/-- SECBASE of a segment (R357). -/
def igSecbase (r g : Nat) : Nat := (r % 2) * 2 ^ 31 + g * 2 ^ 16

/-- The slot set of a round (R358). -/
def slotSet (f : Fuses) (d : Dev) (r : Nat) : Nat := if obj f d 0x5000 1 = 1 then r % 2 else 0

/-- The address of rank j's slot for a round (R358; the sets follow one another). -/
def slotAddr (f : Fuses) (d : Dev) (x j r : Nat) : Nat :=
  let h := d.holder x
  h.blk 16 8 + (slotSet f d r * igSize f d + j) * h.blk 24 8

/-- Source sectors of a segment of the holder's record (R357); the last segment holds the rest of the shard. -/
def segSectors (h : Holder) (g : Nat) : Nat :=
  let ne := min (h.blk 72 4) (h.blk 64 8 / 8192 - g * h.blk 72 4)
  ne + ne / 16

/-- The byte offset of a segment in a slot (R357, R358). -/
def segOffset (h : Holder) (g : Nat) : Nat := 4096 * g * (h.blk 72 4 + h.blk 72 4 / 16)

/-- What must change in a coded plane, by exclusive or at these offsets, for it to carry a SECBASE (R243, R357): the index's
SECBASE and ICRC, and each sector's SECNO and SCRC.  A check value that does not hold goes on not to hold. -/
def baseMarks (idx : List Byte) (base : Nat) : List (Nat × List Byte) :=
  let n := min 65535 (field idx 4 4)
  let old := field idx 0 4
  let sum := fun (b : Nat) => crc32c (leBytes 4 b ++ slice idx 4 8 ++ slice idx 16 (4 * n + 4))
  let sector := fun (i : Nat) =>
    let a := field idx (16 + 4 * i) 4
    let k := field idx (20 + 4 * i) 4 - a
    let m := leBytes 4 ((old + i) % 2 ^ 32 ^^^ (base + i) % 2 ^ 32)
    if k < 84 then [] else [(a + 4, m), (a + k - 4, leBytes 4 (crc32c (zeros 4 ++ m ++ zeros (k - 12)) ^^^ crc32c (zeros (k - 4))))]
  if old = base then []
  else [(0, leBytes 4 (old ^^^ base)), (12, leBytes 4 (sum old ^^^ sum base))] ++ ((List.range n).map sector).flatten

/-- Bytes of a plane from offset `o`, with its marks applied. -/
def applyMarks (ms : List (Nat × List Byte)) (o : Nat) (l : List Byte) : List Byte :=
  (l.zipIdx).map (fun b => ms.foldl (fun y m =>
    if m.1 ≤ o + b.2 ∧ o + b.2 < m.1 + m.2.length then y ^^^ m.2.getD (o + b.2 - m.1) 0#8 else y) b.1)

/-! ## The erasure code (R368) -/

/-- α^i in the field of R368. -/
def rsPow (i : Nat) : Nat := (List.range (i % 255)).foldl (fun a _ => gfX 0x11D a) 1

def rsMul (a b : Nat) : Nat := gfMul 0x11D a b

/-- A polynomial, highest coefficient first, times (x − α^i). -/
def rsTimes (g : List Nat) (i : Nat) : List Nat :=
  let a := rsPow i
  ((g ++ [0]).zip (0 :: g)).map (fun (p : Nat × Nat) => p.1 ^^^ rsMul a p.2)

/-- The generator g(x) (R368). -/
def rsGen (p : Nat) : List Nat := (List.range p).foldl rsTimes [1]

/-- The P parity bytes of a column of data bytes (R368). -/
def rsParity (p : Nat) (data : List Nat) : List Nat :=
  let g := (rsGen p).tail
  data.foldl (fun r c =>
    let t := c ^^^ r.headD 0
    ((r.drop 1 ++ [0]).zip g).map (fun (q : Nat × Nat) => q.1 ^^^ rsMul t q.2)) (List.replicate p 0)

/-- A column of each of some slices. -/
def columns (n : Nat) (ls : List (List Byte)) : List (List Nat) :=
  (List.range n).map (fun j => ls.map (fun l => (l.getD j 0#8).toNat))

/-- The parity slices of a group (R363, R368). -/
def paritySlices (p n : Nat) (data : List (List Byte)) : List (List Byte) :=
  let cs := (columns n data).map (rsParity p)
  (List.range p).map (fun i => cs.map (fun c => BitVec.ofNat 8 (c.getD i 0)))

/-- A polynomial, lowest coefficient first, at a point. -/
def rsEval (c : List Nat) (x : Nat) : Nat := c.foldr (fun a r => a ^^^ rsMul r x) 0

/-- The product of two polynomials, lowest coefficient first, below degree `n`. -/
def rsConv (n : Nat) (a b : List Nat) : List Nat :=
  (List.range n).map (fun k => (List.range (k + 1)).foldl (fun s i => s ^^^ rsMul (a.getD i 0) (b.getD (k - i) 0)) 0)

/-- Recover the missing bytes of one codeword of K + P = n bytes (R368): `c` holds 0 at the missing places, at most P of
them. -/
def rsFill (n p : Nat) (missing : List Nat) (c : List Nat) : List Nat :=
  let pos := missing.map (fun i => (n - 1 - i))
  let synd := (List.range p).map (fun j => (c.zipIdx).foldl (fun s q => s ^^^ rsMul q.1 (rsPow (j * (n - 1 - q.2)))) 0)
  let gam := pos.foldl (fun g e => rsConv (g.length + 1) g [1, rsPow e]) [1]
  let om := rsConv p synd gam
  let vals := pos.map (fun e =>
    let xi := rsPow (255 - e % 255)
    let den := (pos.filter (· ≠ e)).foldl (fun a l => rsMul a (1 ^^^ rsMul (rsPow l) xi)) 1
    rsMul (rsEval om xi) (gfInv 0x11D den))
  (missing.zip vals).foldl (fun c q => c.set q.1 q.2) c

/-- The K data slices of a group from any K of its datagrams (R368). -/
def recoverGroup (k p n : Nat) (got : SMap (List Byte)) : List (List Byte) :=
  let missing := (List.range (k + p)).filter (fun i => (SMap.find? got i).isNone)
  if missing.all (fun i => decide (k ≤ i)) then (List.range k).map (fun i => SMap.get [] got i)
  else
    let cs := (columns n ((List.range (k + p)).map (fun i => SMap.get (zeros n) got i))).map (rsFill (k + p) p missing)
    (List.range k).map (fun i => cs.map (fun c => BitVec.ofNat 8 (c.getD i 0)))

/-! ## Frames (R364 to R366) -/

/-- The Intaglio header (R365). -/
structure IgHdr where
  typ : Nat
  flags : Nat
  src : Nat
  dst : Nat
  origin : Nat
  epoch : Nat
  round : Nat
  seg : Nat
  group : Nat
  index : Nat
  k : Nat
  p : Nat
  len : Nat
  plen : Nat
  prefix_ : Nat
  seq : Nat
  deriving DecidableEq, Repr

def IgHdr.toBytes (h : IgHdr) : List Byte :=
  leBytes 2 1 ++ leBytes 1 h.typ ++ leBytes 1 h.flags ++ leBytes 2 h.src ++ leBytes 2 h.dst ++ leBytes 2 h.origin ++
    leBytes 2 h.epoch ++ leBytes 4 h.round ++ leBytes 2 h.seg ++ zeros 2 ++ leBytes 4 h.group ++ leBytes 1 h.index ++
    leBytes 1 h.k ++ leBytes 1 h.p ++ zeros 1 ++ leBytes 4 h.len ++ leBytes 2 h.plen ++ zeros 2 ++
    leBytes 4 h.prefix_ ++ leBytes 8 h.seq

def IgHdr.ofBytes (l : List Byte) : IgHdr :=
  { typ := field l 2 1, flags := field l 3 1, src := field l 4 2, dst := field l 6 2, origin := field l 8 2,
    epoch := field l 10 2, round := field l 12 4, seg := field l 16 2, group := field l 20 4, index := field l 24 1,
    k := field l 25 1, p := field l 26 1, len := field l 28 4, plen := field l 32 2, prefix_ := field l 36 4,
    seq := field l 40 8 }

/-- The reserved fields of a header are 0, its VERSION is 0001h and its TYPE is defined (R365, R366). -/
def igHdrOk (l : List Byte) : Bool :=
  decide (field l 0 2 = 1) && decide (field l 2 1 ≤ 9) && decide (field l 3 1 < 4) && decide (field l 18 2 = 0) &&
    decide (field l 27 1 = 0) && decide (field l 34 2 = 0)

/-- The Internet checksum of a byte string (RFC 768): the complement of the one's-complement sum of its 16-bit
big-endian words. -/
def inetSum (l : List Byte) : Nat :=
  let s := ((pieces 2 (ceilDiv l.length 2) l).map (fun w => beNat (slice w 0 2))).sum
  let s := s % 65536 + s / 65536
  let s := s % 65536 + s / 65536
  s % 65536 + s / 65536

/-- The UDP checksum over the pseudo-header of RFC 8200, the UDP header with a zero checksum, and the data. -/
def udpSum (src dst udp : List Byte) : Nat :=
  65535 - inetSum (src ++ dst ++ beBytes 4 udp.length ++ zeros 3 ++ [17#8] ++ udp)

/-- A UDP datagram with its checksum. -/
def udpPacket (sip dip : List Byte) (sport dport : Nat) (data : List Byte) : List Byte :=
  let head := beBytes 2 sport ++ beBytes 2 dport ++ beBytes 2 (8 + data.length)
  let c := udpSum sip dip (head ++ zeros 2 ++ data)
  head ++ beBytes 2 (if c = 0 then 65535 else c) ++ data

/-- The frame check sequence of IEEE 802.3, least significant byte first. -/
def ethFcs (l : List Byte) : List Byte :=
  leBytes 4 (0xFFFFFFFF ^^^ l.foldl (crcByte 0xEDB88320) 0xFFFFFFFF)

/-- Bytes of a port's BLOB object, in their order. -/
def objBytes (f : Fuses) (d : Dev) (idx sub n : Nat) : List Byte := leBytes n (obj f d idx sub)

/-- A frame of a port: its Ethernet, IPv6 and UDP headers around an Intaglio header, a ciphertext and a tag (R364). -/
def lhFrame (f : Fuses) (d : Dev) (p : Nat) (peer : List Byte) (h : IgHdr) (ct tag : List Byte) : List Byte :=
  let i := 0x5010 + p
  let vlan := obj f d i 3
  let flow := (((h.src ^^^ h.dst) * 16 + h.group % 16) % 2 ^ 20)
  let udp := udpPacket (objBytes f d i 4 16) (slice peer 8 16) (obj f d i 5 + h.group % 16) (field peer 6 2)
    (h.toBytes ++ ct ++ tag)
  let body := objBytes f d i 2 6 ++ objBytes f d i 1 6 ++
    (if bit vlan 15 then beBytes 2 0x8100 ++ beBytes 2 (vlan % 32768 % 4096 + 8192 * (bits vlan 14 12)) else []) ++
    beBytes 2 0x86DD ++ beBytes 4 (6 * 2 ^ 28 + (obj f d i 6 * 4) * 2 ^ 20 + flow) ++ beBytes 2 udp.length ++ [17#8] ++
    leBytes 1 (obj f d i 7) ++ objBytes f d i 4 16 ++ slice peer 8 16 ++ udp
  body ++ ethFcs body

/-- The bytes of a received frame without its FCS from the Intaglio header to the tag, where every check of R366 on its
outer headers holds. -/
def lhPayload (f : Fuses) (d : Dev) (p : Nat) (fr : List Byte) : Option (List Byte) :=
  let i := 0x5010 + p
  let o := if slice fr 12 2 = beBytes 2 0x8100 then 16 else 12
  let ip := fr.drop (o + 2)
  let plen := beNat (slice ip 4 2)
  let udp := slice ip 40 plen
  if fr.length + 4 ≤ 9216 ∧ slice fr 0 6 = objBytes f d i 1 6 ∧ slice fr o 2 = beBytes 2 0x86DD ∧
      slice ip 24 16 = objBytes f d i 4 16 ∧ slice ip 6 1 = [17#8] ∧ beNat (slice udp 2 2) = obj f d i 5 ∧
      beNat (slice udp 6 2) ≠ 0 ∧ inetSum (slice ip 8 32 ++ beBytes 4 udp.length ++ zeros 3 ++ [17#8] ++ udp) = 65535 ∧
      plen ≥ 72 ∧ ip.length ≥ 40 + plen then some (udp.drop 8)
  else none

/-- A frame with a good frame check sequence, without it. -/
def lhBody (fr : List Byte) : Option (List Byte) :=
  let b := fr.take (fr.length - 4)
  if fr.length ≥ 64 ∧ ethFcs b = fr.drop (fr.length - 4) then some b else none

end Sys2Proof.Machine
end

