-- ==== Sys2Proof/Machine/IgCore.lean ====
section
/-! DEFINITION. Intaglio's rounds: what a home engine sends, what it holds of each contribution, reports, admission,
membership and joining (R353, R361 to R385). -/

namespace Sys2Proof.Machine

/-! ## Sending (R366, R372) -/

/-- A datagram joins the holder's queue, with the holder's epoch and its injection stamp (R365, R372, R513). -/
def push (d : Dev) (x : Nat) (g : Dgram) : Dev :=
  d.modHolder x (fun h => { h with queue := h.queue ++ [{ g with epoch := h.epoch, stamp := d.stampNow }] })

/-- Two queue entries are one datagram. -/
def Dgram.same (a b : Dgram) : Bool :=
  decide ({ a with again := none, epoch := 0, stamp := 0 } = ({ b with again := none, epoch := 0, stamp := 0 } : Dgram))

/-- Present ranks other than this one. -/
def otherPresent (f : Fuses) (d : Dev) (x : Nat) : List Nat :=
  (bitList 64 (d.holder x).present).filter (· ≠ ownRank f d)

/-- A control datagram about a round (R366). -/
def pushCtl (d : Dev) (x j typ r seg group : Nat) (payload : List Byte) : Dev :=
  push d x { typ := typ, rank := j, round := r, seg := seg, group := group, payload := payload }

/-- ADMIT of a round, which carries the epoch of its decision (R365, R366). -/
def pushAdmit (d : Dev) (x j r mask epoch : Nat) : Dev :=
  let l := leBytes 8 mask ++ leBytes 1 (bitList 64 mask).length ++ zeros 7
  let g : Dgram := { typ := 5, rank := j, round := r, payload := l, epoch := epoch, stamp := d.stampNow }
  d.modHolder x (fun h => { h with queue := h.queue ++ [g] })

/-- The datagrams of a stream to a rank (R363). -/
def streamDgrams (f : Fuses) (d : Dev) (typ j r seg len : Nat) : List Dgram :=
  ((List.range (groupCount f d len)).map (fun g =>
    let k := groupK f d len g
    (List.range (k + igP f d)).map (fun i =>
      { typ := typ, rank := j, round := r, seg := seg, group := g, index := i, k := k, p := igP f d, len := len }))).flatten

/-- The bytes of the state stream (R384). -/
def stateLen (h : Holder) : Nat := let n := h.blk 64 8; 2 * n + n + n / 32

/-- Where bytes [o, o + n) of a stream lie in the holder's memory (R363, R384): of its plane, past the codebook entry that was
read with the post, or of its anchor and momentum. -/
def streamRanges (d : Dev) (x : Nat) (g : Dgram) (o n : Nat) : List (Nat × Nat) :=
  let h := d.holder x
  let m := min n (g.len - o)
  if g.typ = 8 then
    let a := 2 * h.blk 64 8
    let n1 := min m (a - o)
    [(h.blk 48 8 + o, n1), (h.blk 56 8 + (o + n1 - a), m - n1)]
  else
    match SMap.find? (h.round_ g.round).segs g.seg with
    | none => []
    | some s => let n1 := min m (256 - o); [(s.plane + (o + n1 - 256), m - n1)]

/-- Bytes [o, o + n) of a stream a holder sends, padded with 00h past its end (R363, R384); a plane leaves with the SECBASE of
its segment (R243, R357; log entry 77). -/
def streamBytes (f : Fuses) (d : Dev) (x : Nat) (g : Dgram) (o n : Nat) : List Byte :=
  let l := ((streamRanges d x g o n).map (fun q => holdRead f d x q.1 q.2)).flatten
  let l :=
    if g.typ = 8 then l
    else
      match SMap.find? ((d.holder x).round_ g.round).segs g.seg with
      | none => []
      | some s =>
        let n1 := min n (256 - o)
        slice s.book o n1 ++ applyMarks (baseMarks s.idx (igSecbase g.round g.seg)) (o + n1 - 256) l
  slice l 0 n

/-- The slices of its stream that a datagram is made from: itself, or every data slice of its group for a parity slice. -/
def Dgram.slices (f : Fuses) (d : Dev) (g : Dgram) : List Nat :=
  if g.typ ≠ 0 ∧ g.typ ≠ 8 then []
  else if g.index < g.k then [g.group * igK f d + g.index]
  else (List.range g.k).map (fun i => g.group * igK f d + i)

/-- What a datagram reads of the holder's memory. -/
def dgramRanges (f : Fuses) (d : Dev) (x : Nat) (g : Dgram) : List (Nat × Nat) :=
  ((g.slices f d).map (fun i => streamRanges d x g (i * igSlice f d) (igSlice f d))).flatten

/-- The payload of a datagram: a data slice, a parity slice, or a control payload (R363, R366). -/
def dgramPayload (f : Fuses) (d : Dev) (x : Nat) (g : Dgram) : List Byte :=
  if g.typ = 0 ∨ g.typ = 8 then
    let n := igSlice f d
    let l := (g.slices f d).map (fun i => streamBytes f d x g (i * n) n)
    if g.index < g.k then l.headD [] else (paritySlices g.p n l).getD (g.index - g.k) []
  else g.payload

/-- One part of a round's END (R367). -/
def endPart (h : Holder) (r nseg p : Nat) : List Byte :=
  let first := 2046 * p
  let count := min 2046 (nseg - first)
  leBytes 2 nseg ++ leBytes 2 first ++ leBytes 2 count ++ zeros 2 ++
    ((List.range count).map (fun i => leBytes 4 (match SMap.find? (h.round_ r).segs (first + i) with | some s => s.len | none => 0))).flatten

/-- Parts of an END (R367). -/
def endParts (nseg : Nat) : Nat := max 1 (ceilDiv nseg 2046)

/-! ## Contributions (R377) -/

/-- Every part of a rank's END has arrived (R367). -/
def Contrib.ended (c : Contrib) : Bool :=
  match c.nseg with
  | none => false
  | some n => (List.range (endParts n)).all (fun p => (SMap.find? c.parts p).isSome)

/-- The contribution is whole: its END and every segment it announces are in the slot (R377). -/
def Contrib.whole (c : Contrib) : Bool :=
  c.ended && !c.abandoned && (List.range (c.nseg.getD 0)).all (fun g => c.written.contains g)

/-- The HAVE mask of a round (R377). -/
def haveMask (f : Fuses) (d : Dev) (x r : Nat) : Nat :=
  let y := (d.holder x).round_ r
  (if y.ended.isSome then 2 ^ ownRank f d else 0) + ((y.recv.filter (fun p => p.2.whole)).map (fun p => 2 ^ p.1)).sum

/-- Every bit of `a` is set in `b`. -/
def subMask (a b : Nat) : Bool := a &&& b == a

/-! ## Applying ADMIT (R379, R380, R382) -/

/-- The F32 encoding of 1/n under RNE, +0 for n = 0 (R380). -/
def invF32 (n : Nat) : Nat :=
  if n = 0 then 0
  else
    let q := 2 ^ 80 / n
    let st := if 2 ^ 80 % n = 0 then 0 else 1
    (toFloat .f32 {} 0 (.fin false (2 * q + st) (-81))).1

/-- A holder's counter, of ROUNDS_ADMITTED, ROUNDS_MISSED, LATE, DROPPED and REMOVALS (R388). -/
def Holder.count (h : Holder) (i n : Nat) : Holder :=
  { h with counts := h.counts.set i (satAdd (if i = 4 then 2 ^ 32 - 1 else 2 ^ 64 - 1) (h.counts.getD i 0) n) }

/-- The round log entry (R382). -/
def logEntry (r epoch n flags admitted present : Nat) : List Byte :=
  let b := leBytes 4 r ++ leBytes 2 epoch ++ leBytes 1 n ++ leBytes 1 flags ++ leBytes 8 admitted ++ leBytes 8 present ++ zeros 4
  b ++ leBytes 4 (crc32c b)

/-- Round `a` comes before round `b`, in 32-bit serial order. -/
def roundBefore (a b : Nat) : Bool := let n := (b + 2 ^ 32 - a % 2 ^ 32) % 2 ^ 32; decide (0 < n ∧ n < 2 ^ 31)

/-- The oldest round not yet admitted (R374, R381, R388). -/
def Holder.openRound (h : Holder) : Nat :=
  match (List.range (h.rounds.length + 1)).find? (fun i => (h.round_ ((h.round + i) % 2 ^ 32)).admitted.isNone) with
  | some i => (h.round + i) % 2 ^ 32
  | none => h.round

/-- A round's datagrams leave the queue and the retention buffers (R372, R379). -/
def dropRound (d : Dev) (x r : Nat) : Dev :=
  let d := d.modHolder x (fun h => { h with queue := h.queue.filter (fun g => decide (g.round ≠ r ∨ g.typ ≥ 5)) })
  { d with lh := d.lh.map (fun q => (q.1, { q.2 with kept := q.2.kept.filter (fun k => decide (k.x ≠ x ∨ k.dg.round ≠ r ∨ k.dg.typ = 8)) })) }

/-- The regions ADMIT writes: log entry, slots to be zeroed, result and inverse plane (R380). -/
def admitRegions (f : Fuses) (d : Dev) (x r mask : Nat) : List (Nat × Nat) :=
  let h := d.holder x
  (if h.blk 88 4 = 0 then [] else [(h.blk 80 8 + 32 * (r % h.blk 88 4), 32)]) ++
    ((List.range (igSize f d)).filter (fun j => !mask.testBit j)).map (fun j => (slotAddr f d x j r, h.blk 24 8)) ++
    [(h.blk 40 8, 256 + 65536)]

/-- The rank mask for the round after `r`: PRESENT with the COMMITs that take effect by it (R380, R382). -/
def Holder.nextPresent (h : Holder) (r : Nat) : Nat :=
  (h.commits.filter (fun c => !roundBefore ((r + 1) % 2 ^ 32) c.from_)).foldl (fun _ c => c.present) h.present

/-- A holder adopts a COMMIT (R381, R384): its epoch, PRESENT and coordinator, the ranks removed, and its own join.  The sender is
coordinator unless it has removed itself. -/
def adoptIg (f : Fuses) (d : Dev) (x : Nat) (c : IgCommit) : Dev :=
  let h := d.holder x
  let own := ownRank f d
  let gone := (bitList 64 h.present).filter (fun j => !c.present.testBit j)
  let joining := decide (h.state = .joining ∧ c.joiner = own)
  let d := d.modHolder x (fun h =>
    let h := h.count 4 gone.length
    { h with epoch := c.epoch, present := c.present,
             coord := if c.present.testBit c.sender then c.sender else (bitList 64 c.present).headD c.sender,
             commitAt := some c.from_, state := if c.present.testBit own then h.state else .removed,
             missBy := h.missBy.filter (fun p => c.present.testBit p.1 && h.present.testBit p.1),
             queue := h.queue.filter (fun g => !gone.contains g.rank),
             round := if joining then c.from_ else h.round,
             rounds := if joining then [] else h.rounds,
             joinFrom := if joining then some c.from_ else h.joinFrom,
             joinRecv := if joining then none else h.joinRecv,
             donating := if own = c.sender ∧ c.joiner ≠ 255 ∧ c.joiner ≠ own then h.donating.put c.joiner c.from_ else h.donating })
  let d := if joining then { d with lh := d.lh.map (fun q => (q.1, { q.2 with kept := q.2.kept.filter (fun k => k.x != x) })) } else d
  if gone.isEmpty then d else eventAll f d Status.igMemberRemoved x

/-- COMMITs whose FROM_ROUND has come take effect, in order (R381, R384). -/
def adoptDue (f : Fuses) (d : Dev) (x : Nat) : Dev :=
  let h := d.holder x
  let due := fun (c : IgCommit) => !roundBefore h.round c.from_ || (decide (h.state = .joining) && c.joiner == ownRank f d)
  (h.commits.filter due).foldl (fun d c => adoptIg f d x c) (d.modHolder x (fun h => { h with commits := h.commits.filter (fun c => !due c) }))

/-- What the home engine does on ADMIT (R380, R382, R386). -/
def applyAdmit (f : Fuses) (d : Dev) (x r mask epoch : Nat) : Dev :=
  let h := d.holder x
  let n := (bitList 64 mask).length
  let own := mask.testBit (ownRank f d)
  let flags := (if own then 1 else 0) + (if (match h.commitAt with | some c => !roundBefore r c | none => false) then 2 else 0)
  let pr := h.nextPresent r
  let d := if h.blk 88 4 = 0 then d
    else holdWrite f d x (h.blk 80 8 + 32 * (r % h.blk 88 4)) (logEntry r epoch n flags mask pr)
  let d := ((List.range (igSize f d)).filter (fun j => !mask.testBit j)).foldl
    (fun d j => holdWrite f d x (slotAddr f d x j r) (zeros (h.blk 24 8))) d
  let d := holdWrite f d x (h.blk 40 8) (leBytes 4 r ++ leBytes 2 epoch ++ leBytes 1 n ++ leBytes 1 flags ++
    leBytes 8 mask ++ leBytes 8 pr ++ zeros 232)
  let d := holdWrite f d x (h.blk 40 8 + 256) ((List.replicate 16384 (leBytes 4 (invF32 n))).flatten)
  let d := igToken f d x (h.blk 93 1)
  let drop := !own && obj f d 0x5000 2 == 1
  let back := lhUp f d (x % 2) && h.port != x % 2
  let d := d.modHolder x (fun h =>
    let h := if own then { h.count 0 1 with misses := 0 } else { h.count 1 1 with misses := min 255 (h.misses + 1) }
    let h := if drop then h.count 3 1 else h
    { h with round := (r + 1) % 2 ^ 32, rounds := h.rounds.del r,
             commitAt := (match h.commitAt with | some c => if roundBefore r c then some c else none | none => none),
             port := if back then x % 2 else h.port,
             queue := if back then h.queue.map (fun g => { g with again := none }) else h.queue })
  adoptDue f d x

/-- The holder applies the ADMITs it holds, from its oldest round on, each once its ROUND_END has been taken, or leaves the group
(R380).  The fuel is the number of rounds it may hold. -/
def tryApply (f : Fuses) : Nat → Dev → Nat → Dev
  | 0, d, _ => d
  | fuel + 1, d, x =>
    let h := d.holder x
    let r := h.round
    let y := h.round_ r
    match y.admitted with
    | none => d
    | some (mask, ep) =>
      if h.live = false ∨ y.ended = none then d
      else if subMask mask (haveMask f d x r) = false ∧ obj f d 0x5000 0 = 2 then d
      else if subMask mask (haveMask f d x r) = false then
        eventAll f (d.modHolder x (fun h => { h with state := .removed })) Status.igLeft x
      else if ((admitRegions f d x r mask).all (fun q => holdReady f d x q.1 q.2)) = false then d
      else tryApply f fuel (applyAdmit f d x r mask ep) x

/-- Every ADMIT a holder can apply is applied. -/
def applyAll (f : Fuses) (d : Dev) (x : Nat) : Dev := tryApply f ((d.holder x).rounds.length + 1) d x

/-- A holder knows a round's ADMIT (R372, R379, R381, R388): the contributions that are late, the ranks that missed, and the
datagrams of the round that need not be sent again. -/
def noteAdmit (f : Fuses) (d : Dev) (x r mask epoch : Nat) : Dev :=
  let late := (List.range (igSize f d)).filter (fun j => !mask.testBit j && j != ownRank f d)
  let d := d.modHolder x (fun h =>
    { h.modRound r (fun y => { y with admitted := some (mask, epoch) }) with
      lastAdmit := mask,
      lateOf := late.map (fun j => (r, j)) ++ h.lateOf.filter (fun q => q.1 != r),
      missBy := (bitList 64 h.present).foldl (fun m j => SMap.set 0 m j (if mask.testBit j then 0 else SMap.get 0 m j + 1)) h.missBy })
  dropRound d x r

/-- ADMIT of a round can be taken: the holder is served, and the round is one of its two oldest not yet admitted (R374). -/
def admits (d : Dev) (x r : Nat) : Bool :=
  let h := d.holder x
  h.live && (h.round_ r).admitted.isNone && (r == h.openRound || r == (h.openRound + 1) % 2 ^ 32)

/-- ADMIT of a round has been received (R379, R380). -/
def takeAdmit (f : Fuses) (d : Dev) (x r mask epoch : Nat) : Dev :=
  if admits d x r then applyAll f (noteAdmit f d x r mask epoch) x else d

/-! ## Membership (R381, R384) -/

/-- The majority rule of R341 over ranks, with MIN_SITES (R381). -/
def igQuorum (f : Fuses) (d : Dev) (old new : List Nat) : Bool :=
  (decide (2 * new.length > old.length) || (decide (2 * new.length = old.length) && new.contains (old.headD 0))) &&
    decide (new.length ≥ obj f d 0x5000 6)

/-- The payload of COMMIT (R366). -/
def commitBytes (epoch from_ present joiner : Nat) : List Byte :=
  leBytes 2 epoch ++ zeros 2 ++ leBytes 4 from_ ++ leBytes 8 present ++ leBytes 1 joiner ++ zeros 7

/-- A COMMIT is taken (R381, R384): one with an empty PRESENT abandons the group; another takes effect at its FROM_ROUND. -/
def takeCommit (f : Fuses) (d : Dev) (x : Nat) (c : IgCommit) : Dev :=
  if c.present = 0 then eventAll f (d.modHolder x (fun h => { h with state := .abandoned, epoch := c.epoch })) Status.igAbandoned x
  else adoptDue f (d.modHolder x (fun h => { h with commits := h.commits ++ [c] })) x

/-- The epoch and PRESENT of the last COMMIT a holder has taken. -/
def Holder.latest (h : Holder) : Nat × Nat :=
  match h.commits.getLast? with
  | some c => (c.epoch, c.present)
  | none => (h.epoch, h.present)

/-- The coordinator commits a new PRESENT from its oldest open round on, or abandons (R381, R384). -/
def commitIg (f : Fuses) (d : Dev) (x new joiner : Nat) : Dev :=
  let h := d.holder x
  let old := bitList 64 h.latest.2
  let own := ownRank f d
  let ep := (h.latest.1 + 1) % 65536
  let ok := igQuorum f d (if joiner = 255 then old else bitList 64 new) (bitList 64 new)
  let pr := if ok then new else 0
  let tos := (old ++ (if joiner = 255 then [] else [joiner])).filter (· ≠ own)
  let d := tos.foldl (fun d j => pushCtl d x j 6 h.openRound 0 0 (commitBytes ep h.openRound pr joiner)) d
  takeCommit f d x { epoch := ep, from_ := h.openRound, present := pr, joiner := joiner, sender := own }

/-- After ADMIT of a round its coordinator commits the removals and the joins that are due (R381, R384). -/
def afterAdmit (f : Fuses) (d : Dev) (x : Nat) : Dev :=
  let h := d.holder x
  let out := (bitList 64 h.present).filter (fun j => decide (SMap.get 0 h.missBy j ≥ obj f d 0x5000 5))
  let d := if out.isEmpty then d else commitIg f d x (((bitList 64 h.present).filter (fun j => !out.contains j)).map (fun j => 2 ^ j)).sum 255
  h.joiners.foldl (fun d j =>
    let h := d.holder x
    let d := d.modHolder x (fun h => { h with joiners := h.joiners.erase j })
    if h.live ∧ h.latest.2.testBit j = false then commitIg f d x (h.latest.2 + 2 ^ j) j else d) d

/-! ## Reports and decisions (R377, R378) -/

/-- The set ADMIT would name now, when the coordinator can decide (R378). -/
def decision (f : Fuses) (d : Dev) (x r : Nat) : Option Nat :=
  let h := d.holder x
  let y := h.round_ r
  let pres := bitList 64 h.present
  let all := pres.all (fun j => (SMap.find? y.reports j).isSome)
  let mode := obj f d 0x5000 0
  if mode = 0 then (if all then some h.present else none)
  else if mode = 1 then
    if all ∨ (y.waited = true ∧ (SMap.find? y.reports (ownRank f d)).isSome = true) then
      some (((y.reports.filter (fun p => y.reports.all (fun q => q.2.testBit p.1))).map (fun p => 2 ^ p.1)).sum)
    else none
  else none

/-- The coordinator decides a round when it can: it commits what is due, sends ADMIT to every present rank, and applies it
(R378, R381; log entry 79: the COMMITs go first, so that every holder's records show them). -/
def decide_ (f : Fuses) (d : Dev) (x r : Nat) : Dev :=
  let h := d.holder x
  if h.coord ≠ ownRank f d ∨ admits d x r = false then d
  else match decision f d x r with
    | none => d
    | some mask =>
      let tos := otherPresent f d x
      let d := afterAdmit f (noteAdmit f d x r mask h.epoch) x
      let d := tos.foldl (fun d j => pushAdmit d x j r mask h.epoch) d
      applyAll f d x

/-- The holder reports HAVE of a round to its coordinator (R377). -/
def report (f : Fuses) (d : Dev) (x r : Nat) : Dev :=
  let m := haveMask f d x r
  let h := d.holder x
  let d := d.modHolder x (fun h => h.modRound r (fun y => { y with reported := some m }))
  if h.coord = ownRank f d then
    decide_ f (d.modHolder x (fun h => h.modRound r (fun y => { y with reports := y.reports.put (ownRank f d) m }))) x r
  else pushCtl d x h.coord 4 r 0 0 (leBytes 8 m)

/-- Where the round log's entry for a round lies (R382). -/
def logRange (h : Holder) (r : Nat) : List (Nat × Nat) := if h.blk 88 4 = 0 then [] else [(h.blk 80 8 + 32 * (r % h.blk 88 4), 32)]

/-- The mask the holder's own round log gives for a round, where its entry is valid (R378, R382). -/
def loggedAdmit (f : Fuses) (d : Dev) (x r : Nat) : Option Nat :=
  match logRange (d.holder x) r with
  | [] => none
  | q :: _ =>
    let e := holdRead f d x q.1 32
    if holdPoisoned f d x [q] = false ∧ field e 0 4 = r ∧ field e 24 4 = 0 ∧ field e 28 4 = crc32c (e.take 28) then some (field e 8 8) else none

/-- The engine reads the round log for a round, in replay mode, once (R378). -/
def readLog (f : Fuses) (d : Dev) (x r : Nat) : Dev :=
  let h := d.holder x
  if (h.round_ r).logged.isSome then d
  else if holdHave f d x (logRange h r) = false then holdAsk f d x (logRange h r)
  else
    let m := loggedAdmit f d x r
    let d := (holdUsed f d x (logRange h r)).modHolder x (fun h => h.modRound r (fun y => { y with logged := some m }))
    if m.isNone then eventAll f d Status.logMismatch x else d

/-- HAVE of a round may have grown, or its required set shrunk: strict mode reports when HAVE holds PRESENT, replay
mode admits from the log, and a pending ADMIT is applied (R377, R378, R380). -/
def haveChanged (f : Fuses) (d : Dev) (x r : Nat) : Dev :=
  let h := d.holder x
  let y := h.round_ r
  if h.live = false then d
  else if y.admitted.isSome then applyAll f d x
  else if y.ended = none then d
  else
    let mode := obj f d 0x5000 0
    if mode = 0 ∧ y.reported = none ∧ subMask h.present (haveMask f d x r) then report f d x r
    else if mode = 2 then
      let d := readLog f d x r
      match ((d.holder x).round_ r).logged with
      | some (some m) => if subMask m (haveMask f d x r) then takeAdmit f d x r m h.epoch else d
      | _ => d
    else decide_ f d x r

/-! ## Receiving (R366, R370, R374) -/

/-- The reserved bytes of a payload are 0 (R366); an END is held to R367 where it is taken. -/
def payloadOk (typ : Nat) (l : List Byte) : Bool :=
  if typ = 5 then (slice l 9 7).all (· == 0#8) else if typ = 6 then decide (field l 2 2 = 0) && (slice l 17 7).all (· == 0#8) else true

/-- A frame received on a port and of the row's type is checked, decrypted and given to `g` with its header, the X
coordinate of its holder, the sender's rank and the payload (R352, R366, R370).  While the vault bus is frozen it waits for its key
(R399, R515); an operation that meets a mismatch is dropped (R406, R409). -/
def igReceive (p : Nat) (fr : List Byte) (typ : Nat) (f : Fuses) (d : Dev)
    (g : Dev → IgHdr → Nat → Nat → List Byte → Dev) : Dev :=
  if lhUp f d p = false then d
  else if d.frozen (vaultBus p) then d.modLh p (fun q => { q with held := q.held ++ [(typ, fr)] })
  else match lhBody fr with
    | none => d
    | some b =>
      match lhPayload f d p b with
      | none => d.bump (0x5010 + p) 0x12 64 1
      | some l =>
        let h := IgHdr.ofBytes l
        if igHdrOk l = false ∨ l.length ≠ 64 + h.plen ∨ h.plen > 8192 then d.bump (0x5010 + p) 0x12 64 1
        else if h.typ ≠ typ then d
        else
          let me := devAddr f d
          let x := coordOf f d h.origin 0
          match rankOfDev f d h.src with
          | none => d
          | some j =>
            if h.dst ≠ me ∨ coordOf f d h.origin 1 ≠ coordOf f d me 1 ∨ coordOf f d h.origin 2 ≠ coordOf f d me 2 ∨
                (SMap.find? d.holders x).isNone = true ∨ (d.holder x).port ≠ p then d
            else
              let ct := slice l 48 h.plen
              match slotKey d (obj f d 0x5031 j) with
              | none => d.bump (0x5010 + p) 0x13 64 1
              | some key =>
                let d := busTurn d p (unitAsk d.stampNow)
                if d.vault.clash then ({ d with vault := { d.vault with clash := false } } : Dev).bump 0x6000 (cipherCtr p 2) 32 1 else
                let d := ((d.bump 0x6000 (cipherCtr p 0) 64 1).bump 0x6000 (cipherCtr p 1) 64 h.plen).moved (360 + p) 1
                let pl := gcmCrypt key (slice l 36 12) ct
                if obj f d 0x5031 j = 0 ∨ gcmTag key (slice l 36 12) (l.take 48) ct ≠ l.drop (48 + h.plen) then
                  d.bump (0x5010 + p) 0x13 64 1
                else if payloadOk typ pl = false then d.bump (0x5010 + p) 0x12 64 1
                else
                  let d := (d.bump (0x5010 + p) 0x11 64 1).moved (358 + p) 1
                  let d := d.modHolder x (fun y => { y with heard := y.heard.put j d.cyc })
                  g d h x j pl

/-- A datagram about a round is taken for the two oldest rounds not yet admitted; others count in STALE, and those of a
late contribution in LATE (R374, R379; log entry 80). -/
def inWindowIg (p : Nat) (d : Dev) (h : IgHdr) (x j : Nat) (g : Dev → Dev) : Dev :=
  let o := d.holder x
  if o.live = false then d
  else if h.round = o.openRound ∨ h.round = (o.openRound + 1) % 2 ^ 32 then g d
  else
    let late := decide (h.typ ≤ 1) && o.lateOf.contains (h.round, j)
    (if late then d.modHolder x (fun y => y.count 2 1) else d).bump (0x5010 + p) 0x19 64 1

/-! ## The intake (R375; log entry 74) -/

/-- Streams under receipt. -/
def streamsOf (d : Dev) : List RecvSeg :=
  (d.holders.map (fun q => ((q.2.rounds.map (fun r => (r.2.recv.map (fun c => c.2.segs.map Prod.snd)).flatten)).flatten) ++
    q.2.joinRecv.toList)).flatten

/-- The slices of a port's intake that streams hold. -/
def intakeTaken (d : Dev) (p : Nat) : List Nat := (((streamsOf d).filter (fun s => s.port == p)).map RecvSeg.place).flatten

/-- Room in a port's intake for a stream of `len` bytes: its lowest free slices; none where it has too few. -/
def newStream (f : Fuses) (d : Dev) (p len : Nat) : Option RecvSeg :=
  let n := sliceCount f d len
  let t := intakeTaken d p
  if t.length + n > obj f d (0x5010 + p) 0x0B / igSlice f d then none
  else some { len := len, port := p, place := ((List.range (t.length + n)).filter (fun i => !t.contains i)).take n }

/-- Where data slice `i` of a stream lies in the intake. -/
def sliceAddr (f : Fuses) (d : Dev) (s : RecvSeg) (i : Nat) : Nat := obj f d (0x5010 + s.port) 0x0A + igSlice f d * s.place.getD i 0

/-- The bytes of a datagram of a stream that is held: a data slice from the intake, unless it still waits to be written. -/
def sliceOf (f : Fuses) (d : Dev) (s : RecvSeg) (g i : Nat) : List Byte :=
  match SMap.get [] (SMap.get [] s.groups g) i with
  | [] => readBytes d.mem.bytes (sliceAddr f d s (g * igK f d + i)) (igSlice f d)
  | l => l

/-- Who a long-haul port is when it accesses its intake. -/
def intakeWho (d : Dev) (p : Nat) : Who := { tile := if p = 0 then 0 else 15, act := 3, stamp := d.stampNow }

/-- The data slices of a stream that wait go into the intake, where its lines can be written (R231, R375). -/
def putSlices (f : Fuses) (d : Dev) (s : RecvSeg) : Dev × RecvSeg :=
  s.groups.foldl (fun r g => g.2.foldl (fun r q =>
    let a := sliceAddr f r.1 s (g.1 * igK f d + q.1)
    let n := igSlice f d
    if q.2 = [] ∨ q.1 ≥ groupK f d s.len g.1 ∨ a + n > jobTop f d ∨ writeReady f r.1 (intakeWho d s.port) (a, n) = false then r
    else (writeRun f r.1 (intakeWho d s.port) a q.2,
      { r.2 with groups := r.2.groups.put g.1 (SMap.put (SMap.get [] r.2.groups g.1) q.1 []) })) r) (d, s)

/-- A slice is stored in a stream under receipt; a group that becomes complete with parity is recovered and counts (R375,
R389). -/
def storeSlice (p : Nat) (f : Fuses) (d : Dev) (s : RecvSeg) (h : IgHdr) (l : List Byte) : Dev × RecvSeg :=
  let g := SMap.get [] s.groups h.group
  if (SMap.find? g h.index).isSome ∨ h.index ≥ h.k + h.p ∨ h.group ≥ groupCount f d s.len ∨ h.k ≠ groupK f d s.len h.group ∨
      l.length ≠ igSlice f d then (d, s)
  else
    let g' := SMap.put g h.index l
    let s' := { s with groups := s.groups.put h.group g' }
    let missing := (List.range h.k).filter (fun i => (SMap.find? g' i).isNone)
    if g'.length = h.k ∧ missing ≠ [] then
      let got := g'.map (fun q => (q.1, sliceOf f d s' h.group q.1))
      let whole := recoverGroup h.k (igP f d) (igSlice f d) got
      let g'' := missing.foldl (fun m i => SMap.put m i (whole.getD i [])) g'
      putSlices f (d.bump (0x5010 + p) 0x16 64 1) { s' with groups := s'.groups.put h.group g'' }
    else putSlices f d s'

/-- Every group of a stream holds at least K of its datagrams (R373). -/
def streamComplete (f : Fuses) (d : Dev) (s : RecvSeg) : Bool :=
  (List.range (groupCount f d s.len)).all (fun g => decide ((SMap.get [] s.groups g).length ≥ groupK f d s.len g))

/-- The stream of a whole segment (R363, R375). -/
def recoverStream (f : Fuses) (d : Dev) (s : RecvSeg) : List Byte :=
  (((List.range (sliceCount f d s.len)).map (fun i => sliceOf f d s (i / igK f d) (i % igK f d))).flatten).take s.len

/-- The lines of the intake a stream lies in. -/
def streamLines (f : Fuses) (d : Dev) (s : RecvSeg) : List (Nat × Nat) :=
  (List.range s.place.length).map (fun i => (sliceAddr f d s i, igSlice f d))

end Sys2Proof.Machine
end

