-- ==== Sys2Proof/Machine/IgRows.lean ====
section
/-! DEFINITION. The Intaglio rows: forming and joining groups, posts, egress, each type of datagram, completions and
timers, and the ports (R353, R360 to R387). -/

namespace Sys2Proof.Machine

/-! ## Forming and joining (R353, R384, R390) -/

/-- The regions an IG block names (R359), its codebook table up to a context's BOOK_LIMIT. -/
def blockRegions (f : Fuses) (d : Dev) (b : List Byte) (limit : Nat) : List (Nat × Nat) :=
  let n := field b 64 8
  [(field b 0 8, 32 * field b 8 4), (field b 16 8, field b 24 8 * igSize f d * (if obj f d 0x5000 1 = 1 then 2 else 1)),
    (field b 32 8, 256 * limit), (field b 40 8, 256 + 65536), (field b 48 8, 2 * n), (field b 56 8, n + n / 32),
    (field b 80 8, 32 * field b 88 4)]

/-- Every line of a region lies in a mapping of a context (R359). -/
def regionMapped (d : Dev) (g : Nat) (q : Nat × Nat) : Bool :=
  q.2 == 0 || (linesOf q.1 q.2).all (fun l => (d.ctx g).maps.any (fun m => decide (m.daddr ≤ 256 * l ∧ 256 * l < m.daddr + m.len)))

/-- An IG block keeps R359: its reserved fields, its ranges, and its regions mapped in one open context, which is the job's (log
entry 71); the mappings of another device are its own. -/
def blockOk (f : Fuses) (d : Dev) (x : Nat) (b : List Byte) : Bool :=
  let n := field b 64 8
  let ne := field b 72 4
  let entries := field b 8 4
  decide (field b 12 4 = 0) && decide (field b 76 4 = 0) && decide (field b 95 1 = 0) && (b.drop 96).all (fun y => y == 0#8) &&
    decide (16 ≤ entries ∧ entries ≤ 65536 ∧ 2 ^ Nat.log2 entries = entries) && decide (field b 88 4 ≤ 2 ^ 24) &&
    decide (16 ≤ ne ∧ ne ≤ 61440 ∧ ne % 16 = 0) && decide (n % 131072 = 0) && decide (field b 92 1 < 128) &&
    decide (field b 93 1 < 96 ∧ field b 94 1 < 128) &&
    (!isOwn f d x || (openCtxs d).any (fun g => (blockRegions f d b (obj f d (ctxIdx g 0xB010) 1)).all (regionMapped d g)))

/-- The digest of R353 over its values in their order, each at its own size. -/
def igDigest (f : Fuses) (d : Dev) : Nat :=
  crc32c (leBytes 8 (obj f d 0x5000 0x0A) ++ leBytes 4 (obj f d 0x5000 0x0B) ++ leBytes 2 (obj f d 0x5000 0x0C) ++
    leBytes 1 (obj f d 0x5000 0) ++ leBytes 1 (obj f d 0x5000 1) ++ leBytes 1 (obj f d 0x5000 2) ++
    leBytes 1 (igK f d) ++ leBytes 1 (igP f d) ++ leBytes 2 (igSlice f d))

/-- Where the peer table lies (R390). -/
def peerTable (f : Fuses) (d : Dev) : Nat × Nat := (obj f d 0x5000 0x0E, 32 * obj f d 0x5000 0x0F)

/-- The peer table as the engine reads it (R390): valid entries, by 256 × rank + X. -/
def readPeers (f : Fuses) (d : Dev) : SMap (List Byte) :=
  ((List.range (obj f d 0x5000 0x0F)).map (fun i => readBytes d.mem.bytes ((peerTable f d).1 + 32 * i) 32)).foldl
    (fun m e => if (field e 4 1) % 2 = 1 ∧ field e 4 1 < 2 ∧ field e 5 1 = 0 ∧ field e 24 8 = 0 then
        SMap.put m (256 * field e 0 1 + field e 1 1) e else m) []

/-- Where a holder's IG block lies (R359). -/
def blockRange (f : Fuses) (d : Dev) (x : Nat) : List (Nat × Nat) := [(obj f d 0x5040 x, 256)]

/-- A holder's IG block as read; an empty one where its line is poisoned. -/
def readBlock (f : Fuses) (d : Dev) (x : Nat) : List Byte :=
  if holdPoisoned f d x (blockRange f d x) then [] else holdRead f d x (obj f d 0x5040 x) 256

/-- Counterparts of every served holder, as 64 x + rank (R353). -/
def counterparts (f : Fuses) (d : Dev) : List Nat :=
  ((servedXs f d).map (fun x => ((List.range (igSize f d)).filter (· ≠ ownRank f d)).map (fun j => 64 * x + j))).flatten

/-- Every counterpart has a valid peer entry, every IG block keeps R359, and this site is one of SITES (R351, R390). -/
def igConfigOk (f : Fuses) (d : Dev) (peers : SMap (List Byte)) : Bool :=
  (igSites f d).contains (siteOf f d (devAddr f d)) &&
    (servedXs f d).all (fun x => blockOk f d x (readBlock f d x)) &&
    (counterparts f d).all (fun c => (SMap.find? peers (256 * (c % 64) + c / 64)).isSome)

/-- The round groups are formed (R353): holders and retention of an earlier group are gone. -/
def igFormed (f : Fuses) (d0 : Dev) : Dev :=
  (servedXs f d0).foldl (fun d x => d.setHolder x
    { state := .formed, port := x % 2, block := (d0.holder x).block, round := obj f d 0x5000 0x0B,
      epoch := obj f d 0x5000 0x0C, present := 2 ^ igSize f d - 1, coord := 0 })
    { d0 with holders := [], lh := d0.lh.map (fun q => (q.1, { q.2 with kept := [] })) }

/-- The handles of an IG_FORM complete. -/
def endIgForm (f : Fuses) (d : Dev) (r : IgFormRec) (st : Nat) : Dev :=
  r.handles.foldl (fun d h => completeHandle f d h st 0) { d with igForm := none }

/-- The counterparts' answers to FORM are held to this device's digest (R353). -/
def igAnswers (f : Fuses) (d : Dev) : Dev :=
  match d.igForm with
  | none => d
  | some r =>
    if r.answers.any (fun a => decide (a.2.2 ≠ igDigest f d) && (counterparts f d).contains (64 * a.1 + a.2.1)) then
      endIgForm f d r Status.igMismatch
    else
      let formed := r.formed ++ r.answers.map (fun a => 64 * a.1 + a.2.1)
      if (counterparts f d).all (fun c => formed.contains c) then endIgForm f (igFormed f d) r 0
      else { d with igForm := some { r with formed := formed, answers := [] } }

/-- An IG_FORM goes on (R353, R359, R390): the peer table and the IG blocks are read, FORM goes to every counterpart, and the
answers that have come count. -/
def igFormGo (f : Fuses) (d : Dev) : Dev :=
  match d.igForm with
  | none => d
  | some r =>
    if r.sent then d
    else
      let xs := servedXs f d
      let w : Who := { tile := 0, act := 3, stamp := d.stampNow }
      if runReady f d w (peerTable f d) = false ∨ xs.all (fun x => holdHave f d x (blockRange f d x)) = false then
        xs.foldl (fun d x => holdAsk f d x (blockRange f d x)) d
      else
        let peers := readPeers f d
        let ok := igConfigOk f d peers && (poisonedIn f d [peerTable f d]).isEmpty
        let blocks := xs.map (fun x => (x, readBlock f d x))
        let d := xs.foldl (fun d x => holdUsed f d x (blockRange f d x)) (noteRead f d w [peerTable f d])
        if ok = false then endIgForm f d r Status.igConfig
        else
          let d := blocks.foldl (fun d b => d.modHolder b.1 (fun h => { h with block := b.2 }))
            { d with igPeers := peers, igForm := some { r with sent := true } }
          igAnswers f ((counterparts f d).foldl (fun d c => d.emit (.form (c / 64) (c % 64) (igDigest f d))) d)

/-- IG_FORM (R353, R390): `l` holds the answers that have come.  One that finds a formation under way ends with it (log
entry 70). -/
def igFormCmd (f : Fuses) (d : Dev) (h : Nat) (l : List (Nat × Nat × Nat)) : Dev :=
  match d.igForm with
  | some r => igAnswers f { d with igForm := some { r with handles := r.handles ++ [h], answers := r.answers ++ l } }
  | none => igFormGo f { d with igForm := some { handles := [h], answers := l },
                                holders := d.holders.map (fun p => (p.1, { p.2 with counts := [0, 0, 0, 0, 0] })) }

/-- IG_FORM_TIMEOUT (R353). -/
def igFormTimeout (f : Fuses) (d : Dev) : Dev :=
  match d.igForm with
  | none => d
  | some r => endIgForm f d r Status.igFormTimeout

/-- A joiner asks to join (R384): JOIN goes to the coordinator it knows, the lowest other rank where it knows none. -/
def joinAsk (f : Fuses) (d : Dev) (h x : Nat) : Dev :=
  let o := d.holder x
  let own := ownRank f d
  let known := decide (o.state ≠ .unformed ∧ o.coord ≠ own)
  let to_ := if known then o.coord else ((bitList 64 o.present ++ List.range (igSize f d)).filter (· ≠ own)).headD 0
  let d := d.setHolder x
    (if o.state = .joining then { o with joinHandles := o.joinHandles ++ [h] }
     else { state := .joining, port := x % 2, block := o.block, blockDue := true, epoch := o.epoch, present := o.present, coord := to_,
            joinHandles := [h], nextPost := o.nextPost, released := o.released, counts := o.counts })
  pushCtl d x to_ 9 o.round 0 0 []

/-- IG_JOIN (R384): every served holder whose rank is not in PRESENT joins.  The peer table is the one read at IG_FORM
(R390). -/
def igJoinCmd (f : Fuses) (d : Dev) (h : Nat) : Dev :=
  let xs := (servedXs f d).filter (fun x => !(d.holder x).present.testBit (ownRank f d) || (d.holder x).state == .removed)
  let ok := (igSites f d).contains (siteOf f d (devAddr f d)) &&
    (counterparts f d).all (fun c => (SMap.find? d.igPeers (256 * (c % 64) + c / 64)).isSome)
  if ok = false then completeHandle f d h Status.igConfig 0
  else if xs.isEmpty then completeHandle f d h 0 0
  else xs.foldl (fun d x => joinAsk f d h x) d

/-- A holder's part of some IG_JOINs ends: each completes once no holder joins under it. -/
def endJoin (f : Fuses) (d : Dev) (x : Nat) (st : Nat) : Dev :=
  let hs := (d.holder x).joinHandles
  let d := d.modHolder x (fun h => { h with joinHandles := [] })
  hs.foldl (fun d h => if st = 0 ∧ d.holders.any (fun o => o.2.joinHandles.contains h) then d else completeHandle f d h st 0) d

/-- An IG block that is to be read again is read once it can be (R359, R386); one that does not keep R359 ends a join. -/
def rereadBlock (f : Fuses) (d : Dev) (x : Nat) : Dev :=
  if (d.holder x).blockDue = false then d
  else if holdHave f d x (blockRange f d x) = false then holdAsk f d x (blockRange f d x)
  else
    let b := readBlock f d x
    let d := (holdUsed f d x (blockRange f d x)).modHolder x (fun h => { h with blockDue := false, block := b })
    if (d.holder x).state = .joining ∧ blockOk f d x b = false then
      endJoin f (d.modHolder x (fun h => { h with state := .removed })) x Status.igConfig
    else d

/-! ## Posts (R360 to R362) -/

/-- Where the next post entry of a holder lies (R360). -/
def postRange (d : Dev) (x : Nat) : Nat × Nat :=
  let h := d.holder x
  (h.blk 0 8 + 32 * ((h.nextPost + 2 ^ 32 - 1) % 2 ^ 32 % max 1 (h.blk 8 4)), 32)

/-- The engine of the holder polls its posts (R360, R386). -/
def polls (f : Fuses) (d : Dev) (x : Nat) : Bool :=
  let h := d.holder x
  h.live && !h.blockDue && lhUp f d h.port && !unitInReset d (igUnit h.port)

/-- The next post entry of a holder, where it has been read and its SEQ is the next expected value (R360). -/
def nextPost (f : Fuses) (d : Dev) (x : Nat) : Option (List Byte) :=
  let q := postRange d x
  let e := holdRead f d x q.1 32
  if polls f d x ∧ holdHave f d x [q] ∧ holdPoisoned f d x [q] = false ∧ field e 0 4 = (d.holder x).nextPost then some e else none

/-- A post entry is valid (R360). -/
def postOk (f : Fuses) (d : Dev) (x : Nat) (e : List Byte) : Bool :=
  let kind := field e 4 1
  let y := (d.holder x).round_ (field e 8 4)
  decide (1 ≤ kind ∧ kind ≤ 3) && decide (field e 5 3 = 0) && decide (field e 26 6 = 0) &&
    (decide (kind = 2) || decide (field e 14 2 = 0)) &&
    (decide (kind ≠ 1) || (decide (field e 24 2 = igBook f d x (ownRank f d) (field e 8 4)) &&
      (match y.ended with | some n => decide (field e 12 2 < n) | none => true))) &&
    (decide (kind ≠ 2) || y.posted.all (fun g => decide (g < field e 14 2)))

/-- What the engine reads when it takes a post beside its entry: of a SEGMENT the head of its plane, and then its plane index and
its codebook entry (R362). -/
def postNeeds (f : Fuses) (d : Dev) (x : Nat) (e : List Byte) : List (Nat × Nat) :=
  if field e 4 1 ≠ 1 then []
  else
    let a := field e 16 8
    if holdHave f d x [(a, 16)] = false ∨ holdPoisoned f d x [(a, 16)] then [(a, 16)]
    else
      let n := min 65535 (field (holdRead f d x a 16) 4 4)
      [(a, 16), (a, planeX n), ((d.holder x).blk 32 8 + 256 * field e 24 2, 256)]

/-- Take the next post when it is of a row's KIND; an invalid one stops service to the holder (R360).  `g` is given the state
before what has been read is spent. -/
def takePost (f : Fuses) (d : Dev) (x kind : Nat) (g : Dev → Dev → List Byte → Dev) : Dev :=
  if polls f d x = false then d
  else if holdHave f d x [postRange d x] = false then holdAsk f d x [postRange d x]
  else match nextPost f d x with
  | none => holdUsed f d x [postRange d x]
  | some e =>
    if postOk f d x e = false then
      eventAll f ((holdUsed f d x [postRange d x]).modHolder x (fun h => { h with state := .fault })) Status.postInvalid x
    else if field e 4 1 ≠ kind then d
    else if holdHave f d x (postNeeds f d x e) = false then holdAsk f d x (postNeeds f d x e)
    else
      let u := (holdUsed f d x (postRange d x :: postNeeds f d x e)).moved (362 + (d.holder x).port) 1
      g d (u.modHolder x (fun h => { h with nextPost := (h.nextPost + 1) % 2 ^ 32,
                                            state := if h.state = .formed then .running else h.state })) e

/-- A poisoned line fails a segment (R224, R362): MEM_UE against the holder, and nothing more of it is sent. -/
def failSegment (f : Fuses) (d : Dev) (x r g : Nat) : Dev :=
  let sel := fun (y : Dgram) => y.typ == 0 && y.round == r && y.seg == g
  let d := d.modHolder x (fun h => { h.modRound r (fun y => { y with segs := y.segs.del g }) with
    queue := h.queue.filter (fun y => !sel y) })
  let d : Dev := { d with lh := d.lh.map (fun q => (q.1, { q.2 with kept := q.2.kept.filter (fun k => !(k.x == x && sel k.dg)) })) }
  eventAll f d Status.memUe x

/-- SEGMENT (R360, R362, R363): the plane's index and the codebook entry are read, and the stream's datagrams join the
queue of every present rank. -/
def segmentRow (x : Nat) (f : Fuses) (d : Dev) : Dev :=
  takePost f d x 1 (fun d0 d e =>
    let (r, g, a) := (field e 8 4, field e 12 2, field e 16 8)
    let d := d.modHolder x (fun h => h.modRound r (fun y => { y with posted := y.posted ++ [g] }))
    if holdPoisoned f d0 x (postNeeds f d0 x e) then failSegment f d x r g
    else
      let n := min 65535 (field (holdRead f d0 x a 16) 4 4)
      let idx := holdRead f d0 x a (planeX n)
      let len := 256 + field idx (16 + 4 * n) 4
      let bk := holdRead f d0 x ((d0.holder x).blk 32 8 + 256 * field e 24 2) 256
      let d := d.modHolder x (fun h => h.modRound r (fun y => { y with segs := y.segs.put g { plane := a, len := len, book := bk, idx := idx } }))
      if ((d.holder x).round_ r).admitted.isSome then d
      else (otherPresent f d x).foldl (fun d j => (streamDgrams f d 0 j r g len).foldl (fun d g => push d x g) d) d)

/-- ROUND_END (R360, R361, R367, R379): the round's END is sent; a round admitted before it is applied without one. -/
def roundEndRow (x : Nat) (f : Fuses) (d : Dev) : Dev :=
  takePost f d x 2 (fun _ d e =>
    let (r, n) := (field e 8 4, field e 14 2)
    let d := d.modHolder x (fun h => h.modRound r (fun y => { y with ended := some n }))
    let h := d.holder x
    if (h.round_ r).admitted.isSome then applyAll f d x
    else
      let d := (otherPresent f d x).foldl (fun d j => (List.range (endParts n)).foldl (fun d p =>
        pushCtl d x j 1 r 0xFFFF p (endPart h r n p)) d) d
      haveChanged f d x r)

/-- The slot set of a round may be written: the round that used it has been released, or precedes ROUND0 (R361). -/
def setFree (f : Fuses) (d : Dev) (x r : Nat) : Bool :=
  let back := 1 + obj f d 0x5000 1
  let r0 := obj f d 0x5000 0x0B
  decide (r < r0 + back) || (d.holder x).released.contains (r - back)

/-- A decoded segment goes into the slot of its rank (R358, R375). -/
def writeSlot (f : Fuses) (d : Dev) (x j r g : Nat) (src : List Byte) : Dev :=
  let h := d.holder x
  let d := (holdWrite f d x (slotAddr f d x j r + segOffset h g) src).moved (362 + h.port) 1
  haveChanged f (d.modHolder x (fun h => h.modContrib r j (fun c =>
    { c with segs := c.segs.del g, written := c.written ++ [g] }))) x r

/-- Write a decoded segment that waits, when its set is free and the write is accepted. -/
def flushSlot (f : Fuses) (d : Dev) (x j r g : Nat) : Dev :=
  match SMap.find? ((d.holder x).contrib r j).segs g with
  | none => d
  | some s =>
    match s.decoded with
    | none => d
    | some src =>
      if setFree f d x r && holdReady f d x (slotAddr f d x j r + segOffset (d.holder x) g) src.length then
        writeSlot f d x j r g src
      else d

/-- RELEASE (R361, R384): the slot set is free for later rounds, and a donor's state stream can go. -/
def releaseRow (x : Nat) (f : Fuses) (d : Dev) : Dev :=
  takePost f d x 3 (fun _ d e =>
    let r := field e 8 4
    let d := d.modHolder x (fun h => { h with released := r :: h.released })
    let h := d.holder x
    let wait := (h.rounds.map (fun q => (q.2.recv.map (fun c => c.2.segs.map (fun s => (q.1, c.1, s.1)))).flatten)).flatten
    let d := wait.foldl (fun d w => flushSlot f d x w.2.1 w.1 w.2.2) d
    (h.donating.filter (fun q => decide (q.2 = (r + 1) % 2 ^ 32))).foldl (fun d q =>
      (streamDgrams f d 8 q.1 q.2 0 (stateLen (d.holder x))).foldl (fun d g => push d x g) d) d)

/-! ## Egress (R364, R370 to R372) -/

/-- Bytes of a frame with a payload of `n` (R364). -/
def frameBytes (f : Fuses) (d : Dev) (p n : Nat) : Nat :=
  (if bit (obj f d (0x5010 + p) 3) 15 then 134 else 130) + n

/-- Destinations a port serves: 64 x + rank (R372). -/
def destsOf (f : Fuses) (d : Dev) (p : Nat) : List Nat :=
  ((d.holders.filter (fun q => q.2.port == p && q.2.state != .unformed)).map (fun q =>
    ((List.range (igSize f d)).filter (· ≠ ownRank f d)).map (fun j => 64 * q.1 + j))).flatten

/-- The next datagram for a destination (R372). -/
def headFor (d : Dev) (k : Nat) : Option Dgram := (d.holder (k / 64)).queue.find? (fun g => g.rank == k % 64)

/-- Payload bytes a datagram will carry. -/
def dgramSize (f : Fuses) (d : Dev) (g : Dgram) : Nat := if g.typ = 0 ∨ g.typ = 8 then igSlice f d else g.payload.length

/-- A destination can be served now (R227, R372, R387): it has a datagram, its key is loaded, and a new datagram finds room in
its share of the retention buffer; a port whose nonces are used up sends nothing until it is given others (R371; log
entry 85). -/
def canSend (f : Fuses) (d : Dev) (p k : Nat) : Bool :=
  match headFor d k with
  | none => false
  | some g =>
    let slot := obj f d 0x5030 (k % 64)
    let share := usableLen f d (3 - p) / max 1 (destsOf f d p).length
    let used := (((d.lhPort p).kept.filter (fun q => q.x == k / 64 && q.dg.rank == k % 64)).map (fun q => q.frame.length)).sum
    slot != 0 && (slotKey d slot).isSome && (SMap.find? d.igPeers (256 * (k % 64) + k / 64)).isSome &&
      !((d.lhPort p).exhausted && obj f d (0x5010 + p) 9 == 2 ^ 64 - 1) && (g.again.isSome || decide (used + frameBytes f d p (dgramSize f d g) ≤ share))

/-- The destination whose turn it is (R372). -/
def nextDest (f : Fuses) (d : Dev) (p : Nat) : Option Nat :=
  let l := (destsOf f d p).filter (canSend f d p)
  match l.find? (fun k => decide ((d.lhPort p).last < k)) with
  | some k => some k
  | none => l.head?

/-- A datagram's request at a long-haul egress (R509): control datagrams, then data datagrams; none is privileged. -/
def lhAsk (g : Dgram) : Ask := { kind := if g.typ = 0 ∨ g.typ = 8 then 1 else 0, stamp := g.stamp }

/-- A frame leaves a port on its group's sub-link, and is counted (R364, R389). -/
def sendFrame (d : Dev) (p group : Nat) (q : Ask) (fr : List Byte) : Dev :=
  (((d.bump (0x5010 + p) 0x10 64 1).moved (358 + p) 1).grant (0x5000 + 2 * p + group % 2) q).emit (.longHaul (2 * p + group % 2) fr)

/-- The nonce of the next datagram is used (R371). -/
def useNonce (f : Fuses) (d : Dev) (p x : Nat) : Dev :=
  let n := obj f d (0x5010 + p) 9
  if n = 2 ^ 64 - 1 then eventAll f (d.modLh p (fun q => { q with exhausted := true })) Status.nonceExhausted x
  else (d.modLh p (fun q => { q with exhausted := false })).setObj (0x5010 + p) 9 (n + 1)

/-- A datagram that is built is kept until it is acknowledged or its round is admitted (R372). -/
def keeps (d : Dev) (x : Nat) (g : Dgram) : Bool :=
  g.typ == 8 || (!roundBefore g.round (d.holder x).openRound && ((d.holder x).round_ g.round).admitted.isNone)

/-- The header of a datagram as its port builds it (R365). -/
def buildHdr (f : Fuses) (d : Dev) (p x : Nat) (g : Dgram) (n : Nat) : IgHdr :=
  let org := holderDev f d x
  { typ := g.typ, flags := (if decide (g.typ = 0 ∨ g.typ = 8) && decide (g.k ≤ g.index) then 1 else 0) + (if org = devAddr f d then 0 else 2),
    src := devAddr f d, dst := field (SMap.get [] d.igPeers (256 * g.rank + x)) 2 2, origin := org, epoch := g.epoch,
    round := g.round, seg := g.seg, group := g.group, index := g.index, k := g.k, p := g.p, len := g.len, plen := n,
    prefix_ := obj f d (0x5010 + p) 8, seq := obj f d (0x5010 + p) 9 }

/-- A new datagram is built, encrypted, kept and sent (R364, R370 to R372). -/
def buildFrame (f : Fuses) (d0 d : Dev) (p x : Nat) (g : Dgram) (mismatch : Bool) : Dev :=
  let key := (slotKey d (obj f d 0x5030 g.rank)).getD []
  let pl := dgramPayload f d0 x g
  let h := buildHdr f d p x g pl.length
  let hb := h.toBytes
  let (ct, tag) := gcmSeal key (slice hb 36 12) hb pl
  let fr := lhFrame f d p (SMap.get [] d.igPeers (256 * g.rank + x)) h ct tag
  let d := useNonce f (busTurn d p (unitAsk g.stamp)) p x
  let mismatch := mismatch || d.vault.clash
  let d : Dev := { d with vault := { d.vault with clash := false } }
  let d := ((d.bump 0x6000 (cipherCtr p 0) 64 1).bump 0x6000 (cipherCtr p 1) 64 pl.length).moved (360 + p) 1
  if mismatch then d.bump 0x6000 (cipherCtr p 2) 32 1
  else sendFrame (if keeps d x g then d.modLh p (fun q => { q with kept := q.kept ++ [⟨x, g, fr⟩] }) else d) p g.group (lhAsk g) fr

/-- LH_EGRESS (R364, R370 to R372): one datagram of the next destination is built, encrypted, kept and sent, or sent
again from retention.  What it reads is read first; a poisoned line fails its segment, or ends the state stream (R362; log
entry 87).  `mismatch` says that the cipher's datapaths disagreed (R406, R407). -/
def lhEgress (p : Nat) (mismatch : Bool) (f : Fuses) (d : Dev) : Dev :=
  if lhUp f d p = false ∨ unitInReset d (igUnit p) ∨ cipherFree d p = false then d
  else match nextDest f d p with
    | none => d
    | some k =>
      match headFor d k with
      | none => d
      | some g =>
        let x := k / 64
        let rs := if g.again.isSome then [] else dgramRanges f d x g
        if d.frozen (0x5000 + 2 * p + g.group % 2) ∨ (g.again.isNone ∧ d.frozen (vaultBus p)) then d
        else if holdHave f d x rs = false then holdAsk f d x rs
        else
          let e := (holdUsed f (d.modLh p (fun q => { q with last := k })) x rs).modHolder x (fun h => { h with queue := h.queue.erase g })
          match g.again with
          | some fr => sendFrame e p g.group (lhAsk g) fr
          | none =>
            if holdPoisoned f d x rs then
              if g.typ = 8 then
                let e := e.modHolder x (fun h =>
                  { h with donating := h.donating.del g.rank, queue := h.queue.filter (fun y => !(y.typ == 8 && y.rank == g.rank)) })
                eventAll f e Status.memUe x
              else failSegment f e x g.round g.seg
            else if g.typ = 0 ∧ (SMap.find? ((d.holder x).round_ g.round).segs g.seg).isNone then e
            else buildFrame f d e p x g mismatch

/-! ## Datagrams (R366, R367, R372 to R375, R380 to R385) -/

/-- The operation of bulk codec engine 1 that decodes a segment (R254, R375). -/
def segOp (d : Dev) (x j r g : Nat) : CodeOp :=
  { core := 4096, stroke := 0, op := 2, srcMem := false, src := 0, dstMem := false, dst := 0, recMem := false, recAt := 0,
    mapMem := false, mapAt := 0, len := segSectors (d.holder x) g, book := 0, sig := none, stamp := d.stampNow, seg := some (x, j, r, g) }

/-- The key of the codec engine that serves a holder's Intaglio engine (R254, R375). -/
def segEngine (d : Dev) (x : Nat) : Nat := 2 * igTile (d.holder x) + 1

/-- The engine holds the decode of a segment. -/
def engineHas (e : CodecEngine) (k : Nat × Nat × Nat × Nat) : Bool :=
  e.queue.any (fun o => o.seg == some k) || (match e.run with | some r => r.op.seg == some k | none => false)

/-- A segment whose groups are all recovered joins the queue of the tile's codec engine, when it has room (R254, R375). -/
def offerSegment (f : Fuses) (d : Dev) (x j r g : Nat) : Dev :=
  match SMap.find? ((d.holder x).contrib r j).segs g with
  | none => d
  | some s =>
    let key := segEngine d x
    let e := d.engine key
    if s.decoded.isSome ∨ streamComplete f d s = false ∨ e.accepts = false ∨ engineHas e (x, j, r, g) then d
    else d.setEngine key { e with queue := e.queue ++ [segOp d x j r g] }

/-- Decodes of a holder's segments leave an engine. -/
def dropOps (d : Dev) (key x : Nat) : Dev :=
  let mine := fun (o : CodeOp) => match o.seg with | some q => q.1 == x | none => false
  let e := d.engine key
  d.setEngine key { e with queue := e.queue.filter (fun o => !mine o), run := e.run.filter (fun r => !mine r.op) }

/-- IG_SEG (R366, R370, R374, R375). -/
def igSeg (p : Nat) (fr : List Byte) (f : Fuses) (d : Dev) : Dev :=
  igReceive p fr 0 f d (fun d h x j l => inWindowIg p d h x j (fun d =>
    let c := (d.holder x).contrib h.round j
    if c.abandoned ∨ c.written.contains h.seg then d
    else
      match (match SMap.find? c.segs h.seg with | some s => some s | none => newStream f d p h.len) with
      | none => d.bump (0x5010 + p) 0x18 64 1
      | some s =>
        if s.decoded.isSome then d
        else
          let (d, s) := storeSlice p f d s h l
          offerSegment f (d.modHolder x (fun o => o.modContrib h.round j (fun c => { c with segs := c.segs.put h.seg s }))) x j h.round h.seg))

/-- A part of an END keeps R367 and agrees with the parts that have arrived. -/
def endPartOk (c : Contrib) (h : IgHdr) (l : List Byte) : Bool :=
  let n := field l 0 2
  let count := field l 4 2
  decide (h.seg = 0xFFFF) && decide (h.group < endParts n) && decide (field l 2 2 = 2046 * h.group) &&
    decide (count = min 2046 (n - 2046 * h.group)) && decide (l.length = 8 + 4 * count) && decide (field l 6 2 = 0) &&
    (match c.nseg with | some m => decide (m = n) | none => true)

/-- IG_END (R367, R377). -/
def igEnd (p : Nat) (fr : List Byte) (f : Fuses) (d : Dev) : Dev :=
  igReceive p fr 1 f d (fun d h x j l => inWindowIg p d h x j (fun d =>
    if endPartOk ((d.holder x).contrib h.round j) h l = false then d.bump (0x5010 + p) 0x12 64 1
    else
      let lens := (pieces 4 (field l 4 2) (l.drop 8)).map leNat
      let d := d.modHolder x (fun o => o.modContrib h.round j (fun c =>
        { c with nseg := some (field l 0 2), parts := c.parts.put h.group lens }))
      haveChanged f (pushCtl d x j 2 h.round 0xFFFF h.group []) x h.round))

/-- Retention and queued datagrams of a segment or an END part are released (R372, R373). -/
def releaseKept (d : Dev) (x : Nat) (sel : Dgram → Bool) : Dev :=
  let d := d.modHolder x (fun h => { h with queue := h.queue.filter (fun g => !sel g) })
  { d with lh := d.lh.map (fun q => (q.1, { q.2 with kept := q.2.kept.filter (fun k => !(k.x == x && sel k.dg)) })) }

/-- IG_ACK (R367, R372, R373). -/
def igAck (p : Nat) (fr : List Byte) (f : Fuses) (d : Dev) : Dev :=
  igReceive p fr 2 f d (fun d h x j _ =>
    if SMap.find? (d.holder x).donating j = some h.round ∧ h.seg = 0 then
      (releaseKept d x (fun g => g.typ == 8 && g.rank == j)).modHolder x (fun o => { o with donating := o.donating.del j })
    else inWindowIg p d h x j (fun d =>
      let isEnd := h.seg == 0xFFFF
      let d := d.modHolder x (fun o => o.modRound h.round (fun y =>
        if isEnd then { y with endAcks := (j, h.group) :: y.endAcks } else { y with segAcks := (j, h.seg) :: y.segAcks }))
      releaseKept d x (fun g => g.rank == j && g.round == h.round &&
        (if isEnd then g.typ == 1 && g.group == h.group else g.typ == 0 && g.seg == h.seg))))

/-- Send a datagram again: from retention, or built again (R371, R373), as the second part says, 1 or 2; 0 for one that is still to
be sent (log entry 82). -/
def resend (d : Dev) (p x : Nat) (g : Dgram) : Dev × Nat :=
  if (d.holder x).queue.any (fun y => y.same g) then (d, 0) else
  match (d.lhPort p).kept.find? (fun k => k.x == x && k.dg.same g) with
  | some k => (push d x { g with again := some k.frame }, 1)
  | none => (push d x g, 2)

/-- A datagram that a NAK asks for (R373): RESENT and REBUILT count the two cases. -/
def resendNak (d : Dev) (p x : Nat) (g : Dgram) : Dev :=
  let (d, how) := resend d p x g
  if how = 0 then d else d.bump (0x5010 + p) (0x13 + how) 64 1

/-- IG_NAK (R373): the lowest-numbered datagrams missing from the map, K less the number received. -/
def igNak (p : Nat) (fr : List Byte) (f : Fuses) (d : Dev) : Dev :=
  igReceive p fr 3 f d (fun d h x j l =>
    let map := leNat (slice l 0 32)
    let again := fun (d : Dev) (typ len : Nat) =>
      if h.group ≥ groupCount f d len then d
      else
        let k := groupK f d len h.group
        let n := k + igP f d
        let missing := (List.range n).filter (fun i => !map.testBit i)
        (missing.take (k - (n - missing.length))).foldl (fun d i =>
          let g : Dgram := { typ := typ, rank := j, round := h.round, seg := h.seg, group := h.group, index := i, k := k, p := igP f d, len := len }
          resendNak d p x g) d
    if SMap.find? (d.holder x).donating j = some h.round ∧ h.seg = 0 then again d 8 (stateLen (d.holder x))
    else inWindowIg p d h x j (fun d =>
      match SMap.find? ((d.holder x).round_ h.round).segs h.seg with
      | none => d
      | some s => again d 0 s.len))

/-- IG_REPORT (R377, R378): a present rank's report. -/
def igReport (p : Nat) (fr : List Byte) (f : Fuses) (d : Dev) : Dev :=
  igReceive p fr 4 f d (fun d h x j l => inWindowIg p d h x j (fun d =>
    if (d.holder x).present.testBit j = false then d
    else decide_ f (d.modHolder x (fun o => o.modRound h.round (fun y => { y with reports := y.reports.put j (field l 0 8) }))) x h.round))

/-- IG_ADMIT (R379, R380). -/
def igAdmit (p : Nat) (fr : List Byte) (f : Fuses) (d : Dev) : Dev :=
  igReceive p fr 5 f d (fun d h x j l => inWindowIg p d h x j (fun d =>
    if j = (d.holder x).coord then takeAdmit f d x h.round (field l 0 8) h.epoch else d))

/-- IG_COMMIT (R381, R384). -/
def igCommit (p : Nat) (fr : List Byte) (f : Fuses) (d : Dev) : Dev :=
  igReceive p fr 6 f d (fun d _ x j l =>
    let o := d.holder x
    let c : IgCommit := { epoch := field l 0 2, from_ := field l 4 4, present := field l 8 8, joiner := field l 16 1, sender := j }
    let mine := decide (o.state = .joining ∧ o.joinFrom = none ∧ c.joiner = ownRank f d)
    if o.live = false ∨ (newer16 c.epoch o.latest.1 = false ∧ mine = false) then d
    else
      let d := takeCommit f d x c
      haveChanged f d x (d.holder x).round)

/-- IG_KEEPALIVE (R366, R381). -/
def igKeepalive (p : Nat) (fr : List Byte) (f : Fuses) (d : Dev) : Dev := igReceive p fr 7 f d (fun d _ _ _ _ => d)

/-- IG_STATE (R384, R385). -/
def igState (p : Nat) (fr : List Byte) (f : Fuses) (d : Dev) : Dev :=
  igReceive p fr 8 f d (fun d h x _ l =>
    let o := d.holder x
    if o.state ≠ .joining ∨ o.joinFrom ≠ some h.round then d
    else
      match (match o.joinRecv with | some s => some s | none => newStream f d p h.len) with
      | none => d.bump (0x5010 + p) 0x18 64 1
      | some s =>
        let (d, s) := storeSlice p f d s h l
        d.modHolder x (fun o => { o with joinRecv := some s }))

/-- JOIN (R384): the group will be enlarged at the next ADMIT; a rank that is not coordinator remembers it, should it become so
(log entry 83). -/
def joinRow (p : Nat) (fr : List Byte) (f : Fuses) (d : Dev) : Dev :=
  igReceive p fr 9 f d (fun d _ x j _ =>
    let o := d.holder x
    if o.live ∧ o.present.testBit j = false ∧ o.joiners.contains j = false then
      d.modHolder x (fun o => { o with joiners := o.joiners ++ [j] })
    else d)

/-! ## Completions (R375, R385) -/

/-- Where the entry of codebook `b` lies in the job context's table (R241, R375). -/
def bookRuns (f : Fuses) (d : Dev) (b : Nat) : Option (List (Nat × Nat)) :=
  let g := jobCtx d
  if b ≥ obj f d (ctxIdx g 0xB010) 1 then none else ctxRuns d g true (obj f d (ctxIdx g 0xB010) 0 + 256 * b) 256

/-- The decode of a segment can begin: engine 1 of the tile is not in reset, and the codebook entry can be written. -/
def bookReady (f : Fuses) (d : Dev) (x b : Nat) : Bool :=
  !unitInReset d (0x3001 + 256 * igTile (d.holder x)) &&
    (match bookRuns f d b with
    | some rs => rs.all (writeReady f d (igWho d x))
    | none => true)

/-- The stream's codebook entry goes into the job context's table (R375). -/
def putBook (f : Fuses) (d : Dev) (x b : Nat) (e : List Byte) : Dev :=
  match bookRuns f d b with
  | some rs => writeRuns f d (igWho d x) rs e
  | none => d

/-- The codebook check of a received stream's entry (R240). -/
def streamBook (f : Fuses) (d : Dev) (b : Nat) (e : List Byte) : Nat → Except Nat Book :=
  fun i => if i = b ∧ (bookRuns f d b).isSome then checkBook b e else .error Status.bookInvalid

/-- Bulk codec engine 1 of the holder's tile counts a decode (R261, R375). -/
def countDecode (d : Dev) (x : Nat) (o : DecodeOut) : Dev :=
  let t := igTile (d.holder x)
  let bad := (o.sectors.filter Option.isNone).length
  let good := o.sectors.length - bad
  let d := d.moved (288 + 2 * t + 1) o.sectors.length
  [(3, good), (4, bad), (5, if o.indexFail then 1 else 0), (6, o.found), (7, o.falseMarks)].foldl
    (fun d p => d.bump (0xB020 + t) (16 + p.1) (if p.1 = 5 then 32 else 64) p.2) d

/-- A NAK for a group (R373): a group's first one counts in GROUPS_NAKED (R389). -/
def nakGroup (d : Dev) (x j r g i map : Nat) : Dev :=
  let new := !((d.holder x).contrib r j).naked.contains (g, i)
  let d := if new then (d.modHolder x (fun h => h.modContrib r j (fun c => { c with naked := (g, i) :: c.naked }))).bump
      (0x5010 + (d.holder x).port) 0x17 64 1 else d
  pushCtl d x j 3 r g i (leBytes 32 map)

/-- A decode that reports damage (R375): the segment is dropped whole and NAKed in full, and after three the contribution is
abandoned. -/
def damagedSegment (f : Fuses) (d : Dev) (x j r g len : Nat) : Dev :=
  let k := SMap.get 0 ((d.holder x).contrib r j).damaged g + 1
  let d := d.modHolder x (fun h => h.modContrib r j (fun c =>
    { c with segs := c.segs.del g, damaged := c.damaged.put g k, abandoned := c.abandoned || decide (k ≥ 3) }))
  if k ≥ 3 then d else (List.range (groupCount f d len)).foldl (fun d i => nakGroup d x j r g i 0) d

/-- The engine is at an operation: it runs it, or it runs none and holds it first. -/
def engineAt (e : CodecEngine) (k : Nat × Nat × Nat × Nat) : Bool :=
  match e.run with
  | some r => r.op.seg == some k
  | none => match e.queue with | o :: _ => o.seg == some k | [] => false

/-- SEGMENT_COMPLETE (R254, R361, R373, R375): bulk codec engine 1 comes to a segment whose groups are all recovered: its codebook
entry is written, its plane decoded, and its bytes go to the slot.  A plane with another SECBASE, or whose intake has gone bad,
counts as damaged (log entry 77). -/
def segmentComplete (x j r g : Nat) (f : Fuses) (d : Dev) : Dev :=
  match SMap.find? ((d.holder x).contrib r j).segs g with
  | none => d
  | some s =>
    let key := segEngine d x
    if s.decoded.isSome then flushSlot f d x j r g
    else if engineAt (d.engine key) (x, j, r, g) = false then offerSegment f d x j r g
    else
      let h := d.holder x
      let b := igBook f d x j r
      let w := intakeWho d s.port
      if bookReady f d x b = false ∨ (streamLines f d s).all (runReady f d w) = false then d
      else
        let stream := recoverStream f d s
        let entry := slice stream 0 256
        let plane := stream.drop 256
        let bad := !(poisonedIn f d (streamLines f d s)).isEmpty
        let o := decodePlane (streamBook f d b entry) (fun _ _ => none) plane (segSectors h g)
        let e := d.engine key
        let d := d.setEngine key (if e.run.isSome then { e with run := none } else { e with queue := e.queue.drop 1 })
        let d := countDecode (putBook f (noteRead f d w (streamLines f d s)) x b entry) x o
        if o.status = 0 ∧ field plane 0 4 = igSecbase r g ∧ bad = false then
          let src := (o.sectors.map (fun q => q.getD [])).flatten
          let d := d.modHolder x (fun h => h.modContrib r j (fun c => { c with segs := c.segs.put g { s with decoded := some src } }))
          flushSlot f (pushCtl d x j 2 r g 0 []) x j r g
        else damagedSegment f d x j r g s.len

/-- STATE_STREAM_COMPLETE (R385). -/
def stateStreamComplete (x : Nat) (f : Fuses) (d : Dev) : Dev :=
  let h := d.holder x
  match h.joinRecv with
  | none => d
  | some s =>
    let n := h.blk 64 8
    let w := intakeWho d s.port
    if h.state ≠ .joining ∨ streamComplete f d s = false ∨ (streamLines f d s).all (runReady f d w) = false ∨
        holdReady f d x (h.blk 48 8) (2 * n) = false ∨ holdReady f d x (h.blk 56 8) (n + n / 32) = false then d
    else
      let l := recoverStream f d s
      let d := noteRead f d w (streamLines f d s)
      let d := holdWrite f d x (h.blk 48 8) (slice l 0 (2 * n))
      let d := holdWrite f d x (h.blk 56 8) (slice l (2 * n) (n + n / 32))
      let d := pushCtl d x h.coord 2 (h.joinFrom.getD 0) 0 0 []
      let d := igToken f d x (h.blk 94 1)
      let d := d.modHolder x (fun h => { h with state := .running, joinRecv := none, joinNaked := [] })
      endJoin f (eventAll f d Status.igJoined x) x 0

/-! ## Timers (R366, R373, R377, R378, R381) -/

/-- Group `i` of a stream under receipt is incomplete and due for a NAK once NAK_WAIT_US has passed (R373): a datagram of a later
group has arrived, or it is the last group and one of its own has, or it has been NAKed before. -/
def nakDue (f : Fuses) (d : Dev) (s : RecvSeg) (i : Nat) (before : Bool) : Bool :=
  let n := groupCount f d s.len
  let mine := SMap.get [] s.groups i
  decide (i < n) && decide (mine.length < groupK f d s.len i) && s.decoded.isNone &&
    (before || s.groups.any (fun q => decide (q.1 > i) && !q.2.isEmpty) || (decide (i + 1 = n) && !mine.isEmpty))

/-- The map of the datagrams of a group that have arrived (R366). -/
def heldMap (s : RecvSeg) (i : Nat) : Nat := ((SMap.get [] s.groups i).map (fun q => 2 ^ q.1)).sum

/-- NAK_WAIT_EXPIRY (R373): a group of a stream is still incomplete; its NAK goes to the sender.  `st` names the state
stream of a joiner.  A segment that END announces and of which nothing has arrived is NAKed group by group. -/
def nakWaitExpiry (x j r g i : Nat) (st : Bool) (f : Fuses) (d : Dev) : Dev :=
  let h := d.holder x
  if st then
    match h.joinRecv with
    | some s =>
      if h.joinFrom = some r ∧ g = 0 ∧ nakDue f d s i (h.joinNaked.contains i) then
        let d := if h.joinNaked.contains i then d
          else (d.modHolder x (fun h => { h with joinNaked := i :: h.joinNaked })).bump (0x5010 + h.port) 0x17 64 1
        pushCtl d x j 3 r 0 i (leBytes 32 (heldMap s i))
      else d
    | none => d
  else
    let c := h.contrib r j
    if h.live = false ∨ (SMap.find? h.rounds r).isNone ∨ (h.round_ r).admitted.isSome ∨ c.abandoned ∨ c.written.contains g then d
    else
      match SMap.find? c.segs g with
      | some s => if nakDue f d s i (c.naked.contains (g, i)) then nakGroup d x j r g i (heldMap s i) else d
      | none =>
        match SMap.find? c.parts (g / 2046) with
        | some l => if g % 2046 < l.length ∧ i < groupCount f d (l.getD (g % 2046) 0) then nakGroup d x j r g i 0 else d
        | none => d

/-- END_RESEND (R366). -/
def endResend (x j r part : Nat) (_f : Fuses) (d : Dev) : Dev :=
  let h := d.holder x
  let y := h.round_ r
  match y.ended with
  | none => d
  | some n =>
    if h.live = false ∨ y.admitted.isSome ∨ part ≥ endParts n ∨ y.endAcks.contains (j, part) ∨ h.present.testBit j = false then d
    else (resend d h.port x { typ := 1, rank := j, round := r, seg := 0xFFFF, group := part, payload := endPart h r n part }).1

/-- REPORT_DEADLINE (R377): in tolerant mode the holder reports DEADLINE_MS after ROUND_END. -/
def reportDeadline (x r : Nat) (f : Fuses) (d : Dev) : Dev :=
  let h := d.holder x
  let y := h.round_ r
  if h.live = false ∨ obj f d 0x5000 0 ≠ 1 ∨ y.ended = none ∨ y.reported.isSome ∨ y.admitted.isSome then d
  else report f (d.modHolder x (fun h => h.modRound r (fun y => { y with late := true }))) x r

/-- REPORT_RESEND (R377). -/
def reportResend (x r : Nat) (f : Fuses) (d : Dev) : Dev :=
  let h := d.holder x
  let y := h.round_ r
  match y.reported with
  | none => d
  | some m =>
    if h.live = false ∨ y.admitted.isSome then d
    else if h.coord = ownRank f d then
      decide_ f (d.modHolder x (fun h => h.modRound r (fun y => { y with reports := y.reports.put (ownRank f d) m }))) x r
    else (resend d h.port x { typ := 4, rank := h.coord, round := r, payload := leBytes 8 m }).1

/-- ADMIT_WAIT_EXPIRY (R378): the coordinator has waited ADMIT_WAIT_MS past its own deadline. -/
def admitWaitExpiry (x r : Nat) (f : Fuses) (d : Dev) : Dev :=
  let h := d.holder x
  let y := h.round_ r
  if h.live = false ∨ obj f d 0x5000 0 ≠ 1 ∨ y.late = false ∨ h.coord ≠ ownRank f d then d
  else decide_ f (d.modHolder x (fun h => h.modRound r (fun y => { y with waited := true }))) x r

/-- KEEPALIVE_SEND (R366): a second has passed, and every engine sends to each counterpart of each holder it serves. -/
def keepaliveSend (f : Fuses) (d : Dev) : Dev :=
  (d.holders.filter (fun q => q.2.live)).foldl (fun d q =>
    ((List.range (igSize f d)).filter (· ≠ ownRank f d)).foldl (fun d j => pushCtl d q.1 j 7 q.2.round 0 0 []) d) d

/-- LIVENESS_EXPIRY (R381): nothing has been heard from a rank for LIVENESS_MS. -/
def livenessExpiry (x j : Nat) (f : Fuses) (d : Dev) : Dev :=
  let h := d.holder x
  let own := ownRank f d
  if h.live = false ∨ h.present.testBit j = false ∨ j = own then d
  else
    let out := fun (d : Dev) =>
      let d := commitIg f d x ((((bitList 64 h.latest.2).filter (· ≠ j)).map (fun k => 2 ^ k)).sum) 255
      haveChanged f d x (d.holder x).round
    if h.coord = own then out d
    else if h.coord = j then
      let next := ((bitList 64 h.present).filter (fun k => decide (k > j)) ++ bitList 64 h.present).headD own
      let d := d.modHolder x (fun h => { h with coord := next })
      if next = own then out d else d
    else d

/-! ## Ports (R386) -/

/-- A holder goes from port `p` to the other port's engine: what it had received in part and its retention are lost, and its block
is read again (R386, R580). -/
def moveHolder (f : Fuses) (p : Nat) (d : Dev) (x : Nat) : Dev :=
  let d := dropOps d (segEngine d x) x
  let keep := fun (s : RecvSeg) => if s.decoded.isSome then some { s with place := [] } else if s.port = p then none else some s
  let d := d.modHolder x (fun h => { h with
    port := 1 - p, blockDue := true, queue := h.queue.map (fun g => { g with again := none }),
    joinRecv := h.joinRecv.bind keep,
    rounds := h.rounds.map (fun r => (r.1, { r.2 with recv := r.2.recv.map (fun c =>
      (c.1, { c.2 with segs := c.2.segs.filterMap (fun s => (keep s.2).map (fun y => (s.1, y))) })) })) })
  rereadBlock f (eventAll f d Status.lhFailover x) x

/-- The holders of a port that is DOWN move to the other port's engine where that is UP (R386); retention on the port is lost. -/
def moveHolders (f : Fuses) (d : Dev) (p : Nat) : Dev :=
  let xs := (d.holders.filter (fun o => o.2.port == p && o.2.state != .unformed)).map Prod.fst
  let d := d.modLh p (fun l => { l with kept := [] })
  if lhUp f d (1 - p) = false then d else xs.foldl (moveHolder f p) d

/-- LH_PORT_DOWN (R386): a sub-link of the port reports link down. -/
def lhPortDown (p : Nat) (f : Fuses) (d : Dev) : Dev :=
  if f.longHaul = false ∨ p > 1 ∨ (d.lhPort p).up = false then d
  else moveHolders f (d.modLh p (fun l => { l with up := false })) p

/-- Holders that a DOWN port still has go to the other port where that is UP (R386). -/
def settlePorts (f : Fuses) (d : Dev) : Dev :=
  [0, 1].foldl (fun d p =>
    if lhUp f d p = false ∧ lhUp f d (1 - p) ∧ d.holders.any (fun o => o.2.port == p && o.2.state != .unformed) then moveHolders f d p
    else d) d

/-- LH_PORT_UP (R386): the port's sub-links are up; holders that no UP port serves go to it, and its own return at the next
ADMIT. -/
def lhPortUp (p : Nat) (f : Fuses) (d : Dev) : Dev :=
  if f.longHaul = false ∨ p > 1 ∨ (d.lhPort p).up then d else settlePorts f (d.modLh p (fun l => { l with up := true }))

/-- PORT_ENABLE of a long-haul port is written (R386, R389). -/
def lhPortEnable (f : Fuses) (d : Dev) (p v : Nat) : Dev :=
  let was := lhUp f d p
  let d := d.setObj (0x5010 + p) 0x0C v
  if was ∧ v = 0 then moveHolders f d p else settlePorts f d

/-- A long-haul port is reset: its sub-links go down, its retention is lost, its counters are cleared (R389, R580); nonces that
have been used stay used (R371). -/
def lhReset (f : Fuses) (d : Dev) (p : Nat) : Dev :=
  let d := moveHolders f (d.modLh p (fun l => { l with up := false, kept := [], held := [] })) p
  d.clearObjs (0x5010 + p) 0x10 0x19

/-- An Intaglio engine is reset: its holders are served by the other engine, its port's intake is cleared (R580). -/
def igEngineReset (f : Fuses) (d : Dev) (p : Nat) : Dev :=
  let xs := (d.holders.filter (fun o => o.2.port == p)).map Prod.fst
  let d := xs.foldl (fun d x => dropOps d (segEngine d x) x) d
  let d := { d with holders := d.holders.map (fun o => (o.1, if o.2.port = p then { o.2 with
      joinRecv := none,
      rounds := o.2.rounds.map (fun r => (r.1, { r.2 with recv := r.2.recv.map (fun c => (c.1, { c.2 with segs := [] })) })) }
    else o.2)) }
  moveHolders f d p

/-- Every segment a holder has under receipt: round, rank and segment. -/
def Holder.waiting (h : Holder) : List (Nat × Nat × Nat) :=
  (h.rounds.map (fun q => (q.2.recv.map (fun c => c.2.segs.map (fun s => (q.1, c.1, s.1)))).flatten)).flatten

/-- Slices of a segment that wait go into the intake. -/
def putWaiting (f : Fuses) (x : Nat) (d : Dev) (w : Nat × Nat × Nat) : Dev :=
  match SMap.find? ((d.holder x).contrib w.1 w.2.1).segs w.2.2 with
  | none => d
  | some s =>
    if s.decoded.isSome then flushSlot f d x w.2.1 w.1 w.2.2
    else
      let (d, s) := putSlices f d s
      offerSegment f (d.modHolder x (fun o => o.modContrib w.1 w.2.1 (fun c => { c with segs := c.segs.put w.2.2 s }))) x w.2.1 w.1 w.2.2

/-- What a holder's engine goes on with by itself: its block, what waits to be written or decoded, and the round it can admit or
apply (R360, R375, R378, R380, R419). -/
def holderGo (f : Fuses) (d : Dev) (x : Nat) : Dev :=
  if (d.holder x).live = false then d
  else
    let d := rereadBlock f d x
    let d := (d.holder x).waiting.foldl (putWaiting f x) d
    let d := match (d.holder x).joinRecv with
      | some s => let (d, s) := putSlices f d s; d.modHolder x (fun o => { o with joinRecv := some s })
      | none => d
    haveChanged f d x (d.holder x).round

/-- A received datagram of a TYPE is handled as its row has it (R366). -/
def igFrame (p : Nat) (f : Fuses) (d : Dev) (q : Nat × List Byte) : Dev :=
  match q.1 with
  | 0 => igSeg p q.2 f d
  | 1 => igEnd p q.2 f d
  | 2 => igAck p q.2 f d
  | 3 => igNak p q.2 f d
  | 4 => igReport p q.2 f d
  | 5 => igAdmit p q.2 f d
  | 6 => igCommit p q.2 f d
  | 7 => igKeepalive p q.2 f d
  | 8 => igState p q.2 f d
  | _ => joinRow p q.2 f d

/-- Frames that waited for the vault bus go on once it is not frozen. -/
def heldFrames (f : Fuses) (d : Dev) (p : Nat) : Dev :=
  if (d.lhPort p).held.isEmpty ∨ d.frozen (vaultBus p) then d
  else (d.lhPort p).held.foldl (igFrame p f) (d.modLh p (fun q => { q with held := [] }))

/-- What the Intaglio engines go on with by themselves (R353, R375 to R380, R386). -/
def igGo (f : Fuses) (d : Dev) : Dev :=
  let d := [0, 1].foldl (heldFrames f) (settlePorts f (igFormGo f d))
  (d.holders.map Prod.fst).foldl (holderGo f) d

end Sys2Proof.Machine
end

