-- ==== Sys2Proof/Machine/Memory.lean ====
section
/-! DEFINITION. External memory: the tile-cache banks, fills, errors and retirement, burnish passes, and controllers
leaving and entering service (R219 to R234). -/

namespace Sys2Proof.Machine

/-! ## Retirement (R226 to R228) -/

/-- A granule is in the retirement list or is being entered in it. -/
def isRetired (d : Dev) (g : Nat) : Bool := d.mem.retired.contains g || d.mem.retiring.contains g

/-- The contexts that map a granule (R227). -/
def mappers (d : Dev) (g : Nat) : List Nat :=
  (d.ctxs.filter (fun p => p.2.maps.any (fun m => decide (m.daddr < 4096 * g + 4096 ∧ 4096 * g < m.daddr + m.len)))).map Prod.fst

/-- A granule is retired (R226 to R228): the state, and the status. -/
def retireGranule (f : Fuses) (d : Dev) (g : Nat) : Dev × Nat :=
  if isRetired d g then (d, 0)
  else if d.mem.retired.length + d.mem.retiring.length ≥ 16384 then
    (cmcEvent (d.log Status.retireFull 3 0 0xFFFF [g]) Status.retireFull g, Status.retireFull)
  else
    let who := mappers d g
    let d := { d with mem := { d.mem with retiring := d.mem.retiring ++ [g],
                                          pending := if who = [] then d.mem.pending else d.mem.pending ++ [g] } }
    if who = [] then (d, 0)
    else (cmcEvent (who.foldl (fun d c => ctxEvent f d c Status.memRetired g) d) Status.memRetired g, 0)

/-- RETIRE_LIST_WRITE (R226): the oldest retired granule that waits is entered in the list in flash. -/
def retireListWrite (_f : Fuses) (d : Dev) : Dev :=
  match d.mem.retiring with
  | g :: rest => { d with mem := { d.mem with retiring := rest, retired := d.mem.retired ++ [g] } }
  | [] => d

/-! ## Errors of the stacks (R224 to R226) -/

/-- The controller unit ID of a stack 2 t + p (R564). -/
def ctlUnit (i : Nat) : Nat := 0x4000 + 256 * (i / 2) + i % 2

def Dev.setStack (d : Dev) (i : Nat) (s : Stack) : Dev := { d with mem := { d.mem with hbm := d.mem.hbm.put i s } }

/-- Corrected errors of a granule's codewords (R224, R226): at CE_LIMIT in one burnish period the granule is
retired. -/
def correctedErrors (f : Fuses) (d : Dev) (g n : Nat) : Dev :=
  if n = 0 then d
  else
    let i := stackIdx f (4096 * g)
    let s := stackOf f d i
    let k := SMap.get 0 s.ces g + n
    let d := (d.setStack i { s with ces := s.ces.put g k }).bump (0x3060 + i / 2) 7 32 n
    if k ≥ obj f d 0x3040 0 then (retireGranule f d g).1 else d

/-- An uncorrectable error of a line in its stack (R224, R226): the line is poisoned, under a cached copy where there
is one, and the granule is retired. -/
def uncorrectable (f : Fuses) (d : Dev) (line : Nat) : Dev :=
  let d := d.bump (0x3060 + homeTile f (256 * line)) 8 32 1
  let d :=
    if resident f d line then { d with mem := { d.mem with hidden := line :: d.mem.hidden.filter (· ≠ line) } }
    else { d with mem := { d.mem with poison := line :: d.mem.poison.filter (· ≠ line) } }
  (retireGranule f d (line / 16)).1

/-- A poisoned line is read (R224): counted, and the granule, the stack slot and TIME go to the error log. -/
def poisonRead (f : Fuses) (d : Dev) (line : Nat) : Dev :=
  (d.bump (0x3060 + homeTile f (256 * line)) 9 32 1).log Status.memUe 1 0 0xFFFF [line / 16, slotOf f (256 * line), d.now]

/-! ## A bank (R220 to R224) -/

/-- A line lies in device memory. -/
def lineExists (f : Fuses) (line : Nat) : Bool := decide (256 * line + 256 ≤ f.extMem)

/-- The write of a request keeps to the line and to units of 16 bytes (R221). -/
def TcWaiter.fits (w : TcWaiter) : Bool :=
  match w.write with
  | some (o, l) => decide (o % 16 = 0 ∧ l.length % 16 = 0 ∧ 0 < l.length ∧ o + l.length ≤ 256)
  | none => true

/-- The write covers the whole line. -/
def TcWaiter.full (w : TcWaiter) : Bool :=
  match w.write with
  | some (_, l) => l.length == 256
  | none => false

/-- A request whose line is in the cache is served: a read is answered over the mesh, a write is merged (R221, R224). -/
def serveLine (f : Fuses) (d : Dev) (line : Nat) (w : TcWaiter) : Dev :=
  match w.write with
  | none =>
    let bad := d.mem.poison.contains line
    let d := if bad then poisonRead f d line else d
    (meshGrant (allocLine f d w.who line false) (homeTile f (256 * line)) w.who.tile w.who.act w.who.stamp).emit
      (.lineReply w.req (readBytes d.mem.bytes (256 * line) 256) bad)
  | some (o, l) =>
    let d := { d with mem := { d.mem with
      bytes := writeBytes d.mem.bytes (256 * line + o) l
      poison := if w.full then d.mem.poison.filter (· ≠ line) else d.mem.poison } }
    allocLine f d w.who line true

/-- A request that needs a stack which has FAILED (R232): a poisoned answer, or a discarded write. -/
def serveFailed (f : Fuses) (d : Dev) (line : Nat) (w : TcWaiter) : Dev :=
  match w.write with
  | none => (poisonRead f d line).emit (.lineReply w.req (zeros 256) true)
  | some _ => d

def Dev.setFills (d : Dev) (b : Nat) (fs : List TcFill) : Dev := { d with mem := { d.mem with fills := SMap.set [] d.mem.fills b fs } }

def Dev.setBankQ (d : Dev) (b : Nat) (q : List (Nat × TcWaiter)) : Dev := { d with mem := { d.mem with banks := SMap.set [] d.mem.banks b q } }

/-- A granted request that misses in a bank whose stack is READY (R221): it joins the line's fill, a write of the whole line
takes effect without one, and any other begins a fill. -/
def missLine (f : Fuses) (d : Dev) (line : Nat) (w : TcWaiter) : Dev :=
  let b := bankKey f line
  let t := homeTile f (256 * line)
  let fs := fillsOf d b
  let d := d.bump (0x3060 + t) 1 64 1
  if fs.any (fun x => x.line == line) then
    let d := d.setFills b (fs.map (fun y => if y.line = line then { y with waiters := y.waiters ++ [w] } else y))
    if w.write.isNone then d.bump (0x3060 + t) 3 64 1 else d
  else if w.full then serveLine f d line w
  else d.setFills b (fs ++ [({ line := line, waiters := [w] } : TcFill)])

/-- An error of the cache's own data (R224): 1 corrected, 2 uncorrectable. -/
def cacheError (f : Fuses) (d : Dev) (line err : Nat) : Dev :=
  let t := homeTile f (256 * line)
  if err = 1 then d.bump (0x3060 + t) 5 32 1
  else if err = 2 then
    let d := d.bump (0x3060 + t) 6 32 1
    { d with mem := { d.mem with poison := line :: d.mem.poison.filter (· ≠ line) } }
  else d

/-- What a bank can do with the request at the head of an activity's share. -/
inductive BankMove where
  /-- grant it: a hit, a line of a FAILED stack, or a miss its fill and its stack have room for -/
  | grant
  /-- it waits for its stack in its share, behind which hits go on (R231) -/
  | toStack
  /-- it is a write to a protected granule, held until the granule is copied (R419) -/
  | toCow
  /-- it stays at the head of its share -/
  | wait
  deriving DecidableEq, Repr

/-- What a bank does with a request at the head of its share (R219, R221, R222, R231, R232, R419).  A line whose fill or whose
stack an earlier request waits for serves no later one first. -/
def bankMove (f : Fuses) (d : Dev) (line : Nat) (w : TcWaiter) : BankMove :=
  let b := bankKey f line
  let queued := (stackOf f d (stackIdx f (256 * line))).waiting.any (fun p => p.1 == line)
  if qshare f d w.who.act = 0 ∨ stackHeld f d b w.who.act ≥ qshare f d w.who.act then .wait
  else if w.write.isSome && granuleHeld d (line / 16) then .toCow
  else if w.write.isSome && d.mem.cowHeld.any (fun p => p.1 == line) then .toCow
  else if resident f d line then .grant
  else match lineStack f d line with
    | .failed => .grant
    | .absent => .wait
    | .ready =>
      if queued then .wait
      else match (fillsOf d b).find? (fun x => x.line == line) with
      | some x => if x.waiters.length < 16 then .grant else .wait
      | none => if w.full || fillRoom f d line w.who.act then .grant else .wait
    | _ => .toStack

/-- A bank's arbiter has granted a request (R221, R222, R232). -/
def bankGrant (f : Fuses) (d : Dev) (line : Nat) (w : TcWaiter) : Dev :=
  let d := (meshGrant d w.who.tile (homeTile f (256 * line)) w.who.act w.who.stamp).grant (bankArb f line) w.who.atBank
  if resident f d line then serveLine f (d.bump (0x3060 + homeTile f (256 * line)) 0 64 1) line w
  else match lineStack f d line with
    | .failed => serveFailed f (d.bump (0x3060 + homeTile f (256 * line)) 1 64 1) line w
    | _ => missLine f d line w

/-- The request at the head of each activity's share (R509). -/
def shareHeads (q : List (Nat × TcWaiter)) : List (Nat × TcWaiter) :=
  (List.range 5).filterMap (fun a => q.find? (fun p => p.2.who.act == a))

/-- The request a bank serves next: the first head that leaves its share without a grant, else the one its arbiter chooses
among those it can serve. -/
def bankNext (f : Fuses) (d : Dev) (b : Nat) : Option ((Nat × TcWaiter) × BankMove) :=
  let hs := (shareHeads (bankQ d b)).map (fun p => (p, bankMove f d p.1 p.2))
  match hs.find? (fun p => p.2 == .toStack || p.2 == .toCow) with
  | some p => some p
  | none =>
    let id := 0x2000 + 256 * (b / 16) + b % 16
    if d.frozen id then none
    else
      let gs := hs.filter (fun p => p.2 == .grant && meshOpen d p.1.2.who.tile (b / 16))
      match d.choose id (gs.map (fun p => p.1.2.who.atBank)) with
      | none => none
      | some q => gs.find? (fun p => p.1.2.who.atBank == q)

/-- Remove the first request of an activity. -/
def dropHead (act : Nat) : List (Nat × TcWaiter) → List (Nat × TcWaiter)
  | [] => []
  | p :: t => if p.2.who.act = act then t else p :: dropHead act t

/-- A bank serves what it can of its shares (R219, R222, R511).  The fuel is the number of requests it holds. -/
def serveBank (f : Fuses) (b : Nat) : Nat → Dev → Dev
  | 0, d => d
  | n + 1, d =>
    match bankNext f d b with
    | none => d
    | some ((line, w), m) =>
      let d := d.setBankQ b (dropHead w.who.act (bankQ d b))
      serveBank f b n (match m with
        | .toStack => let i := stackIdx f (256 * line); d.setStack i { stackOf f d i with waiting := (stackOf f d i).waiting ++ [(line, w)] }
        | .toCow =>
          let d := if d.proof.full.contains (line / 16) then d.bump 0x9020 9 64 1 else d
          { d with mem := { d.mem with cowHeld := d.mem.cowHeld ++ [(line, w)] } }
        | _ => bankGrant f d line w)

/-- The controller port of a stack grants the fills that wait for it (R509, R511), a frozen one none (R515).  The fuel is the
number of fills. -/
def servePort (f : Fuses) (i : Nat) : Nat → Dev → Dev
  | 0, d => d
  | n + 1, d =>
    let id := 0x1000 + 256 * (i / 2) + i % 2
    let fs := (((List.range 16).map (fun k => fillsOf d (16 * (i / 2) + k))).flatten).filter
      (fun x => !x.granted && stackIdx f (256 * x.line) == i)
    let first := fun (x : TcFill) => match x.waiters with
      | w :: _ => w.who.atPort
      | [] => { kind := 0 }
    if d.frozen id then d
    else match d.choose id (fs.map first) with
      | none => d
      | some q => match fs.find? (fun x => first x == q) with
        | none => d
        | some x =>
          let b := bankKey f x.line
          servePort f i n ((d.setFills b ((fillsOf d b).map (fun y => if y.line = x.line then { y with granted := true } else y))).grant id q)

/-- The banks and controllers of the device serve what waits (R219, R511, R514). -/
def serveMemory (f : Fuses) (d : Dev) : Dev :=
  let d := d.mem.banks.foldl (fun d p => serveBank f p.1 p.2.length d) d
  let is := ((d.mem.fills.map (fun p => (p.2.filter (fun x => !x.granted)).map (fun x => stackIdx f (256 * x.line)))).flatten).eraseDups
  is.foldl (fun d i => servePort f i 512 d) d

/-- TC_REQUEST (R221): a requester raises one line access at the line's bank, which serves it when its arbiter grants it.
`err` is an error of the cached copy that shows in the access: 1 corrected, 2 uncorrectable. -/
def tcRequest (req tile act line : Nat) (wr : Option (Nat × List Byte)) (err : Nat) (f : Fuses) (d : Dev) : Dev :=
  let w : TcWaiter := { req := req, who := { tile := tile % 16, act := act, stamp := d.stampNow }, write := wr }
  if lineExists f line = false ∨ w.fits = false ∨ act > 4 then d
  else
    let d := if resident f d line then cacheError f d line err else d
    serveMemory f (d.setBankQ (bankKey f line) (bankQ d (bankKey f line) ++ [(line, w)]))

/-- TC_FILL_COMPLETE (R221, R224, R226): a fill the controller has granted ends, having met `ces` corrected errors or an
uncorrectable one, and its waiters are served in order. -/
def tcFillComplete (line ces : Nat) (ue : Bool) (f : Fuses) (d : Dev) : Dev :=
  let b := bankKey f line
  match (fillsOf d b).find? (fun x => x.line == line && x.granted) with
  | none => d
  | some x =>
    let d := d.moved (320 + stackIdx f (256 * line)) 1
    let d := d.setFills b ((fillsOf d b).filter (fun y => y.line != line))
    let d := correctedErrors f d (line / 16) ces
    let d := if ue then uncorrectable f d line else d
    match x.waiters with
    | [] => d
    | w :: _ => serveMemory f (x.waiters.foldl (fun d w => serveLine f d line w) (allocLine f d w.who line false))

/-! ## Burnish passes (R225) -/

/-- The granule at position `j` of a stack slot (R214). -/
def granuleAt (f : Fuses) (slot j : Nat) : Nat := j * f.hbm + (slot + f.hbm * (j + 1) - j) % f.hbm

/-- Granules of one stack (R234). -/
abbrev stackGranules : Nat := 9437184

/-- The slot of a stack 2 t + p (R213). -/
def slotOfStack (f : Fuses) (i : Nat) : Nat :=
  ((List.range f.hbm).find? (fun k => let (t, p) := slotStack f k; 2 * t + p == i)).getD 0

/-- The lines whose stack copy is poisoned: those without a copy in the cache that carry the mark, and those under one. -/
def poisonedStack (f : Fuses) (d : Dev) : List Nat := d.mem.poison.filter (fun l => !resident f d l) ++ d.mem.hidden

/-- The scrub of one granule: corrected errors, uncorrectable lines found, and lines already poisoned (R224, R225). -/
def scrub (f : Fuses) (d : Dev) (g ces : Nat) (ues : List Nat) : Dev :=
  let d := ((poisonedStack f d).filter (fun l => l / 16 == g)).foldl (poisonRead f) d
  let d := correctedErrors f d g ces
  (ues.filter (fun l => l / 16 == g)).foldl (uncorrectable f) d

/-- A pass over a stack ends: the count starts again and with it the period of R226. -/
def endPass (f : Fuses) (d : Dev) (i : Nat) : Dev :=
  (d.setObj (0x3031) i 0).setStack i { stackOf f d i with ces := [] }

/-- STACK_MAP (R33, R36). -/
def stackMap (f : Fuses) : Nat := if f.hbm = 32 then 0xFFFFFFFF else 0xDD77DD77

/-- A position of a stack is populated (R33). -/
def stackFitted (f : Fuses) (i : Nat) : Bool := bit (stackMap f) i

/-- The burnish requester of a controller port, whose stamp is the present (R509, R513). -/
def burnishAsk (d : Dev) : Ask := { kind := 5, stamp := d.stampNow }

/-- BURNISH_GRANULE (R225): the periodic pass scrubs the next granule of a stack. -/
def burnishGranule (i ces : Nat) (ues : List Nat) (f : Fuses) (d : Dev) : Dev :=
  match (stackOf f d i).state with
  | .ready =>
    let port := 0x1000 + 256 * (i / 2) + i % 2
    if obj f d 0x3030 1 = 0 ∨ stackFitted f i = false ∨ d.frozen port then d
    else
      let d := (List.range 16).foldl (fun d _ => d.grant port (burnishAsk d)) d
      let j := ctr d 0x3031 i
      let d := scrub f d (granuleAt f (slotOfStack f i) j) ces ues
      if j + 1 ≥ stackGranules then endPass f d i else d.setObj 0x3031 i (j + 1)
  | _ => d

/-- The extra pass of BURNISH_NOW (R225) over the stacks in service: corrected errors by granule, and the lines found
uncorrectable. -/
def burnishPass (f : Fuses) (d : Dev) (ces : List (Nat × Nat)) (ues : List Nat) : Dev :=
  let ok := fun (dd : Dev) (g : Nat) => match (stackOf f dd (stackIdx f (4096 * g))).state with | .ready => true | _ => false
  let d := ((poisonedStack f d).filter (fun l => ok d (l / 16))).foldl (poisonRead f) d
  let d := (ces.filter (fun p => ok d p.1)).foldl (fun d p => correctedErrors f d p.1 p.2) d
  (ues.filter (fun l => ok d (l / 16))).foldl (uncorrectable f) d

/-! ## Controllers (R230 to R233) -/

/-- A stack leaves service (R230, R231): its dirty lines are written back, its lines are invalidated, and the requests
that wait for fills wait in their shares. -/
def quiesceStack (f : Fuses) (d : Dev) (i : Nat) (st : StackState) : Dev :=
  let mine := fun (l : Nat) => stackIdx f (256 * l) == i
  let dirty := (d.mem.sets.map (fun p => (p.2.filter (fun l => l.dirty && mine l.line)).length)).sum
  let gone := ((d.mem.sets.map (fun p => (p.2.filter (fun l => mine l.line)))).flatten)
  let clean := (gone.filter (fun l => !l.dirty)).map TcLine.line
  let sets := (d.mem.sets.map (fun p => (p.1, p.2.filter (fun l => !mine l.line)))).filter (fun p => p.2 != [])
  let back := ((d.mem.fills.map (fun p => (p.2.filter (fun x => mine x.line)).map (fun x => x.waiters.map (fun w => (x.line, w))))).flatten).flatten
  let fills := (d.mem.fills.map (fun p => (p.1, p.2.filter (fun x => !mine x.line)))).filter (fun p => p.2 != [])
  let s := stackOf f d i
  let d := { d with mem := { d.mem with
    sets := sets
    fills := fills
    poison := (d.mem.hidden.filter (fun l => clean.contains l)) ++ d.mem.poison
    hidden := d.mem.hidden.filter (fun l => !mine l) } }
  (d.setStack i { s with state := st, trainFails := 0, waiting := back ++ s.waiting }).bump (0x3060 + i / 2) 2 64 dirty

/-- A ready stack's controller port is granted to its own housekeeping, frozen or not (R509, R515).  Nothing but the
arbiter's counts changes (R233). -/
def portTurn (f : Fuses) (d : Dev) (i : Nat) (q : Ask) : Dev :=
  if stackFitted f i = false then d
  else
    match (stackOf f d i).state with
    | .ready => d.grant (0x1000 + 256 * (i / 2) + i % 2) { q with stamp := d.stampNow }
    | _ => d

/-- MEM_CALIBRATION (R233): each controller pauses, an ordinary requester of its port (R509). -/
def memCalibration (f : Fuses) (d : Dev) : Dev := (List.range 32).foldl (fun d i => portTurn f d i { kind := 6 }) d

/-- REFRESH (R233): a refresh interval takes a stack's controller with the privileged grant (R509). -/
def refresh (i : Nat) (f : Fuses) (d : Dev) : Dev := portTurn f d i { kind := 7, priv := some 0 }

/-- The requests that waited for a stack go back to their banks before those that came later, in arrival order, and are
served (R231, R232). -/
def admitWaiting (f : Fuses) (d : Dev) (i : Nat) : Dev :=
  let s := stackOf f d i
  let d := (s.waiting.map (fun p => bankKey f p.1)).eraseDups.foldl (fun d b =>
    d.setBankQ b (s.waiting.filter (fun p => bankKey f p.1 == b) ++ bankQ d b)) (d.setStack i { s with waiting := [] })
  serveMemory f d

/-- CONTROLLER_READY (R231, R232): a controller's training ends.  With the check read it is READY and admits what
waits; the second failure makes the stack FAILED. -/
def controllerReady (i : Nat) (ok : Bool) (f : Fuses) (d : Dev) : Dev :=
  let s := stackOf f d i
  match s.state with
  | .retraining | .calibrating | .selfRefresh =>
    if ok then
      endUnitReset (fun d h => completeHandle f d h 0 0) (admitWaiting f (d.setStack i { s with state := .ready }) i) (ctlUnit i)
    else if s.trainFails = 0 then d.setStack i { s with trainFails := 1 }
    else
      let d := d.setStack i { s with state := .failed, trainFails := 2 }
      let d := cmcEvent d Status.stackFail i
      endUnitReset (fun d h => completeHandle f d h Status.stackFail 0) (admitWaiting f d i) (ctlUnit i)
  | _ => d

end Sys2Proof.Machine
end

