-- ==== Sys2Proof/Machine/TorusRows.lean ====
section
/-! DEFINITION. Packets received on the torus and the ring status of its links (R301 to R308). -/

namespace Sys2Proof.Machine

/-- The flits of the oldest whole packet of every channel of a receive buffer, in the order their last flits came. -/
def wholePackets (l : List Flit) : List (List Flit) :=
  let same := fun (x y : Flit) => chanOf x.vc x.esc == chanOf y.vc y.esc
  let ends := (l.filter Flit.eop).foldl (fun acc e => if acc.any (same e) then acc else acc ++ [e]) []
  ends.map (fun e => ((l.filter (same e)).takeWhile (fun x => !x.eop)) ++ [e])

/-- The flits of the oldest whole packet of a receive buffer. -/
def oldestPacket (l : List Flit) : Option (List Flit) := (wholePackets l).head?

/-- The flits of a packet leave the buffer, and their buffers are to be returned as credits (R303). -/
def freeFlits (t : Port) (fs : List Flit) : Port :=
  let ch := match fs with | x :: _ => chanOf x.vc x.esc | [] => 0
  { t with rx := fs.foldl (fun l x => l.erase x) t.rx, crOut := t.crOut.set ch (t.crOut.getD ch 0 + fs.length) }

/-- The header of a collective packet is whole and holds no reserved value (R348). -/
def collHdrOk (l : List Byte) : Bool :=
  decide (32 ≤ l.length ∧ field l 0 2 < 4096 ∧ field l 8 1 ≤ 13 ∧ field l 9 1 < 64 ∧ field l 15 1 = 0)

/-- A packet holds no reserved value, and its channel carries its KIND (R301, R302). -/
def packetOk (k : Packet) : Bool :=
  decide (k.kind ≤ 8) && decide (k.act ≤ 4) && decide (k.data.length ≤ 14320) && (k.kind != 6 || collHdrOk k.data) &&
    (if k.vc = 4 then decide (k.kind = 7 ∨ k.kind = 8) else decide (k.kind ≠ 7 ∧ k.kind ≠ 8))

/-- A PUT from another device lands in the Plate of the core its ADDR names (log entry 40). -/
def landPut (f : Fuses) (d : Dev) (k : Packet) : Dev :=
  let c := bits k.addr 38 32
  let a := k.addr % 2 ^ 32
  if c < f.cores ∧ a + k.data.length ≤ 0xC00000 then d.modCore c (fun x => x.patch ⟨a, k.data⟩) else d

/-- The bytes a memory read request asks for: its payload as a number, at most what one packet carries (log entry 44). -/
def readCount (k : Packet) : Nat := min 14080 (leNat k.data)

/-! ## The bulk movers and the counterproof region (R30, R216, R509) -/

/-- The counterproof region: its base and its usable size (R216, R227). -/
def cpBase (f : Fuses) (d : Dev) : Nat := jobTop f d
def cpSize (f : Fuses) (d : Dev) : Nat := usableLen f d 0

/-- Where the bytes at an offset of the counterproof region lie (R216, R227). -/
def cpRuns (f : Fuses) (d : Dev) (off len : Nat) : List (Nat × Nat) := placeRuns f d 0 off len

/-- The tile whose movers move a granule: the one it is homed in (R420). -/
def runTile (f : Fuses) (r : Nat × Nat) : Nat := homeTile f r.1

/-- The unit IDs of a tile's bulk movers (R564). -/
def bulkUnit (t m : Nat) : Nat := 0x2000 + 256 * t + m

/-- The progress counter of the bulk mover that takes a piece: of two that work, either (R420 names none, so a free value
chooses). -/
def moverIdx (d : Dev) (t : Nat) : Nat :=
  256 + 2 * t + (if unitInReset d (bulkUnit t 0) then 1 else if unitInReset d (bulkUnit t 1) then 0
    else if Config.freeBit d.freeCtr then 1 else 0)

/-- A tile's bulk movers can work. -/
def bulkReady (d : Dev) (t : Nat) : Bool := !(unitInReset d (bulkUnit t 0) && unitInReset d (bulkUnit t 1)) && !unitInReset d (0x9000 + 256 * t)

/-- The bulk mover pool of a tile (R509). -/
def poolArb (t : Nat) : Nat := 0x6000 + 256 * t

/-- Who a bulk mover is when it accesses the counterproof region for a packet of the neighbour (R216, R513). -/
def cpWho (f : Fuses) (k : Packet) (r : Nat × Nat) : Who := { tile := runTile f r, act := 2, stamp := k.stamp }

/-- The bulk mover pool of the tile a run is homed in can take a transfer (R509, R515, R580). -/
def poolOpen (f : Fuses) (d : Dev) (r : Nat × Nat) : Bool := bulkReady d (runTile f r) && !d.frozen (poolArb (runTile f r))

/-- Counterproof traffic of the neighbour takes its turns at the pools (R509). -/
def poolRuns (f : Fuses) (d : Dev) (stamp : Nat) (rs : List (Nat × Nat)) : Dev :=
  rs.foldl (fun d r => spendFree ((d.grant (poolArb (runTile f r)) { kind := 1, stamp := stamp }).moved (moverIdx d (runTile f r)) 1) true) d

/-- Where the memory that a packet touches lies (R216, R217): the jobs' memory, and for a read of a proof's movers the counterproof
region (log entry 158); none for a packet that reaches beyond, or that touches no memory here.  A counterproof write is taken by
CP_WRITE (R428). -/
def packetRuns (f : Fuses) (d : Dev) (k : Packet) : Option (List (Nat × Nat)) :=
  let n := if k.kind = 2 then k.data.length else readCount k
  if k.kind ≠ 3 ∧ (k.kind ≠ 2 ∨ k.act = 2) then none
  else if k.addr + n ≤ jobTop f d then some [(k.addr, n)]
  else if k.kind = 3 ∧ k.act = 2 ∧ cpBase f d ≤ k.addr ∧ k.addr - cpBase f d + n ≤ cpSize f d then some (cpRuns f d (k.addr - cpBase f d) n)
  else none

/-- Who a torus port is when it accesses device memory for a packet (R22, R31, R513). -/
def portWho (p : Nat) (k : Packet) : Who := { tile := (portTiles p).headD 0, act := k.act, stamp := k.stamp }

/-- Who serves a packet's access to device memory: its port, or for a proof's read the bulk mover of the tile (R216, R428). -/
def packetWho (f : Fuses) (p : Nat) (k : Packet) (r : Nat × Nat) : Who := if k.act = 2 then cpWho f k r else portWho p k

/-- A memory packet waits while the lines it touches cannot be served (R231, R419), or the bulk movers that serve it (R515). -/
def packetWaits (f : Fuses) (d : Dev) (p : Nat) (k : Packet) : Bool :=
  ((packetRuns f d k).getD []).any (fun r =>
    !(if k.kind = 2 then writeReady f d (packetWho f p k r) r else runReady f d (packetWho f p k r) r) ||
      (k.act == 2 && !poolOpen f d r))

/-- A memory write, or a read request, which is answered (R301, R376).  A request beyond what it may touch changes nothing; the
answer to one that meets a poisoned line has no payload (R217, R224; log entry 158). -/
def landMemory (f : Fuses) (d : Dev) (p : Nat) (k : Packet) : Dev :=
  match packetRuns f d k with
  | none => d
  | some rs =>
    if k.kind = 2 then writeRuns f d (portWho p k) rs k.data
    else
      let back : Packet :=
        { dest := k.src, src := devAddr f d, kind := 4, act := k.act, addr := k.addr, data := if (poisonedIn f d rs).isEmpty then runBytes d rs else [], vc := k.vc, stamp := d.stampNow }
      let e := rs.foldl (fun d r => noteRead f d (packetWho f p k r) [r]) d
      (routeSend f (if k.act = 2 then poolRuns f e k.stamp rs else e) back).1

/-- A packet for this device is handed on: messages to the mesh, a PUT to its Plate, memory packets to device memory, the rest
to the units that take it. -/
def deliverPacket (f : Fuses) (d : Dev) (p : Nat) (k : Packet) : Dev :=
  let words := (pieces 16 (k.data.length / 16) k.data).map leNat
  let src := (portTiles p).headD 0
  if k.kind = 0 then words.foldl (fun d m => sendMesh d src (destTile f (bits m 30 24) src) k.act k.stamp (.token m)) d
  else if k.kind = 1 then words.foldl (fun d m => sendMesh d src (destTile f (bits m 104 98) src) k.act k.stamp (.word m)) d
  else if k.kind = 5 then landPut f d k
  else if k.kind = 3 ∨ (k.kind = 2 ∧ k.act ≠ 2) then landMemory f d p k
  else if k.kind = 4 ∧ k.act = 3 then holdAnswer f d k
  else { d with inbox := d.inbox ++ [(p, k)] }

/-- The packet of some flits. -/
def packetOf (fs : List Flit) : Option Packet :=
  Packet.ofBytes (fs.headD { typ := 0 }).vc (fs.headD { typ := 0 }).esc ((fs.map (fun y => slice y.body 0 224)).flatten)

/-- A packet ends on this device: it came on MGMT or names this device (R302, R304). -/
def isHere (f : Fuses) (d : Dev) (k : Packet) : Bool := decide (k.vc = 4 ∨ k.dest = devAddr f d)

/-- The flits are a packet for this device that must wait (R31: the other channels do not wait with it). -/
def flitsWait (f : Fuses) (d : Dev) (p : Nat) (fs : List Flit) : Bool :=
  match packetOf fs with
  | some k => packetOk k && isHere f d k && packetWaits f d p k
  | none => false

/-- TORUS_PACKET (R31, R301 to R306): the oldest whole packet of a port that need not wait is delivered or routed
onward. -/
def torusPacket (p : Nat) (f : Fuses) (d : Dev) : Dev :=
  let t := d.port p
  match (wholePackets t.rx).find? (fun fs => !flitsWait f d p fs) with
  | none => d
  | some fs =>
    let e := d.setPort p (freeFlits t fs)
    match packetOf fs with
    | none => dropPacket e p 1
    | some k =>
      let k := { k with stamp := d.stampNow }
      if packetOk k = false then dropPacket e p 1
      else if isHere f d k then deliverPacket f e p k
      else forward f e k (some p)

/-- RING_STATUS (R307, R308): a ring status packet of a port records a link as down or up and is passed on once. -/
def ringStatusRow (p : Nat) (f : Fuses) (d : Dev) : Dev :=
  match d.inbox.find? (fun q => q.1 == p && q.2.kind == 8) with
  | none => d
  | some q =>
    let d := { d with inbox := d.inbox.erase q }
    let (a, c, down) := (field q.2.data 0 2, field q.2.data 2 2, field q.2.data 4 2 == 1)
    if linkKnown d a c down then d
    else sendRing f (recordLink d a c down) (portOf a (!portPos p)) a c down

/-- ROUTE_QUIET_EXPIRY (R307, R308, R345): ROUTE_QUIET has passed since a link was recorded; routes follow the record,
and the groups of a broken ring start a new epoch. -/
def routeQuietExpiry (a c : Nat) (f : Fuses) (d : Dev) : Dev :=
  match d.links.find? (fun r => r.axis == a && r.at_ == c && !r.routed) with
  | none => d
  | some r =>
    let d := quietEnd f d a c
    if r.down then ringDownReform f d a else d

/-- ROUTE_RESTORE (R308). -/
def routeRestore (f : Fuses) (d : Dev) (h : Nat) : Dev := completeHandle f (restorePorts f d) h 0 0

end Sys2Proof.Machine
end

