-- ==== Sys2Proof/Machine/Power.lean ====
section
/-! DEFINITION. Clocks, margins and the ageing log: slews of ROOT, margin plans and their application (R520 to R525,
R534 to R541). -/

namespace Sys2Proof.Machine

/-- The running value ROOT is to take (R522). -/
def rootTarget (f : Fuses) (d : Dev) : Nat := min (obj f d 0x2000 1) (obj f d 0x2000 2)

/-- The increment of the TICK timers at a ROOT (R524): the nearest integer, ties upwards. -/
def tickInc (mhz : Nat) : Nat := (2 * 48000 * 65536 + mhz) / (2 * mhz)

/-- The rail of a tile in mV (R541). -/
def railOf (f : Fuses) (d : Dev) (t : Nat) : Nat := obj f d (0x2020 + t) 6

/-- A temperature of a tile (R530), in 1/16 °C. -/
def tileTemp (d : Dev) (t : Nat) : Int := sext 32 (ctr d (0x2020 + t) 0)

/-- A record of the ageing log (R540).  WORST is the monitors' own and no rule states it from what the model holds: it is
free. -/
def ageRecord (f : Fuses) (d : Dev) (kind tile : Nat) : Dev :=
  let n := ctr d 0x2200 2
  let temps := (List.range 16).map (tileTemp d)
  let tmax := d.power.tmax.getD (temps.foldl max (temps.headD 0))
  let b := leBytes 4 n ++ leBytes 4 (ctr d 0x2100 4) ++ leBytes 1 kind ++ leBytes 1 tile ++ leBytes 2 (obj f d 0x2000 0) ++
    ((List.range 16).map (fun t => leBytes 2 (railOf f d t))).flatten ++ leBytes 2 (unsext 16 tmax) ++
    leBytes 2 (Config.freeWord d.freeCtr).toNat ++ zeros 12
  let pw := { d.power with ageLog := d.power.ageLog.put (n % 65536) (b ++ leBytes 4 (crc32c b)), tmax := none }
  ({ d with power := pw, freeCtr := d.freeCtr + 1 } : Dev).setObj 0x2200 2 ((n + 1) % 2 ^ 32)

/-- A plan whose slew, if any, has ended: MARGIN_APPLIED (R537). -/
def planDone (f : Fuses) (d : Dev) : Dev :=
  if d.power.applying then
    eventAllFree f (ageRecord f { d with power := { d.power with applying := false } } 2 0xFF) Status.marginApplied
  else d

/-- A slew begins where ROOT is not at its target and no barrier is in progress, unless it is forced (R522, R525). -/
def slewCheck (f : Fuses) (d : Dev) (forced : Bool) : Dev :=
  let busy := decide (1 ≤ ctr d 0xC000 2 ∧ ctr d 0xC000 2 ≤ 3)
  if obj f d 0x2000 0 = rootTarget f d then (if ctr d 0x2000 3 = 0 then planDone f d else d)
  else if busy && !forced then d
  else d.setObj 0x2000 3 1

/-- SLEW_STEP (R522, R524, R525): 20 µs of a slew have passed; ROOT moves one step.  At its end every trained port measures
its hop delay again. -/
def slewStep (f : Fuses) (d : Dev) : Dev :=
  let r := obj f d 0x2000 0
  let t := rootTarget f d
  if ctr d 0x2000 3 = 0 then d
  else
    let n := if r < t then r + 50 else if t < r then r - 50 else r
    let d := (d.setObj 0x2000 0 n).setObj 0x2000 4 (tickInc n)
    if n ≠ t then d
    else
      let d := d.setObj 0x2000 3 0
      let d := (List.range 6).foldl (fun d p =>
        match (d.port p).state with
        | .up | .degraded | .restored => beginMeasure d p
        | _ => d) d
      planDone f d

/-- ROOT_CAP has been written (R522). -/
def rootCapSet (f : Fuses) (d : Dev) : Dev := slewCheck f d false

/-! ## Plans (R536 to R538) -/

/-- A voltage set on a tile's rail (R536): never below VMIN or above VMAX. -/
def railClamp (f : Fuses) (t v : Nat) : Nat := min (f.vmax.getD t 0) (max (f.vmin.getD t 0) v)

/-- The plan of R536: `need` gives, for each ROOT from 4,500 MHz in steps of 50, the least voltage of every tile at which
its monitors show GUARD.  It answers ROOT_PLANNED_NEW and whether every tile fits. -/
def planRoot (f : Fuses) (need : List (List Nat)) : Nat → Nat × Bool
  | 0 => (4500, (List.range 16).all (fun t => decide ((need.getD 0 []).getD t 0 ≤ f.vmax.getD t 0)))
  | i + 1 =>
    if (List.range 16).all (fun t => decide ((need.getD (i + 1) []).getD t 0 ≤ f.vmax.getD t 0)) then (4500 + 50 * (i + 1), true)
    else planRoot f need i

/-- A waiting plan takes effect (R537): the rails move first, then ROOT slews. -/
def applyPlan (f : Fuses) (d : Dev) : Dev :=
  match d.power.waiting with
  | none => d
  | some p =>
    let root := min p.root (obj f d 0x2000 2)
    let p := { p with root := root }
    let d := { d with power := { d.power with waiting := none, flash := some p, applying := true } }
    let d := (List.range 16).foldl (fun d t => d.setObj (0x2020 + t) 6 (p.rails.getD t 0)) d
    slewCheck f ((d.setObj 0x2000 2 root).setObj 0x2100 3 0) false

/-- A plan is made (R536 to R538): rails that must rise are raised at once, the rest waits; `short` is the mask of the
physical cores that fall short at the floor, which AGE_FLOOR carries (R17, R538): whole to the CMC, and in an event ring its low 32
bits, all that ARG holds (log entry 174). -/
def makePlan (need : List (List Nat)) (short : Nat) (f : Fuses) (d : Dev) : Dev :=
  let (root, fits) := planRoot f need ((obj f d 0x2000 2 - 4500) / 50)
  let v := (List.range 16).map (fun t =>
    if fits then railClamp f t ((need.getD ((root - 4500) / 50) []).getD t 0) else f.vmax.getD t 0)
  let fall := decide (root < obj f d 0x2000 2) || (List.range 16).any (fun t => decide (v.getD t 0 < railOf f d t))
  let d := (List.range 16).foldl (fun d t => if v.getD t 0 > railOf f d t then d.setObj (0x2020 + t) 6 (v.getD t 0) else d) d
  let d := eventAll f (ageRecord f d 1 0xFF) Status.marginPlanned root
  let d := if fits then d else
    eventAll f (d.log Status.ageFloor 3 0 0xFFFF [short % 2 ^ 64, short / 2 ^ 64 % 2 ^ 64]) Status.ageFloor (short % 2 ^ 128)
  let d := { d with power := { d.power with waiting := some ⟨root, v⟩ } }
  if fall then d.setObj 0x2100 3 1 else applyPlan f d

/-- MARGIN_APPLIED (R537): 1 s has passed with no thread of any core in RUN, WAIT or STOPPED. -/
def marginApplied (f : Fuses) (d : Dev) : Dev :=
  if d.cores.any (fun p => p.2.busy) then d else applyPlan f d

end Sys2Proof.Machine
end

