-- ==== Sys2Proof/Machine/Proof.lean ====
section
/-! DEFINITION. Proofs and counterproofs: the plan, the snapshot with its copy-on-write, draining to the sink and the
neighbour, sealing, and restoring (R413 to R433). -/

namespace Sys2Proof.Machine

/-- Who the bulk movers of a tile are when they access device memory (R30, R513). -/
def moverWho (d : Dev) (t : Nat) : Who := { tile := t, act := 2, stamp := d.stampNow }

/-! ## The plan (R413, R414) -/

def planKind (e : List Byte) : Nat := field e 0 1
def planOwner (e : List Byte) : Bool := bit (field e 1 1) 0
def planRecovery (e : List Byte) : Bool := bit (field e 1 1) 1
def planPlate (e : List Byte) : Bool := bit (field e 1 1) 2
def planAddr (e : List Byte) : Nat := field e 8 8
def planLen (e : List Byte) : Nat := field e 16 8
def planCore (e : List Byte) : Nat := bits (planAddr e) 30 24

/-- Where a context's plan lies (R413); none where the table is not mapped. -/
def planRuns (f : Fuses) (d : Dev) (g : Nat) : Option (List (Nat × Nat)) :=
  ctxRuns d g false (obj f d (ctxIdx g 0x9000) 0) (32 * obj f d (ctxIdx g 0x9000) 1)

/-- Plan entries of a context as its memory holds them (R413). -/
def readPlan (f : Fuses) (d : Dev) (g : Nat) (rs : List (Nat × Nat)) : List (List Byte) :=
  pieces 32 (obj f d (ctxIdx g 0x9000) 1) (runBytes d rs)

/-- The lines of a context's plan can be read now (R20, R231). -/
def planReady (f : Fuses) (d : Dev) (g : Nat) : Bool :=
  match planRuns f d g with
  | some rs => rs.all (runReady f d (moverWho d 0))
  | none => true

/-- The reserved fields of a plan entry are 0 (R413). -/
def planFields (e : List Byte) : Bool :=
  decide (planKind e ≤ 8) && decide (field e 1 1 < 8) && decide (field e 28 4 = 0) &&
    (!planOwner e || decide (field e 2 2 = 0)) && (decide (planKind e = 4) || decide (field e 4 4 = 0)) &&
    (!planPlate e || decide (planAddr e < 2 ^ 31))

/-- A plan keeps R414. -/
def planOk (f : Fuses) (d : Dev) (g : Nat) (es : List (List Byte)) : Bool :=
  let mem := es.filter (fun e => !planPlate e)
  let plate := es.filter planPlate
  let clash := fun (l : List (List Byte)) (same : List Byte → List Byte → Bool) =>
    (l.zipIdx).any (fun p => (l.zipIdx).any (fun q => decide (p.2 < q.2) && same p.1 q.1 &&
      decide (planAddr p.1 % 2 ^ 48 < planAddr q.1 % 2 ^ 48 + planLen q.1 ∧ planAddr q.1 % 2 ^ 48 < planAddr p.1 % 2 ^ 48 + planLen p.1)))
  decide (1 ≤ es.length ∧ es.length ≤ 4096) && es.all planFields &&
    mem.all (fun e => decide (planAddr e % 4096 = 0) && decide (planLen e % 4096 = 0) && inWindow d g false (planAddr e : Int) (planLen e)) &&
    !clash mem (fun _ _ => true) &&
    plate.all (fun e => decide (planAddr e % 256 = 0) && decide (planLen e % 256 = 0) && !planRecovery e &&
      decide (planCore e < f.cores) && decide (planAddr e % 2 ^ 24 + planLen e ≤ 0xC00000) &&
      decide (((plate.filter (fun x => planCore x == planCore e)).map planLen).sum ≤ 1024 * obj f d 0x3100 3)) &&
    decide ((es.filter planRecovery).length ≤ 1023) &&
    es.all (fun e => decide (planKind e ≠ 4) || decide (planLen e = 2 * 16 * ceilDiv (field e 4 4) 8))

/-- CRC-32C over the plan's entries (R425). -/
def planCrc (es : List (List Byte)) : Nat := crc32c es.flatten

/-- The offset of a region in the counterproof bank (R428). -/
def cpOffset (es : List (List Byte)) (i : Nat) : Nat :=
  ((es.take i).filter planRecovery).foldl (fun a e => a + 4096 * ceilDiv (planLen e) 4096) 65536

/-! ## Starting, arming and ending (R417, R430, R431) -/

/-- The physical counter a context-relative claim number names (R195).  A grant whose base and count pass 65,536 is committed as
it stands, and its last counters have numbers of 65,536 and more (DESIGN CHOICE, log entry 146). -/
def claimPhys (f : Fuses) (d : Dev) (g n : Nat) : Nat := obj f d (0x7000 + g) 0x0B + n

/-- A proof ends (R430): protection ends, the COW space is freed, the handle completes. -/
def proofEnd (f : Fuses) (d : Dev) (st : Nat) : Dev :=
  let p := d.proof
  let d := { d with proof := { seqNext := p.seqNext, waits := p.waits, restores := p.restores } }
  let d := (d.setObj 0x9020 6 0).setObj 0x9020 0x0A st
  let d := if st = 0 then d.setObj 0x9020 2 p.gen else d
  completeHandle f d p.handle st 0

/-- A running proof is ended by a status (R431): through ABORTING while records are in flight. -/
def proofAbort (f : Fuses) (d : Dev) (st : Nat) : Dev :=
  let p := d.proof
  if p.state = 0 ∨ p.state = 5 then d
  else if p.flight.isEmpty then proofEnd f d st
  else { d with proof := { p with state := 5, guard := [], cow := [], full := [], left := [], manifest := none, status := st } }.setObj 0x9020 6 0

/-- The proof's neighbour on a port (R317, R428); none for FFh, nor on an axis of one device. -/
def neighbourAddr (f : Fuses) (d : Dev) (p : Nat) : Option Nat :=
  let a := portAxis p
  let n := axisSize f d a
  if p > 5 ∨ n < 2 then none
  else
    let c := coordOf f d (devAddr f d) a
    some (withCoord f d (devAddr f d) a (if portPos p then (c + 1) % n else (c + n - 1) % n))

/-- A region is to be written by this proof to the sink, to the neighbour (R419, R428). -/
def toFile (p : Proof) (e : List Byte) : Bool := planOwner e && bit p.dest 0
def toCp (p : Proof) (e : List Byte) : Bool := planRecovery e && bit p.dest 1

/-- The pieces of a region (R420): its granules, or its copy in the proof partition cut at 4 KiB. -/
def regionItems (d : Dev) (p : Proof) (base : Nat) (i : Nat) (e : List Byte) : Option (List PItem) :=
  if !toFile p e && !toCp p e then some []
  else if planPlate e then
    some ((List.range (ceilDiv (planLen e) 4096)).map (fun k =>
      { region := i, off := 4096 * k, gran := none, core := planCore e, addr := base + 4096 * k,
        len := min 4096 (planLen e - 4096 * k), file := toFile p e, cp := false }))
  else
    (ctxRuns d p.ctx false (planAddr e) (planLen e)).map (fun rs =>
      let gs := (rs.map (fun r => (List.range (r.2 / 4096)).map (fun k => r.1 / 4096 + k))).flatten
      (gs.zipIdx).map (fun g =>
        { region := i, off := 4096 * g.2, gran := some g.1, len := 4096, file := toFile p e, cp := toCp p e }))

/-- BASE_PROOF (R106). -/
def proofBase (f : Fuses) (d : Dev) : Nat := (obj f d 0x3100 0 + obj f d 0x3100 1 + obj f d 0x3100 2) * 1024

/-- Where each Plate region's copy lies: plan order from BASE_PROOF of its core (R420). -/
def plateCopies (f : Fuses) (d : Dev) (es : List (List Byte)) : List Nat :=
  (List.range es.length).map (fun i =>
    let c := planCore (es.getD i [])
    ((es.take i).filter (fun e => planPlate e && planCore e == c)).foldl (fun a e => a + planLen e) (proofBase f d))

/-- The arm (R417, R419): the snapshot is taken and its granules are protected; a margin plan that waits takes effect
(R537). -/
def proofArm (f : Fuses) (d : Dev) : Dev :=
  let p := d.proof
  if p.state ≠ 1 then d
  else
    let bases := plateCopies f d p.plan
    let items := (p.plan.zipIdx).map (fun q => regionItems d p (bases.getD q.2 0) q.2 q.1)
    if items.any Option.isNone then proofEnd f d Status.planInvalid
    else
      let l := (items.map (fun q => q.getD [])).flatten
      let d := { d with proof := { p with state := 2, left := l, guard := l.filterMap PItem.gran } }
      let d := (d.setObj 0x9020 3 p.step).setObj 0x9020 4 ((l.map PItem.len).sum)
      spendFree (ctxEvent f (applyPlan f d) p.ctx Status.proofSnapped (freeArg d)) true

/-- The reserved bits of a PROOF_START argument, and the range of PLATE_NOTE (R430). -/
def proofArgOk (a : Nat) : Bool :=
  decide (bits a 63 41 = 0) && decide (bits a 127 112 = 0) && decide (bits a 191 144 = 0) && decide (bits a 40 34 < 96)

/-- The checks of PROOF_START before the plan is read (R430). -/
def proofCheckArg (f : Fuses) (d : Dev) (a : Nat) : Nat :=
  if d.proof.state ≠ 0 then Status.proofBusy
  else if bits a 31 0 ≤ ctr d 0x9020 2 then Status.genStale
  else if bits a 33 32 = 0 ∨ obj f d 0x3010 2 = 0 then Status.planInvalid
  else 0

/-- The checks of PROOF_START (R430), with the plan where they pass. -/
def proofCheck (f : Fuses) (d : Dev) (g a : Nat) : Except Nat (List (List Byte)) :=
  let dest := bits a 33 32
  if proofCheckArg f d a ≠ 0 then .error (proofCheckArg f d a)
  else match planRuns f d g with
    | none => .error Status.planInvalid
    | some rs =>
      let es := readPlan f d g rs
      if (poisonedIn f d rs).isEmpty = false then .error Status.memUe
      else if planOk f d g es = false then .error Status.planInvalid
      else if bit dest 0 ∧ obj f d 0x9010 2 = 0 then .error Status.sinkUnset
      else if bit dest 1 ∧ cpOffset es es.length > cpSize f d then .error Status.cpTooSmall
      else if bits a 143 128 ≠ 0xFFFF ∧ bits a 143 128 ≥ obj f d (0x7000 + g) 0x0C then .error Status.claimGrant
      else .ok es

/-- The read of a context's plan is accounted for (R20, R221). -/
def notePlan (f : Fuses) (d : Dev) (g : Nat) : Dev := noteRead f d (moverWho d 0) ((planRuns f d g).getD [])

/-- PROOF_START has its plan (R417, R430). -/
def proofStart (f : Fuses) (d : Dev) (h g a : Nat) : Dev :=
  match proofCheck f d g a with
  | .error st => completeHandle f (if proofCheckArg f d a ≠ 0 then d else notePlan f d g) h st 0
  | .ok es =>
    let d := notePlan f d g
    let trig := if bits a 143 128 = 0xFFFF then none else some (claimPhys f d g (bits a 143 128))
    let thresh := bits a 255 192
    let d := { d with proof := { d.proof with
      state := 1, ctx := g, handle := h, gen := bits a 31 0, dest := bits a 33 32, note := bits a 40 34,
      step := bits a 111 64, trigger := trig, thresh := thresh, plan := es, status := 0 } }
    let d := (d.setObj 0x9020 1 (bits a 31 0)).clearObjs 0x9020 4 9
    match trig with
    | none => proofArm f d
    | some c => if (SMap.get {} d.claims c).value ≥ thresh then proofArm f d else d

/-- PROOF_ABORT (R431). -/
def proofAbortCmd (f : Fuses) (d : Dev) (h : Nat) : Dev := completeHandle f (proofAbort f d Status.proofAborted) h 0 0

/-! ## The snapshot (R418, R419) -/

/-- Where a granule's snapshot version lies: its copy in the COW buffer, or the granule itself (R419). -/
def snapRun (d : Dev) (g : Nat) : Nat × Nat :=
  match d.proof.cow.find? (fun c => c.1 == g) with
  | some c => (4096 * c.2, 4096)
  | none => (4096 * g, 4096)

/-- A granule has a poisoned line. -/
def granPoisoned (f : Fuses) (d : Dev) (g : Nat) : Bool := !(poisonedIn f d [(4096 * g, 4096)]).isEmpty

/-- Where a region's snapshot version lies. -/
def snapRuns (d : Dev) (rs : List (Nat × Nat)) : List (Nat × Nat) :=
  (rs.map (fun r => (List.range (r.2 / 4096)).map (fun k => snapRun d (r.1 / 4096 + k)))).flatten

/-- Every tag of a tag plane reads TARGET_STEP mod 2^16 (R265, R418). -/
def tagsAt (step : Nat) (e l : List Byte) : Bool :=
  let n := field e 4 4
  let wt := 16 * ceilDiv n 8
  (List.range n).all (fun k => decide (field l (2 * k) 2 = step % 65536) && decide (field l (wt + 2 * k) 2 = step % 65536))

/-- The manifest and the header of the counterproof bank (R426, R428): one 64-byte entry. -/
def entryBytes (object region : Nat) (e : List Byte) (owner off len : Nat) (digest : List Byte) : List Byte :=
  leBytes 4 object ++ leBytes 2 region ++ leBytes 1 (planKind e) ++ leBytes 1 (field e 1 1) ++ leBytes 2 owner ++ zeros 6 ++
    leBytes 8 off ++ leBytes 8 len ++ digest

/-- The largest payload of an object (R425). -/
abbrev objMax : Nat := 4294963200

/-- The objects of a plan in order (R425): region, offset and length of each payload. -/
def planObjects (p : Proof) : List (Nat × Nat × Nat) :=
  ((p.plan.zipIdx).map (fun q =>
    if toFile p q.1 then (List.range (ceilDiv (planLen q.1) objMax)).map (fun k => (q.2, objMax * k, min objMax (planLen q.1 - objMax * k)))
    else [])).flatten

/-- Drained bytes of a region from an offset, in order. -/
def drainedBytes (p : Proof) (region off len : Nat) : List Byte :=
  ((List.range (ceilDiv len 4096)).map (fun k =>
    match p.got.find? (fun q => q.1 == region && q.2.1 == off + 4096 * k) with
    | some q => q.2.2
    | none => [])).flatten

/-! ## The sink (R422 to R426) -/

/-- The buffer of a record: the ring's buffers in turn (R422, R423). -/
def sinkBuf (f : Fuses) (d : Dev) (seq : Nat) : Nat := (seq + 2 ^ 32 - 1) % 2 ^ 32 % max 1 (obj f d 0x9010 2)

/-- Send one record with its data (R423): the data, the record, then its SEQ to the doorbell.  `dev` and `gen` name the object. -/
def sinkSend (f : Fuses) (d : Dev) (op flags dev gen object off : Nat) (data : List Byte) (len : Nat) : Dev :=
  let p := d.proof
  let b := sinkBuf f d p.seqNext
  let rec_ := leBytes 4 p.seqNext ++ leBytes 1 op ++ leBytes 1 flags ++ leBytes 2 b ++ leBytes 2 dev ++ zeros 2 ++
    leBytes 4 gen ++ leBytes 4 object ++ leBytes 4 len ++ leBytes 8 off ++ zeros 32
  let d := if op = 1 then d.emit (.peerWrite (obj f d 0x9010 0 + b * obj f d 0x9010 1) data) else d
  let d := d.emit (.peerWrite (obj f d 0x9010 3 + 64 * b) rec_)
  let d := d.emit (.peerWrite (obj f d 0x9010 4) (leBytes 4 p.seqNext))
  { d with proof := { d.proof with seqNext := (p.seqNext + 1) % 2 ^ 32 } }

/-- A WRITE record of the running proof. -/
def sinkWrite (f : Fuses) (d : Dev) (flags object off : Nat) (data : List Byte) : Dev :=
  let l := data ++ zeros ((4096 - data.length % 4096) % 4096)
  let s := d.proof.seqNext
  let d := sinkSend f d 1 flags (devAddr f d) d.proof.gen object off l l.length
  { d with proof := { d.proof with flight := d.proof.flight ++ [⟨s, flags == 2⟩] } }

/-- Records of restores that have not been acknowledged (R423). -/
def readsOut (d : Dev) : Nat := (d.proof.restores.map (fun r => if r.cp then 0 else r.flight.length)).sum

/-- A buffer is free (R423). -/
def sinkFree (f : Fuses) (d : Dev) : Bool := decide (d.proof.flight.length + readsOut d < obj f d 0x9010 2)

/-- An object's header block (R425). -/
def objectHeader (f : Fuses) (d : Dev) (n : Nat) (o : Nat × Nat × Nat) (digest : List Byte) : List Byte :=
  let p := d.proof
  let e := p.plan.getD o.1 []
  let b := leBytes 4 0x5F0A1C9D ++ leBytes 2 1 ++ leBytes 2 (devAddr f d) ++ leBytes 4 p.gen ++ leBytes 4 n ++ leBytes 8 p.step ++
    leBytes 2 o.1 ++ leBytes 1 (planKind e) ++ leBytes 1 (field e 1 1) ++ leBytes 4 (obj f d 0x1000 2) ++ leBytes 8 o.2.1 ++
    leBytes 8 o.2.2 ++ leBytes 4 (planCrc p.plan) ++ zeros 12 ++ digest ++ zeros 156
  b ++ leBytes 4 (crc32c b) ++ zeros 3840

/-- The manifest (R426).  The DIGEST of a region that is not written here is a free value: the device has not read it. -/
def manifest (f : Fuses) (d : Dev) : List Byte :=
  let p := d.proof
  let objs := (planObjects p).zipIdx
  let ents := ((p.plan.zipIdx).map (fun q =>
    if planOwner q.1 then
      (objs.filter (fun o => o.1.1 == q.2)).map (fun o =>
        entryBytes o.2 q.2 q.1 0 o.1.2.1 o.1.2.2 (sha256 (drainedBytes p q.2 o.1.2.1 o.1.2.2)))
    else [entryBytes 0xFFFFFFFF q.2 q.1 (field q.1 2 2) 0 (planLen q.1) (slice (freeBytes d (32 * (q.2 + 1))) (32 * q.2) 32)])).flatten
  let key := slotKey d 2
  let head := leBytes 4 0x5F0A1C9E ++ leBytes 2 1 ++ leBytes 2 (devAddr f d) ++ leBytes 4 p.gen ++ leBytes 4 ents.length ++
    leBytes 8 p.step ++ leBytes 4 (planCrc p.plan) ++ leBytes 4 (obj f d 0x1000 2) ++ f.serial ++
    leBytes 1 (if key.isSome then 1 else 0) ++ zeros 19
  let body := head ++ ents.flatten
  let body := body ++ zeros ((2 * 4096 - 48 - body.length % 4096) % 4096)
  let md := sha256 body
  let tag := match key with
    | some k => gcmTag k (leBytes 4 (devAddr f d) ++ leBytes 8 p.gen) md []
    | none => zeros 16
  body ++ md ++ tag

/-! ## The counterproof (R428) -/

/-- A memory write into the neighbour's bank on VC2; the state, and whether the neighbour is reachable. -/
def cpSend (f : Fuses) (d : Dev) (off : Nat) (l : List Byte) : Dev × Bool :=
  match neighbourAddr f d (obj f d 0x9030 0) with
  | none => (d, false)
  | some toId => routeSend f d { dest := toId, src := devAddr f d, kind := 2, act := 2, addr := jobTop f d + off, data := l, vc := 2, stamp := d.stampNow }

/-- The bank header (R428): HCRC at 60 to 63 covers bytes 0 to 59 and 64 to the end of the header. -/
def bankHeader (f : Fuses) (d : Dev) : List Byte :=
  let p := d.proof
  let rs := (p.plan.zipIdx).filter (fun q => planRecovery q.1)
  let ents := (rs.map (fun q => entryBytes 0xFFFFFFFF q.2 q.1 (field q.1 2 2) 0 (planLen q.1)
    (sha256 (drainedBytes p q.2 0 (planLen q.1))))).flatten
  let head := leBytes 4 0x5F0A1C9F ++ leBytes 2 1 ++ leBytes 2 (devAddr f d) ++ leBytes 4 p.gen ++ leBytes 4 rs.length ++
    leBytes 8 p.step ++ leBytes 1 1 ++ zeros 35
  let rest := ents ++ zeros (65536 - 64 - ents.length)
  head ++ leBytes 4 (crc32c (head ++ rest)) ++ rest

/-- The bank header is sent, its first part last (R428). -/
def sendBank (f : Fuses) (d : Dev) : Dev × Bool :=
  (((pieces 14080 5 (bankHeader f d)).zipIdx).reverse).foldl (fun (p : Dev × Bool) q =>
    let (d, ok) := cpSend f p.1 (14080 * q.2) q.1
    (d, p.2 && ok)) (d, true)

/-! ## Draining and sealing (R420, R423, R426, R428, R430) -/

/-- Once every object is acknowledged the manifest and the counterproof's header are written; with nothing left to be
acknowledged the proof ends OK (R426, R428, R430). -/
def trySeal (f : Fuses) (d : Dev) : Dev :=
  let p := d.proof
  let file := bit p.dest 0
  let n := (planObjects p).length
  if p.state ≠ 3 ∨ p.left.isEmpty = false ∨ (file = true ∧ (p.headed.length < n ∨ p.flight.isEmpty = false)) then d
  else
    let d := { d with proof := { p with state := 4 } }
    let (d, ok) := if bit p.dest 1 then sendBank f d else (d, true)
    if ok = false then proofAbort f d Status.cpAbsent
    else if file then d
    else proofEnd f d 0

/-- SEALING (R426, R430, R431): the management cipher unit computes the manifest's TAG as soon as it can copy slot 2's key, or no
key is needed; a proof whose key was erased meanwhile ends with PROOF_ABORTED, one whose tag operation met a mismatch with
MISMATCH (log entry 90). -/
def sealGo (f : Fuses) (d : Dev) : Dev :=
  let p := d.proof
  if p.state ≠ 4 then d
  else if p.keyLost then proofAbort f d Status.proofAborted
  else if p.manifest.isSome ∨ p.flight.isEmpty = false ∨ bit p.dest 0 = false then d
  else
    let keyed := (slotKey d 2).isSome
    if keyed && !mgmtFree d then d
    else
      let (e, bad) := if keyed then mgmtStart d 2 else (d, false)
      if bad then proofAbort f e Status.mismatch
      else spendFree { e with proof := { e.proof with manifest := some (manifest f e) } } true

/-- Tag planes that lie in a Plate: the entry, the tile whose movers copy it, and the copy (R418, R420). -/
def plateTags (f : Fuses) (d : Dev) : List (List Byte × Nat × List Byte) :=
  let p := d.proof
  let bases := plateCopies f d p.plan
  ((p.plan.zipIdx).filter (fun q => planKind q.1 == 4 && planPlate q.1)).map (fun q =>
    (q.1, f.tileOf (planCore q.1), readBytes (d.core (planCore q.1)).plate (bases.getD q.2 0) (planLen q.1)))

/-- BOUNDARY_CHECK (R418): every tag in its snapshot version reads TARGET_STEP, those of a Plate once they are copied. -/
def boundaryCheck (f : Fuses) (d : Dev) : Dev :=
  let p := d.proof
  if p.state ≠ 2 ∨ (plateTags f d).all (fun q => p.copied.contains q.2.1) = false then d
  else
    let tags := (p.plan.filter (fun e => planKind e == 4 && !planPlate e)).map (fun e =>
      (e, snapRuns d ((heldRuns d p.ctx false (planAddr e) (planLen e)).getD [])))
    if (tags.all (fun q => q.2.all (fun r => runReady f d (moverWho d (runTile f r)) r))) = false then d
    else
      let e := tags.foldl (fun d q => q.2.foldl (fun d r => noteRead f d (moverWho d (runTile f r)) [r]) d) d
      if tags.any (fun q => !(poisonedIn f d q.2).isEmpty) then proofAbort f e Status.memUe
      else if tags.all (fun q => tagsAt p.step q.1 (runBytes d q.2)) && (plateTags f d).all (fun q => tagsAt p.step q.1 q.2.2) then
        trySeal f { e with proof := { e.proof with state := 3 } }
      else proofEnd f e Status.notBoundary

/-- Cores of a tile that have Plate regions in the plan (R420). -/
def plateCores (f : Fuses) (p : Proof) (t : Nat) : List Nat :=
  (List.range f.cores).filter (fun c => decide (f.tileOf c = t) && p.plan.any (fun e => planPlate e && planCore e == c))

/-- PLATE_NOTE (R420): the tile's bulk movers copy the Plate regions and send the tokens. -/
def plateNote (t : Nat) (f : Fuses) (d : Dev) : Dev :=
  let p := d.proof
  let cs := plateCores f p t
  if p.state < 2 ∨ p.state > 3 ∨ p.copied.contains t ∨ cs.isEmpty ∨ bulkReady d t = false then d
  else
    let bases := plateCopies f d p.plan
    let mine := (p.plan.zipIdx).filter (fun q => planPlate q.1 && cs.contains (planCore q.1))
    if mine.any (fun q => ((d.core (planCore q.1)).badWord (planAddr q.1 % 2 ^ 24) (planLen q.1)).isSome) then proofAbort f d Status.memUe
    else
      let d := mine.foldl (fun d q => d.modCore (planCore q.1) (fun k =>
        k.patch ⟨bases.getD q.2 0, readBytes k.plate (planAddr q.1 % 2 ^ 24) (planLen q.1)⟩)) d
      let d := { d with proof := { d.proof with copied := t :: p.copied } }
      cs.foldl (fun d c => (sendToken f d (tokenMsg 1 { credit := false, idx := p.note } c (devAddr f d) 2 (devAddr f d) t 0 4 0)).1) d

/-- The tile whose movers drain a piece. -/
def itemTile (f : Fuses) (i : PItem) : Nat :=
  match i.gran with
  | some g => homeTile f (4096 * g)
  | none => f.tileOf i.core

/-- The next piece a tile drains (R420): the oldest copy in the COW buffer, else the first in plan order. -/
def nextItem (f : Fuses) (p : Proof) (t : Nat) : Option PItem :=
  match p.cow.findSome? (fun c => p.left.find? (fun i => i.gran == some c.1 && itemTile f i == t)) with
  | some i => some i
  | none => p.left.find? (fun i => itemTile f i == t)

/-- An object whose payload has been drained and whose header has not been sent (R425). -/
def headDue (p : Proof) : Option (Nat × (Nat × Nat × Nat)) :=
  if bit p.dest 0 then
    (((planObjects p).zipIdx).find? (fun o => !p.headed.contains o.2 &&
      !(p.left.any (fun i => i.region == o.1.1 && decide (o.1.2.1 ≤ i.off ∧ i.off < o.1.2.1 + o.1.2.2))))).map (fun o => (o.2, o.1))
  else none

/-- A transfer of this device's proof stream through a tile's bulk mover pool (R509). -/
def poolTurn (d : Dev) (t : Nat) : Dev := (d.grant (poolArb t) { kind := 0, stamp := d.stampNow }).moved (moverIdx d t) 1

/-- PROOF_DRAIN (R420, R423, R425, R426, R428): a bulk mover of a tile drains one piece, or writes the header of an object whose
payload is complete, or the manifest once it is sealed.  `err` says that a peer request completed with an error (R424). -/
def proofDrain (t : Nat) (err : Bool) (f : Fuses) (d : Dev) : Dev :=
  let p := d.proof
  if bulkReady d t = false ∨ d.frozen (poolArb t) then d
  else if p.state = 4 then
    match p.manifest with
    | none => d
    | some m =>
      if sinkFree f d = false then d
      else if err then proofAbort f d Status.sinkError
      else
        let d := sinkWrite f d 2 0xFFFFFFFF 0 m
        spendFree (poolTurn { d with proof := { d.proof with manifest := none } } t) true
  else if p.state ≠ 3 ∨ ((plateCores f p t).isEmpty = false ∧ p.copied.contains t = false) then d
  else match headDue p with
    | some (n, o) =>
      if sinkFree f d = false then d
      else if err then proofAbort f d Status.sinkError
      else
        let hb := objectHeader f d n o (sha256 (drainedBytes p o.1 o.2.1 o.2.2))
        let d := sinkWrite f d 1 n 0 hb
        let q := d.proof
        spendFree (poolTurn { d with proof := { q with headed := n :: q.headed } } t) true
    | none =>
      match nextItem f p t with
      | none => d
      | some i =>
        let run := match i.gran with | some g => [snapRun d g] | none => []
        if (i.file && !sinkFree f d) || !(run.all (runReady f d (moverWho d t))) then d
        else if i.file && err then proofAbort f d Status.sinkError
        else if (poisonedIn f d run).isEmpty = false then proofAbort f (noteRead f d (moverWho d t) run) Status.memUe
        else
          let data := match i.gran with
            | some _ => runBytes d run
            | none => readBytes (d.core i.core).plate i.addr i.len
          let d := noteRead f d (moverWho d t) run
          let (d, ok) := if i.cp then cpSend f d (cpOffset p.plan i.region + i.off) data else (d, true)
          if ok = false then proofAbort f d Status.cpAbsent
          else
            let num := match ((planObjects p).zipIdx).find? (fun o => o.1.1 == i.region && decide (o.1.2.1 ≤ i.off ∧ i.off < o.1.2.1 + o.1.2.2)) with
              | some o => o.2
              | none => 0
            let d := if i.file then sinkWrite f d 0 num (4096 + i.off % objMax) data else d
            let q := d.proof
            let cow := match i.gran with | some g => q.cow.filter (fun c => c.1 != g) | none => q.cow
            let guard := match i.gran with | some g => q.guard.filter (· ≠ g) | none => q.guard
            let got := q.got ++ [(i.region, i.off, data)]
            let d := { d with proof := { q with left := q.left.erase i, cow := cow, guard := guard, got := got } }
            let d := (d.bump 0x9020 5 64 i.len).setObj 0x9020 6 (4096 * cow.length)
            trySeal f (spendFree (poolTurn d t) true)

/-- Retired granules lie in the COW region (R227, R421). -/
def cowCapacity (f : Fuses) (d : Dev) : Nat :=
  usableLen f d 1 / 4096

/-- A free granule of the COW region: the first that holds no copy (R419). -/
def cowSlot (f : Fuses) (d : Dev) : Nat :=
  let l := (List.range (d.proof.cow.length + 1)).map (regionGranule d ((regionBases f d).getD 1 0) (regionLen f d 1))
  (l.find? (fun s => !(d.proof.cow.any (fun c => c.2 == s)))).getD 0

/-- The writes to a granule that the COW buffer has no room for (R421): those held at its bank, or the one of the unit that
waits; each counts once in HELD_WRITES (log entry 97). -/
def countHeld (d : Dev) (g : Nat) : Dev :=
  if d.proof.full.contains g then d
  else ({ d with proof := { d.proof with full := g :: d.proof.full } } : Dev).bump 0x9020 9 64
    (max 1 (d.mem.cowHeld.filter (fun q => q.1 / 16 == g)).length)

/-- COW_COPY (R419, R421): a write to a protected granule is held, and the granule is copied to the COW buffer. -/
def cowCopy (g : Nat) (f : Fuses) (d : Dev) : Dev :=
  let p := d.proof
  let w := moverWho d (homeTile f (4096 * g))
  let slot := (4096 * cowSlot f d, 4096)
  if granuleHeld d g = false then d
  else if p.cow.length ≥ cowCapacity f d then
    if obj f d (ctxIdx p.ctx 0x9000) 6 = 0 then proofAbort f d Status.cowFull
    else countHeld d g
  else if runReady f d w (4096 * g, 4096) = false ∨ writeReady f d w slot = false then d
  else if granPoisoned f d g then proofAbort f (noteRead f d w [(4096 * g, 4096)]) Status.memUe
  else
    let data := readBytes d.mem.bytes (4096 * g) 4096
    let d := writeRun f (noteRead f d w [(4096 * g, 4096)]) w slot.1 data
    let d := { d with proof := { d.proof with guard := p.guard.filter (· ≠ g), full := p.full.filter (· ≠ g), cow := p.cow ++ [(g, slot.1 / 4096)] } }
    let used := 4096 * d.proof.cow.length
    let d := (d.bump 0x9020 8 64 1).setObj 0x9020 6 used
    if used > ctr d 0x9020 7 then d.setObj 0x9020 7 used else d

/-- COW_WRITE_ADMIT (R419): the oldest held write whose granule is no longer held is admitted, and Intaglio's writes that
waited go on. -/
def cowWriteAdmit (f : Fuses) (d : Dev) : Dev :=
  match d.mem.cowHeld.find? (fun q => !granuleHeld d (q.1 / 16)) with
  | some q =>
    let b := bankKey f q.1
    serveMemory f (({ d with mem := { d.mem with cowHeld := d.mem.cowHeld.erase q } } : Dev).setBankQ b (q :: bankQ d b))
  | none => igGo f d

/-! ## Acknowledgements (R423, R424, R430, R431) -/

/-- SEQ `a` is at or before `b`, in 32-bit serial order. -/
def seqLe (a b : Nat) : Bool := decide ((b + 2 ^ 32 - a) % 2 ^ 32 < 2 ^ 31)

/-- What the peer read of a filled buffer returns (R423): the file store's bytes of the piece. -/
def storeBytes (r : RestoreRun) (q : RPart) : List Byte :=
  match r.store.find? (fun s => s.1 == q.dev && s.2.1 == q.object) with
  | some s => slice s.2.2 q.off q.len
  | none => zeros q.len

/-- A restore fails (R429): it asks for nothing more, and what it has written holds undefined contents. -/
def RestoreRun.fail (r : RestoreRun) (d : Dev) (st : Nat) : RestoreRun :=
  if r.status ≠ 0 then r
  else { r with status := st, stage := .write, reads := [], got := [], todo := some [], zeroed := true,
                writes := r.written.map (fun w => (w.1, w.2.1, freeBytes d w.2.2)), flight := if r.cp then [] else r.flight }

/-- The READ records of a restore up to a SEQ are complete: their buffers are read (R423). -/
def RestoreRun.acked (r : RestoreRun) (seq : Nat) : RestoreRun :=
  if r.cp then r
  else
    let done := r.flight.filter (fun q => seqLe q.1 seq)
    { r with flight := r.flight.filter (fun q => !seqLe q.1 seq),
             got := if r.status = 0 then r.got ++ done.map (fun q => (q.2, storeBytes r q.2)) else [] }

/-- The buffers of a restore's completed READ records are read by the device (R423). -/
def fetchBuffers (f : Fuses) (d : Dev) (seq : Nat) : Dev :=
  (((d.proof.restores.filter (fun r => !r.cp)).map (fun r => r.flight.filter (fun q => seqLe q.1 seq))).flatten).foldl (fun d q =>
    d.emit (.peerRead (obj f d 0x9010 0 + sinkBuf f d q.1 * obj f d 0x9010 1) q.2.len)) d

/-- Every restore that waits for the file store fails (R424, R429). -/
def failReads (d : Dev) (st : Nat) : Dev :=
  spendFree { d with proof := { d.proof with restores := d.proof.restores.map (fun r => if r.cp then r else r.fail d st) } } true

/-- PROOF_ACK (R423, R424, R426, R430): the consumer writes the highest SEQ it has completed and its ERROR bit. -/
def proofAck (v : Nat) (f : Fuses) (d : Dev) : Dev :=
  let seq := v % 2 ^ 32
  let d := if bit v 32 then failReads d Status.sinkError else fetchBuffers f d seq
  let d : Dev := { d with proof := { d.proof with restores := d.proof.restores.map (fun r => r.acked seq) } }
  let p := d.proof
  let sealedDone := p.flight.any (fun r => r.manifest && seqLe r.seq seq)
  let had := !p.flight.isEmpty
  let d := { d with proof := { p with flight := p.flight.filter (fun r => !seqLe r.seq seq) } }
  if p.state = 5 then (if d.proof.flight.isEmpty then proofEnd f d p.status else d)
  else if bit v 32 then (if p.state ≥ 2 ∧ had then proofAbort f d Status.sinkError else d)
  else if sealedDone then proofEnd f d 0
  else trySeal f d

/-- SINK_TIMEOUT (R424, R431): no acknowledgement has advanced while records are outstanding. -/
def sinkTimeout (f : Fuses) (d : Dev) : Dev :=
  let d : Dev := if readsOut d = 0 then d
    else { failReads d Status.sinkTimeout with proof := { (failReads d Status.sinkTimeout).proof with
      restores := (failReads d Status.sinkTimeout).proof.restores.map (fun r => if r.cp then r else { r with flight := [] }) } }
  let p := d.proof
  if p.state = 0 ∨ p.flight.isEmpty then d
  else
    let d := { d with proof := { p with flight := [] } }
    if p.state = 5 then proofEnd f d p.status else proofEnd f d Status.sinkTimeout

/-- The sink objects were committed: SEQ starts at 1 (R423). -/
def sinkCommitted (d : Dev) : Dev := { d with proof := { d.proof with seqNext := 1 } }

/-! ## The bank held for a neighbour (R428) -/

/-- Bytes are written over some runs, by whoever moves each. -/
def moveRuns (f : Fuses) (d : Dev) (w : Nat × Nat → Who) (rs : List (Nat × Nat)) (l : List Byte) : Dev :=
  (rs.foldl (fun (p : Dev × List Byte) r => (writeRun f p.1 (w r) r.1 (p.2.take r.2), p.2.drop r.2)) (d, l)).1

/-- CP_WRITE (R428): the oldest counterproof write received is accepted from the neighbour on CP_FROM, or counted; it waits while
its lines cannot be written or a bulk mover pool that moves it is frozen. -/
def cpWrite (f : Fuses) (d : Dev) : Dev :=
  match d.inbox.find? (fun q => q.2.kind == 2 && q.2.act == 2) with
  | none => d
  | some q =>
    let k := q.2
    let d0 := d
    let d := { d with inbox := d.inbox.erase q }
    let base := cpBase f d
    let off := k.addr - base
    let valid := cpRuns f d 24 1
    let rs := cpRuns f d off k.data.length
    if neighbourAddr f d (obj f d 0x9030 1) ≠ some k.src ∨ k.addr < base ∨ off + k.data.length > cpSize f d then
      d.bump 0x9030 6 64 1
    else if (rs ++ valid).all (fun r => writeReady f d (cpWho f k r) r && poolOpen f d r) = false then d0
    else
      let d := poolRuns f (moveRuns f d (cpWho f k) rs k.data) k.stamp rs
      if off ≤ 24 ∧ 24 < off + k.data.length ∧ runBytes d valid = [1#8] then
        let h := runBytes d (cpRuns f d 0 64)
        (((d.setObj 0x9030 2 2).setObj 0x9030 3 (field h 6 2)).setObj 0x9030 4 (field h 8 4)).setObj 0x9030 5 (field h 16 8)
      else (if ctr d 0x9030 2 = 2 then moveRuns f d (cpWho f k) valid [0#8] else d).setObj 0x9030 2 1

/-! ## Restoring (R429) -/

/-- The entries of a manifest or bank header. -/
def storedEntries (l : List Byte) (n : Nat) : List (List Byte) := pieces 64 n (l.drop 64)

/-- A manifest read from the file store passes its checks (R426, R429). -/
def manifestOk (d : Dev) (src gen : Nat) (l : List Byte) : Bool :=
  let n := l.length - 48
  let md := slice l n 32
  decide (l.length ≥ 4096 ∧ l.length % 4096 = 0) && decide (field l 0 4 = 0x5F0A1C9E) && decide (field l 4 2 = 1) &&
    decide (field l 6 2 = src) && decide (field l 8 4 = gen) && decide (64 + 64 * field l 12 4 ≤ n) &&
    decide (sha256 (l.take n) = md) &&
    (if bit (field l 44 1) 0 then
      match slotKey d 2 with
      | some k => decide (gcmTag k (leBytes 4 src ++ leBytes 8 gen) md [] = l.drop (n + 32))
      | none => false
    else true)

/-- A bank header passes its checks (R428, R429). -/
def bankOk (f : Fuses) (d : Dev) (l : List Byte) : Bool :=
  decide (l.length ≥ 65536) && decide (field l 0 4 = 0x5F0A1C9F) && decide (field l 4 2 = 1) && decide (field l 24 1 = 1) &&
    decide (field l 6 2 = devAddr f d) && decide (field l 12 4 ≤ 1023) &&
    decide (field l 60 4 = crc32c (l.take 60 ++ (l.take 65536).drop 64))

/-- An object read from the file store passes HCRC and DIGEST and is the one an entry names (R425, R429). -/
def objectOk (dev gen : Nat) (e l : List Byte) : Bool :=
  let len := field e 24 8
  decide (field l 0 4 = 0x5F0A1C9D) && decide (field l 252 4 = crc32c (l.take 252)) && decide (field l 6 2 = dev) &&
    decide (field l 8 4 = gen) && decide (field l 12 4 = field e 0 4) && decide (field l 24 2 = field e 4 2) &&
    decide (field l 32 8 = field e 16 8) && decide (field l 40 8 = len) && decide (slice l 64 32 = e.drop 32) &&
    decide (sha256 (slice l 4096 len) = slice l 64 32)

/-- The entries agree with the plan in regions, kinds and lengths (R429 step 2); regions of KIND 5 and 8 may be absent. -/
def entriesMatch (plan : List (List Byte)) (es : List (List Byte)) (need : List Byte → Bool) : Bool :=
  es.all (fun e => decide (field e 4 2 < plan.length) && decide (field e 6 1 = planKind (plan.getD (field e 4 2) []))) &&
    (plan.zipIdx).all (fun q =>
      let l := es.filter (fun e => field e 4 2 == q.2)
      (l.isEmpty && (!need q.1 || planKind q.1 == 5 || planKind q.1 == 8)) ||
        decide ((l.map (fun e => field e 24 8)).sum = planLen q.1))

/-- What is asked for an object or a manifest from an offset: records of at most one buffer (R423). -/
def fileParts (f : Fuses) (d : Dev) (dev object off len : Nat) : List RPart :=
  let n := max 4096 (obj f d 0x9010 1)
  (List.range (ceilDiv len n)).map (fun i => { dev := dev, object := object, off := off + n * i, len := min n (len - n * i) })

/-- What is asked for a range of the neighbour's bank: requests of at most 14,080 bytes (R302, R428). -/
def bankParts (off len : Nat) : List RPart :=
  (List.range (ceilDiv len 14080)).map (fun i => { off := off + 14080 * i, len := min 14080 (len - 14080 * i) })

/-- The size of a manifest with some entries (R426). -/
def manifestLen (nent : Nat) : Nat := 4096 * ceilDiv (64 + 64 * nent + 48) 4096

/-- The pieces of a stage have come; their bytes in order. -/
def RestoreRun.bytes (r : RestoreRun) : List Byte := (r.got.map Prod.snd).flatten

/-- A restore turns to what follows an entry that is done: the next entry, zeros for the regions that are not restored, or nothing
more (R429 steps 3 and 4). -/
def RestoreRun.next (f : Fuses) (d : Dev) (r : RestoreRun) : RestoreRun :=
  let r := { r with got := [], man := [] }
  match r.todo with
  | some ((dev, e) :: rest) =>
    if r.cp then { r with stage := .payload, reads := bankParts (cpOffset r.plan (field e 4 2)) (field e 24 8) }
    else if field e 0 4 = 0xFFFFFFFF then
      -- a region that another device wrote: the manifest of that device names its objects
      { r with stage := .head, dev := field e 8 2, reads := fileParts f d (field e 8 2) 0xFFFFFFFF 0 4096, todo := some ((dev, e) :: rest) }
    else { r with stage := .payload, reads := fileParts f d dev (field e 0 4) 0 (4096 + 4096 * ceilDiv (field e 24 8) 4096) }
  | _ =>
    if r.zeroed then { r with stage := .write, todo := some [] }
    else
      let zs := (r.plan.zipIdx).filter (fun q => (planKind q.1 == 5 || planKind q.1 == 8) && (r.cp || !r.named.contains q.2))
      { r with stage := .write, todo := some [], zeroed := true, writes := zs.map (fun q => (q.2, 0, zeros (planLen q.1))) }

/-- The check of a manifest or bank header that is whole, and of its entries against the plan (R429 steps 1 and 2). -/
def RestoreRun.headed (f : Fuses) (d : Dev) (r : RestoreRun) : RestoreRun :=
  let l := r.man
  let es := storedEntries l (field l 12 4)
  if (if r.cp then bankOk f d l else manifestOk d r.dev r.gen l) = false then r.fail d Status.objectInvalid
  else match r.todo with
    | none =>
      if entriesMatch r.plan es (fun e => !r.cp || planRecovery e) = false then r.fail d Status.planMismatch
      else RestoreRun.next f d { r with todo := some (es.map (fun e => (r.src, e))), named := es.map (fun e => field e 4 2) }
    | some ((_, e) :: rest) =>
      -- the objects of the region in the manifest of the device that wrote it
      let os := es.filter (fun x => decide (field x 4 2 = field e 4 2) && decide (field x 0 4 ≠ 0xFFFFFFFF))
      if (os.map (fun x => field x 24 8)).sum = field e 24 8 then RestoreRun.next f d { r with todo := some (os.map (fun x => (r.dev, x)) ++ rest) }
      else r.fail d Status.planMismatch
    | some [] => r

/-- The copy of slot 2's key that the check of a tagged manifest takes (R426, R429). -/
def tagNeeded (d : Dev) (r : RestoreRun) (l : List Byte) : Bool := !r.cp && bit (field l 44 1) 0 && (slotKey d 2).isSome

/-- A manifest or bank header is whole: it is checked, once the management cipher unit can copy the key its TAG needs. -/
def headWhole (f : Fuses) (d : Dev) (r : RestoreRun) (l : List Byte) : Dev × RestoreRun :=
  let r := { r with man := l, got := [], reads := [], stage := .rest }
  if tagNeeded d r l then
    if mgmtFree d then
      let (e, bad) := mgmtStart d 2
      (e, if bad then r.fail e Status.mismatch else r.headed f e)
    else (d, r)
  else (d, r.headed f d)

/-- What a restore has asked for at a stage has come (R429). -/
def restoreStep (f : Fuses) (d : Dev) (r : RestoreRun) : Dev × RestoreRun :=
  match r.stage with
  | .head =>
    let l := r.bytes
    if r.cp then headWhole f d r l
    else if field l 0 4 ≠ 0x5F0A1C9E ∨ manifestLen (field l 12 4) > 2 ^ 24 then (d, r.fail d Status.objectInvalid)
    else if manifestLen (field l 12 4) = 4096 then headWhole f d r l
    else (d, { r with stage := .rest, man := l, got := [], reads := fileParts f d r.dev 0xFFFFFFFF 4096 (manifestLen (field l 12 4) - 4096) })
  | .rest => headWhole f d r (r.man ++ r.bytes)
  | .payload =>
    match r.todo with
    | some ((dev, e) :: rest) =>
      let l := r.bytes
      let len := field e 24 8
      if (if r.cp then decide (sha256 (l.take len) = e.drop 32) else objectOk dev r.gen e l) then
        (d, { r with stage := .write, got := [], todo := some rest,
                     writes := [(field e 4 2, field e 16 8, if r.cp then l.take len else slice l 4096 len)] })
      else (d, r.fail d Status.digestFail)
    | _ => (d, r.next f d)
  | .write => (d, r.next f d)

/-- Where bytes of a region that a restore writes go: the runs of the context's memory up to the end of a granule. -/
def restoreRuns (d : Dev) (r : RestoreRun) (w : Nat × Nat × List Byte) : Option (List (Nat × Nat)) :=
  let e := r.plan.getD w.1 []
  ctxRuns d r.ctx false (planAddr e + w.2.1) (min w.2.2.length (4096 - (planAddr e + w.2.1) % 4096))

/-- The next bytes of a restore's payload are written, to a Plate, or to the context's memory a granule at a time as its lines can
be written (R429); none where they must wait. -/
def restoreWrite (f : Fuses) (d : Dev) (r : RestoreRun) : Option (Dev × RestoreRun) :=
  match r.writes with
  | [] => none
  | w :: rest =>
    let e := r.plan.getD w.1 []
    let done := fun (n : Nat) => { r with writes := if n ≥ w.2.2.length then rest else (w.1, w.2.1 + n, w.2.2.drop n) :: rest,
                                          written := r.written ++ [(w.1, w.2.1, n)] }
    if w.2.2 = [] then some (d, done 0)
    else if planPlate e then
      some (d.modCore (planCore e) (fun k => k.patch ⟨planAddr e % 2 ^ 24 + w.2.1, w.2.2⟩), done w.2.2.length)
    else match restoreRuns d r w with
      | none => some (d, if r.status = 0 then r.fail d Status.window else { r with writes := rest })
      | some rs =>
        let who := fun (x : Nat × Nat) => moverWho d (runTile f x)
        if rs.all (fun x => writeReady f d (who x) x && poolOpen f d x) then
          some (poolRunsOwn (moveRuns f d who rs w.2.2) rs, done (runLen rs))
        else none
where
  poolRunsOwn (d : Dev) (rs : List (Nat × Nat)) : Dev := rs.foldl (fun d x => spendFree (poolTurn d (runTile f x)) true) d

/-- A restore asks for its next piece: a READ record where a buffer is free, or a request to the neighbour on CP_TO, one at a time
(R423, R429; log entry 100); none where it must wait. -/
def restoreAsk (f : Fuses) (d : Dev) (r : RestoreRun) : Option (Dev × RestoreRun) :=
  match r.reads with
  | [] => none
  | q :: rest =>
    if r.cp then
      if r.flight.isEmpty = false then none
      else match neighbourAddr f d (obj f d 0x9030 0) with
        | none => some (d, r.fail d Status.cpAbsent)
        | some a =>
          let (e, ok) := routeSend f d { dest := a, src := devAddr f d, kind := 3, act := 2, addr := cpBase f d + q.off, data := leBytes 4 q.len, vc := 2, stamp := d.stampNow }
          some (e, if ok then { r with reads := rest, flight := [(0, q)] } else r.fail e Status.cpAbsent)
    else if sinkFree f d then
      let s := d.proof.seqNext
      some (sinkSend f d 2 (if q.object = 0xFFFFFFFF then 2 else 0) q.dev r.gen q.object q.off [] q.len, { r with reads := rest, flight := r.flight ++ [(s, q)] })
    else none

/-- One thing a restore does by itself; none where it waits or is over. -/
def restoreTurn (f : Fuses) (d : Dev) (r : RestoreRun) : Option (Dev × RestoreRun) :=
  match restoreWrite f d r with
  | some p => some p
  | none =>
    if r.writes.isEmpty = false then none
    else match restoreAsk f d r with
      | some p => some p
      | none =>
        if r.reads.isEmpty && r.flight.isEmpty && decide (r.status = 0) && !(r.zeroed && decide (r.stage = .write)) &&
            !(decide (r.stage = .rest) && tagNeeded d r (r.man ++ r.bytes) && !mgmtFree d) then
          some (restoreStep f d r)
        else none

/-- A restore is over: everything is written and no buffer of it is in use. -/
def RestoreRun.over (r : RestoreRun) : Bool :=
  r.writes.isEmpty && r.reads.isEmpty && r.flight.isEmpty && r.zeroed && decide (r.stage = .write)

/-- Put a restore back in its place. -/
def setRestore (d : Dev) (r : RestoreRun) : Dev :=
  { d with proof := { d.proof with restores := d.proof.restores.map (fun x => if x.handle = r.handle then r else x) } }

/-- A restore goes on by itself, as far as the fuel takes it. -/
def restoreRun (f : Fuses) (h : Nat) : Nat → Dev → Dev
  | 0, d => d
  | n + 1, d =>
    match d.proof.restores.find? (fun r => r.handle == h) with
    | none => d
    | some r =>
      if r.over then
        let d : Dev := { d with proof := { d.proof with restores := d.proof.restores.filter (fun x => x.handle != h) } }
        completeHandle f (d.setObj 0x9020 0x0A r.status) h r.status 0
      else match restoreTurn f d r with
        | none => d
        | some (e, r') => restoreRun f h n (setRestore (if r.status ≠ r'.status then spendFree e true else e) r')

/-- The steps a restore can take by itself after a command: enough for what it holds. -/
def restoreFuel (r : RestoreRun) : Nat :=
  8 + 4 * ((r.todo.getD []).length + r.reads.length + r.plan.length + r.writes.length) + ((r.writes.map (fun w => ceilDiv w.2.2.length 4096)).sum)

/-- Restores go on (R429). -/
def restoresGo (f : Fuses) (d : Dev) : Dev :=
  d.proof.restores.foldl (fun d r => restoreRun f r.handle (restoreFuel r) d) d

/-- The answer to a read of the neighbour's bank (R428, R429); an empty one met a poisoned line (log entry 158). -/
def bankAnswer (f : Fuses) (d : Dev) (k : Packet) : Dev :=
  if neighbourAddr f d (obj f d 0x9030 0) ≠ some k.src then d
  else spendFree { d with proof := { d.proof with restores := d.proof.restores.map (fun r =>
      match r.flight with
      | (_, q) :: _ =>
        if r.cp = false ∨ r.status ≠ 0 ∨ k.addr ≠ cpBase f d + q.off then r
        else if k.data.length = q.len then { r with flight := [], got := r.got ++ [(q, k.data)] }
        else { r with flight := [] }.fail d Status.memUe
      | [] => r) } } true

/-- RESTORE has its plan (R429): the argument holds SOURCE at [0], SRC_DEV at [47:32] and GEN at [95:64]. -/
def restoreBegin (f : Fuses) (d : Dev) (c : ProofCmd) : Dev :=
  let fin := fun (st : Nat) (d : Dev) => completeHandle f (d.setObj 0x9020 0x0A st) c.handle st 0
  match planRuns f d c.ctx with
  | none => fin Status.planMismatch d
  | some rs =>
    if (poisonedIn f d rs).isEmpty = false then fin Status.memUe (notePlan f d c.ctx)
    else
      let cp := bit c.arg 0
      let src := if cp then devAddr f d else bits c.arg 47 32
      let r : RestoreRun :=
        { handle := c.handle, ctx := c.ctx, cp := cp, src := src, gen := bits c.arg 95 64, plan := readPlan f d c.ctx rs,
          store := c.store, dev := src,
          reads := if cp then bankParts 0 65536 else fileParts f d src 0xFFFFFFFF 0 4096 }
      let d := notePlan f d c.ctx
      { d with proof := { d.proof with restores := d.proof.restores ++ [r] } }

/-- Commands that wait for their plan take it, in order, as its lines can be read (R413); one that is refused before that does not
wait. -/
def planGo (f : Fuses) : Nat → Dev → Dev
  | 0, d => d
  | n + 1, d =>
    match d.proof.waits with
    | [] => d
    | c :: rest =>
      let e : Dev := { d with proof := { d.proof with waits := rest } }
      if c.restore then (if planReady f d c.ctx then planGo f n (restoreBegin f e c) else d)
      else if proofCheckArg f d c.arg ≠ 0 ∨ planReady f d c.ctx then planGo f n (proofStart f e c.handle c.ctx c.arg)
      else d

/-- Answers to reads of the neighbour's bank that have come are taken, in order. -/
def bankAnswers (f : Fuses) (d : Dev) : Dev :=
  (d.inbox.filter (fun q => q.2.kind == 4 && q.2.act == 2)).foldl (fun d q => bankAnswer f { d with inbox := d.inbox.erase q } q.2) d

/-- What the proof engines do by themselves: plans are read, restores go on, and a manifest is sealed. -/
def proofGo (f : Fuses) (d : Dev) : Dev := sealGo f (restoresGo f (planGo f d.proof.waits.length (bankAnswers f d)))

/-- PROOF_START (R430). -/
def proofStartCmd (f : Fuses) (d : Dev) (h g a : Nat) : Dev :=
  proofGo f { d with proof := { d.proof with waits := d.proof.waits ++ [{ handle := h, ctx := g, arg := a }] } }

/-- RESTORE (R429): refused while a core granted to the context runs.  `store` is what the file store answers. -/
def restore (f : Fuses) (d : Dev) (h g a : Nat) (store : List (Nat × Nat × List Byte)) : Dev :=
  if (List.range f.cores).any (fun c => (obj f d (0x7000 + g) 9).testBit c && (d.core c).busy) then completeHandle f d h Status.coreBusy 0
  else proofGo f { d with proof := { d.proof with waits := d.proof.waits ++ [{ handle := h, ctx := g, arg := a, restore := true, store := store }] } }

end Sys2Proof.Machine
end

