-- ==== Sys2Proof/Machine/Claim.lean ====
section
/-! DEFINITION. The SYNC strokes and the claim counters: waits, sets, messages, claims with their service, exhaustion
and rearm, fences, and the stroke that waits for the registration barrier (R156, R157, R194 to R201, R446). -/

namespace Sys2Proof.Machine

/-- A SYNC stroke of an operation (R156). -/
def isSync (op w : Nat) : Bool := skClass w == 4 && skOp w == op

/-- The row WAIT (R156): its common waits are all it does. -/
def waitRow (c : Nat) (t : Thr) (f : Fuses) (d : Dev) : Dev :=
  strokeRow f d c t (isSync 0) (fun _ => true) (fun _ d => d)

/-- The row SET (R116, R156): an owned counter takes VALUE as the consumption of its cycle. -/
def setRow (c : Nat) (t : Thr) (f : Fuses) (d : Dev) : Dev :=
  strokeRow f d c t (isSync 1) (fun _ => true)
    (fun w d => d.modCore c (fun k => k.setCounter { credit := bit w 87, idx := bits w 86 80 } (bits w 79 64)))

/-- The row SEND (R119, R120, R156, R306): a message of the thread's activity, from the thread. -/
def sendRow (c : Nat) (t : Thr) (f : Fuses) (d : Dev) : Dev :=
  let x := ((d.core c).th t).pc
  strokeRow f d c t (isSync 2) (fun _ => true) (fun w d =>
    (sendToken f d (tokenMsg (bits w 79 64) { credit := bit w 87, idx := bits w 86 80 } (bits w 94 88)
      (if bit w 95 then devAddr f d else bits w 111 96) (srcOf t) (devAddr f d) (f.tileOf c) c (unitThread t) x)).1)

/-! ## Claims (R157, R194 to R201) -/

/-- The row CLAIM (R157, R168, R195): the claim leaves for the tile of its counter and holds the thread. -/
def claimRow (c : Nat) (t : Thr) (f : Fuses) (d : Dev) : Dev :=
  strokeGo f d c t (isSync 3) (fun _ => true) (fun w =>
    let p := claimPhys f d ((ctxOf d c).getD 4096) (bits w 79 64)
    let d := countIssue (d.modCore c (fun k =>
      let k := consume k w
      k.setTh t { k.th t with state := .wait, claiming := true, claimRet := none })) c t
    { d with claimQ := d.claimQ.put (p % 16) (SMap.get [] d.claimQ (p % 16) ++
        [{ core := c, th := t, ctr := p, add := bits w 95 80, limit := bits w 121 98 }]) })

/-- The committed contents of a stage group (R191). -/
def stageGroup (d : Dev) (g : Nat) : StageGroup :=
  let b := ctr d 0x3180 g
  { members := bits b 127 0, stage := bits b 143 128, context := bits b 155 144, valid := bit b 160 }

/-- The members that share a counter, where its group is valid (R199). -/
def claimMembers (d : Dev) (k : ClaimCtr) : Option Nat :=
  match k.group with
  | none => none
  | some g => if (stageGroup d g).valid then some (stageGroup d g).members else none

/-- The return of a served claim goes to its core (R157, R201). -/
def claimGive (d : Dev) (r : ClaimReq) (v : Nat) : Dev :=
  if r.lost then d
  else d.modCore r.core (fun k => k.setTh r.th { k.th r.th with claimRet := some v })

/-- Fetch-add of one claim (R197), the arm of a proof it triggers (R417), and its value on the way back. -/
def claimFetch (f : Fuses) (d : Dev) (r : ClaimReq) (k : ClaimCtr) : Dev :=
  let v := satAdd (2 ^ 64 - 1) k.value r.add
  let d := claimGive { d with claims := d.claims.put r.ctr k } r k.value
  let d := { d with claims := d.claims.put r.ctr { k with value := v } }
  let p := d.proof
  if p.state = 1 ∧ p.trigger = some r.ctr ∧ v ≥ p.thresh then proofArm f d else d

/-- Claims are served in order (R197 to R199).  A claim of a member already marked is held; the claim that completes the
mask rearms the counter, and the claims held at it come next, in the order they arrived.  A claim whose core was reset before
the store served it, and whose member is marked already, is held like another and served at the rearm, its return lost (DESIGN
CHOICE, log entry 148).  The fuel bounds the claims served. -/
def claimServeAll (f : Fuses) : Nat → Dev → List ClaimReq → Dev
  | 0, d, _ => d
  | _, d, [] => d
  | n + 1, d, r :: rest =>
    let k := SMap.get {} d.claims r.ctr
    match claimMembers d k with
    | none => claimServeAll f n (claimFetch f d r k) rest
    | some m =>
      if m.testBit r.core = false then claimServeAll f n (claimFetch f d r k) rest
      else if k.exhausted.testBit r.core then
        claimServeAll f n { d with claims := d.claims.put r.ctr { k with held := k.held ++ [r] } } rest
      else
        let ex := if k.value ≥ r.limit then k.exhausted ||| 2 ^ r.core else k.exhausted
        let d := claimFetch f d r { k with exhausted := ex }
        if k.value ≥ r.limit ∧ ex &&& m = m then
          let k := SMap.get {} d.claims r.ctr
          claimServeAll f n { d with claims := d.claims.put r.ctr { k with value := k.init, exhausted := 0, held := [] } }
            (k.held ++ rest)
        else claimServeAll f n d rest

/-- CLAIM_SERVE (R197 to R200): the claim store of a tile serves the claim that arrived first. -/
def claimServe (tile : Nat) (f : Fuses) (d : Dev) : Dev :=
  match SMap.get [] d.claimQ tile with
  | [] => d
  | r :: rest =>
    let n := (SMap.get {} d.claims r.ctr).held.length + 2
    claimServeAll f (n * n) { d with claimQ := d.claimQ.put tile rest } [r]

/-- CLAIM_RETURN (R157): v reaches the thread, below LIMIT as LC[LEVEL] and otherwise as CLAIM_OUT, and control passes to
the next stroke.  A thread that has faulted meanwhile completes its CLAIM and stays in FAULT (R131). -/
def claimReturn (c : Nat) (t : Thr) (f : Fuses) (d : Dev) : Dev :=
  let k := d.core c
  let th := k.th t
  let w := k.word th.pc
  match th.claimRet with
  | none => d
  | some v =>
    if th.claiming = false then d
    else
      let got := decide (v < bits w 121 98)
      let lc := if got then th.lc.set (bits w 97 96) v else th.lc
      let flags := { th.flags with claimOut := !got }
      let th := { th with lc := lc, flags := flags, claiming := false, claimRet := none, state := if th.state = .wait then .run else th.state }
      boundary f (d.setCore c (k.setTh t (advanceThread th th.pc (th.pc + 1)))) c t

/-- The claims of a core that is reset (R201): a held one is discarded, and of one not yet served the return is lost. -/
def claimsOfReset (d : Dev) (c : Nat) : Dev :=
  let q := d.claimQ.map (fun p => (p.1, p.2.map (fun r => if r.core = c then { r with lost := true } else r)))
  let cs := d.claims.map (fun p => (p.1, { p.2 with held := p.2.held.filter (fun r => r.core ≠ c) }))
  { d with claimQ := q, claims := cs }

/-- The claim store of a tile is reset (R201): its counters are cleared and the claims in flight are lost.  A value already on
its way back to a core of another tile still arrives (DESIGN CHOICE, log entry 149). -/
def claimsOfTile (d : Dev) (tile : Nat) : Dev :=
  { d with claimQ := d.claimQ.put tile [], claims := d.claims.filter (fun p => p.1 % 16 ≠ tile) }

/-- A core granted to a context has a thread in RUN, WAIT or STOPPED. -/
def ctxBusy (f : Fuses) (d : Dev) (g : Nat) : Bool :=
  (List.range f.cores).any (fun c => (obj f d (0x7000 + g) 9).testBit c && (d.core c).busy)

/-- The reserved bits of a CLAIM_SET argument (R196). -/
def claimSetArgOk (a : Nat) : Bool := decide (bits a 31 29 = 0) && decide (bits a 63 40 = 0)

/-- CLAIM_SET (R196).  A claim still held at a counter it sets, possible for a thread that faulted while it was held, is
dropped (DESIGN CHOICE, log entry 147). -/
def claimSet (f : Fuses) (d : Dev) (h g a : Nat) : Dev :=
  let (first, count) := (bits a 15 0, bits a 28 16)
  let x := stageGroup d (bits a 38 32)
  if count = 0 ∨ count > 4096 ∨ first + count > obj f d (0x7000 + g) 0x0C then completeHandle f d h Status.claimGrant 0
  else if bit a 39 ∧ (x.valid = false ∨ x.context ≠ g) then completeHandle f d h Status.groupInvalid 0
  else if ctxBusy f d g then completeHandle f d h Status.coreBusy 0
  else
    let k : ClaimCtr := { value := bits a 127 64, init := bits a 127 64, group := if bit a 39 then some (bits a 38 32) else none }
    completeHandle f { d with claims := (List.range count).foldl (fun m i => m.put (claimPhys f d g (first + i)) k) d.claims } h 0 0

/-! ## FENCE and BARRIER (R156, R446) -/

/-- A stroke that the thread issued has not completed and sent its signals. -/
def outstanding (d : Dev) (c : Nat) (t : Thr) : Bool :=
  let k := d.core c
  let code := d.codecs.any (fun p => p.2.queue.any (fun o => o.core == c) ||
    (match p.2.run with | some r => r.op.core == c | none => false))
  let vec := k.vec.queue.any (fun o => o.th == t) || k.vec.tail.any (fun r => r.op.th == t) ||
    (match k.vec.cur with | some r => r.op.th == t | none => false)
  let own := match t with
    | .F => k.mma.feed.isSome || !k.mma.waiting.isEmpty || k.mma.draining.isSome || k.upd.isSome || code
    | .B => k.coll.isSome
  vec || own || !(k.mov t).isEmpty

/-- REG_COUNT is above a thread's mark (R446). -/
def barrierPassed (d : Dev) (x : Thread) : Bool := decide (ctr d 0xC000 3 ≠ x.mark)

/-- The row FENCE (R156). -/
def fenceRow (c : Nat) (t : Thr) (f : Fuses) (d : Dev) : Dev :=
  strokeRow f d c t (isSync 4) (fun _ => !outstanding d c t) (fun _ d => d)

/-- The row SYNC_BARRIER (R446): it issues once REG_COUNT is above the thread's mark, and the mark becomes REG_COUNT. -/
def syncBarrierRow (c : Nat) (t : Thr) (f : Fuses) (d : Dev) : Dev :=
  strokeRow f d c t (isSync 5) (fun _ => barrierPassed d ((d.core c).th t))
    (fun _ d => d.modCore c (fun k => k.setTh t { k.th t with mark := ctr d 0xC000 3 }))

end Sys2Proof.Machine
end

