-- ==== Sys2Proof/Machine/Barrier.lean ====
section
/-! DEFINITION. The registration barrier: its tree, the gather of readiness, the timed wave and the release (R443 to
R447). -/

namespace Sys2Proof.Machine

/-! ## The tree (R443) -/

/-- The direction in which a route enters an axis and crosses it from coordinate `a` to `b` (R304); none where both ways
cross a down link. -/
def ringWay (f : Fuses) (d : Dev) (axis a b : Nat) : Option Bool :=
  let n := max 1 (axisSize f d axis)
  let up := (b + n - a) % n
  let pos := decide (up ≤ n - up)
  let bad := fun (p : Bool) => (crossed n a (if p then up else n - up) p).any (linkDown d axis)
  if bad pos then (if bad (!pos) then none else some (!pos)) else some pos

/-- Hops from one coordinate to another in a direction. -/
def ringHops (f : Fuses) (d : Dev) (axis a b : Nat) (pos : Bool) : Nat :=
  let n := max 1 (axisSize f d axis)
  if pos then (b + n - a) % n else (a + n - b) % n

/-- The axis of the last hop of a route from ROOT_DEV to a device: the last axis on which the two differ (R304). -/
def lastAxis (f : Fuses) (d : Dev) (root dev : Nat) : Option Nat :=
  [2, 1, 0].find? (fun a => coordOf f d root a != coordOf f d dev a)

/-- The port toward the parent (R443); none at the root and where no route exists. -/
def parentPort (f : Fuses) (d : Dev) (root : Nat) : Option Nat :=
  match lastAxis f d root (devAddr f d) with
  | none => none
  | some a => (ringWay f d a (coordOf f d root a) (coordOf f d (devAddr f d) a)).map (fun pos => portOf a (!pos))

/-- The neighbour on a port is a child: the route from ROOT_DEV to it ends with the hop from here (R443). -/
def isChild (f : Fuses) (d : Dev) (root p : Nat) : Bool :=
  let a := portAxis p
  let n := axisSize f d a
  let me := devAddr f d
  let c := coordOf f d me a
  let x := withCoord f d me a (if portPos p then (c + 1) % max 1 n else (c + n - 1) % max 1 n)
  decide (n ≥ 2) && (lastAxis f d root x == some a) && (ringWay f d a (coordOf f d root a) (coordOf f d x a) == some (portPos p)) &&
    -- on a ring of two both ports lead to the same neighbour, which hangs on one of them
    decide (ringHops f d a (coordOf f d root a) (coordOf f d x a) (portPos p) =
      ringHops f d a (coordOf f d root a) c (portPos p) + 1)

/-- The ports toward the children. -/
def childPorts (f : Fuses) (d : Dev) (root : Nat) : List Nat := (List.range 6).filter (isChild f d root)

/-- The depth h of this device (R443). -/
def treeDepth (f : Fuses) (d : Dev) (root : Nat) : Nat :=
  ([0, 1, 2].map (fun a =>
    let (x, y) := (coordOf f d root a, coordOf f d (devAddr f d) a)
    ringHops f d a x y ((ringWay f d a x y).getD true))).sum

/-! ## Gathering readiness (R444) -/

/-- REG_STATE (R451). -/
def regState (d : Dev) : Nat := ctr d 0xC000 2

/-- TIME in sixteenths of a cycle (R442). -/
def time16 (d : Dev) : Nat := 16 * d.time + d.frac

/-- A REG_READY to the parent (R443). -/
def sendReady (f : Fuses) (d : Dev) (fail : Bool) : Dev :=
  match parentPort f d d.reg.root with
  | none => d
  | some p => sendCtrl d p 8 (leBytes 4 d.reg.id ++ leBytes 2 d.reg.root ++ leBytes 1 (if fail then 1 else 0))

/-- REG_WAVE to every child (R443, R445): the departure stamp is TIME as the flit leaves. -/
def sendWave (f : Fuses) (d : Dev) (id root release : Nat) : Dev :=
  (childPorts f d root).foldl (fun d p =>
    sendCtrl d p 9 (leBytes 4 id ++ leBytes 2 root ++ leBytes 8 (time16 d) ++ leBytes 8 release ++ leBytes 1 (ctr d 0xC000 6))) d

/-- The barrier ends at this device (R444 to R446): its handle completes, and a slew that waited begins (R525). -/
def regEnd (f : Fuses) (d : Dev) (st : Nat) : Dev :=
  let h := d.reg.handle
  let d := ({ d with reg := { d.reg with handle := none, ready := [] } } : Dev).setObj 0xC000 2 (if st = 0 then 0 else 4)
  slewCheck f (completeOpt f d h st 0) false

/-- The barrier fails at this device (R444): the failure goes to the parent, or at the root to every device as a wave with
RELEASE 0. -/
def regFail (f : Fuses) (d : Dev) (st : Nat) : Dev :=
  if regState d ≠ 1 ∧ regState d ≠ 2 ∧ regState d ≠ 3 then d
  else
    let d := if d.reg.root = devAddr f d then sendWave f d d.reg.id d.reg.root 0 else sendReady f d true
    regEnd f d st

/-- The status of a failure elsewhere in the tree: no field of REG_READY or REG_WAVE carries it, and it is free among the
statuses a device can fail with while readiness is gathered (R444, R525). -/
def remoteStatus (d : Dev) : Nat :=
  [Status.regMismatch, Status.regTimeout, Status.regSlew].getD ((Config.freeWord d.freeCtr).toNat % 3) Status.regTimeout

/-- ROOT is slewing, or a port measures its hop delay again (R525). -/
def regHeld (d : Dev) : Bool := decide (ctr d 0x2000 3 ≠ 0) || d.ports.any (fun p => p.2.measuring)

/-- Readiness passes up once this device is armed and every child is ready; at the root the wave departs (R444, R445). -/
def regAdvance (f : Fuses) (d : Dev) : Dev :=
  let r := d.reg
  let cs := childPorts f d r.root
  if regState d ≠ 1 then d
  else if r.ready.any (fun p => decide (p.2.id ≠ r.id ∨ p.2.root ≠ r.root)) then regFail f d Status.regMismatch
  else if r.ready.any (fun p => p.2.fail) then
    if r.root = devAddr f d then regFail f (spendFree d true) (remoteStatus d)
    else sendReady f { d with reg := { r with ready := r.ready.filter (fun p => !p.2.fail) } } true
  else if regHeld d ∨ (cs.all (fun p => (SMap.find? r.ready p).isSome)) = false then d
  else if r.root = devAddr f d then
    let rel := d.time + (if d.frac = 0 then 0 else 1) + obj f d 0xC000 7
    sendWave f (({ d with reg := { r with release := rel } } : Dev).setObj 0xC000 2 3) r.id r.root rel
  else match parentPort f d r.root with
    | none => d
    | some _ => (sendReady f d false).setObj 0xC000 2 2

/-- REG_ARM (R444, R447). -/
def regArm (f : Fuses) (d : Dev) (h a : Nat) : Dev :=
  if 1 ≤ regState d ∧ regState d ≤ 3 then completeHandle f d h Status.regBusy 0
  else
    let (id, root) := (bits a 31 0, bits a 47 32)
    let d := { d with reg := { d.reg with handle := some h, id := id, root := root, release := 0 } }
    let d := ((d.setObj 0xC000 2 1).setObj 0xC000 5 id).setObj 0xC000 6 (treeDepth f d root % 256)
    regAdvance f d

/-- REG_READY (R443, R444): a child's readiness or failure is taken.  A device that has passed readiness passes a failure
up; one that is not armed keeps what it received. -/
def regReady (p : Nat) (raw : List Byte) (f : Fuses) (d : Dev) : Dev :=
  ctrlFlit p 8 raw d (fun d a =>
    let m : RegMsg := { id := field a 0 4, root := field a 4 2, fail := field a 6 1 == 1 }
    let d := { d with reg := { d.reg with ready := d.reg.ready.put p m } }
    let after := decide (regState d = 2 ∨ regState d = 3)
    if after ∧ (m.id ≠ d.reg.id ∨ m.root ≠ d.reg.root) then regFail f d Status.regMismatch
    else if after ∧ m.fail then
      if d.reg.root = devAddr f d then regFail f (spendFree d true) (remoteStatus d)
      else sendReady f { d with reg := { d.reg with ready := d.reg.ready.del p } } true
    else regAdvance f d)

/-! ## The wave and the release (R445, R446) -/

/-- REG_WAVE (R445): TIME is set to the root's as the flit arrived, and the wave goes on with the same RELEASE, also at a device
that has failed or is not armed, which does not release (log entry 102); RELEASE 0 ends the barrier. -/
def regWave (p : Nat) (raw : List Byte) (f : Fuses) (d : Dev) : Dev :=
  ctrlFlit p 9 raw d (fun d a =>
    let (id, root, dep, rel) := (field a 0 4, field a 4 2, field a 6 8, field a 14 8)
    let hops := (field a 22 1 + 1) % 256
    let part := decide (regState d = 1 ∨ regState d = 2)
    if rel = 0 then
      let d := sendWave f d id root 0
      if part ∨ regState d = 3 then regEnd f (spendFree d true) (remoteStatus d) else d
    else
      let at_ := dep + ctr d (pIdx p) 3
      let d := { d with time := at_ / 16, frac := at_ % 16 }
      let d := sendWave f (d.setObj 0xC000 6 hops) id root rel
      if part = false then d
      else if at_ + 16 * 1200 > 16 * rel then regEnd f d Status.regLate
      else ({ d with reg := { d.reg with release := rel } } : Dev).setObj 0xC000 2 3)

/-- REG_RELEASED (R446): TIME equals RELEASE; the strokes that wait for the release issue. -/
def regReleased (f : Fuses) (d : Dev) : Dev :=
  if regState d ≠ 3 ∨ d.now ≠ d.reg.release then d
  else
    let d := d.setObj 0xC000 3 ((ctr d 0xC000 3 + 1) % 2 ^ 32)
    let d := d.setObj 0xC000 4 d.reg.release
    let d := spendFree ((openCtxs d).foldl (fun d c => ctxEvent f d c Status.regReleased (freeArg d)) d) true
    let d := regEnd f d 0
    (List.range f.cores).foldl (fun d c => syncBarrierRow c .B f (syncBarrierRow c .F f d)) d

/-- REG_TIMEOUT (R444, R447): REG_TIMEOUT_MS has passed and readiness, or the wave, has not come. -/
def regTimeout (f : Fuses) (d : Dev) : Dev :=
  if regState d = 1 ∨ regState d = 2 then regFail f d Status.regTimeout else d

/-- The row FLIT_ECHO as a whole: a measurement that ends may let readiness pass (R314, R525). -/
def flitEchoRow (p : Nat) (raw : List Byte) (t4 : Nat) (f : Fuses) (d : Dev) : Dev := regAdvance f (flitEcho p raw t4 f d)

end Sys2Proof.Machine
end

