-- ==== Sys2Proof/Machine/Upd.lean ====
section
/-! DEFINITION. The update datapath: UPD strokes, their constants, the two update formulas, the tag rows and the
completion (R149 to R151, R265, R272 to R281, R285, R287). -/

namespace Sys2Proof.Machine

/-! ## Arithmetic in F32 with the events it counts (R274) -/

/-- A value with the events counted so far. -/
structure Cnt where
  x : Num
  ev : Ev := {}
  deriving DecidableEq, Repr

/-- F32(x): one rounding under RNE, saturating where `sat` (R274). -/
def roundF32 (sat : Bool) (ev : Ev) (v : Val) : Cnt :=
  let (b, e) := writePlain .f32 { rnd := 0, sat := sat } 0 v
  ⟨decodeFloat .f32 b, ev.add e⟩

/-- A sum of products of values, rounded once. -/
def fmaF32 (ev : Ev) (a b c d : Num) : Cnt := roundF32 true ev (freshOf ((a.mul b).add (c.mul d)) [a, b, c, d])

def mulF32 (ev : Ev) (a b : Num) : Cnt := roundF32 true ev (freshOf (a.mul b) [a, b])

/-- The exact square root with a bit that marks an inexact one. -/
def sqrtNum (x : Num) : Val :=
  match x with
  | .nan => .of .nan
  | .inf n => if n then ⟨.nan, true⟩ else .of (.inf false)
  | .fin n m e =>
    if m = 0 then .of x
    else if n then ⟨.nan, true⟩
    else
      let m' := if e % 2 = 0 then m else 2 * m
      let h := if e % 2 = 0 then e / 2 else (e - 1) / 2
      let k := 64
      let r := isqrt (Nat.log2 m' / 2 + k + 2) (m' * 2 ^ (2 * k)) 0
      .of (.fin false (2 * r + (if r * r = m' * 2 ^ (2 * k) then 0 else 1)) (h - k - 1))

/-- The exact quotient with a bit that marks an inexact one. -/
def divNum (a b : Num) : Val :=
  match a, b with
  | .nan, _ => .of .nan
  | _, .nan => .of .nan
  | .inf _, .inf _ => ⟨.nan, true⟩
  | .inf n, .fin n' _ _ => .of (.inf (n != n'))
  | .fin n _ _, .inf n' => .of (.fin (n != n') 0 0)
  | .fin n m e, .fin n' m' e' =>
    if m' = 0 then (if m = 0 then ⟨.nan, true⟩ else .of (.inf (n != n')))
    else if m = 0 then .of (.fin (n != n') 0 0)
    else
      let k := 66 + Nat.log2 m'
      .of (.fin (n != n') (2 * (m * 2 ^ k / m') + (if m * 2 ^ k % m' = 0 then 0 else 1)) (e - e' - k - 1))

/-! ## Constants (R275) -/

/-- The constants of one UPD stroke. -/
structure UpdConst where
  b1 : Num
  b2 : Num
  ob1 : Num
  ob2 : Num
  k1 : Num
  k2 : Num
  eps : Num
  eta : Num
  etaw : Num
  deriving DecidableEq, Repr

def one : Num := .fin false 1 0

/-- pow(β, t) from bit `i − 1` down (R275). -/
def powF32 (b : Num) (t : Nat) : Nat → Cnt → Cnt
  | 0, r => r
  | i + 1, r =>
    let r := mulF32 r.ev r.x r.x
    let r := if t.testBit i then mulF32 r.ev r.x b else r
    powF32 b t i r

/-- The constants derived at the start of a stroke (R275), and the events of their roundings. -/
def updConsts (op1 : Bool) (lr wd eps b1 b2 lrscale : Num) (s : Nat) : UpdConst × Ev :=
  let eta := mulF32 {} lr lrscale
  let etaw := mulF32 eta.ev eta.x wd
  if op1 then
    ({ b1 := b1, b2 := b2, ob1 := one, ob2 := one, k1 := one, k2 := one, eps := eps, eta := eta.x, etaw := etaw.x }, etaw.ev)
  else
    let sub := fun (ev : Ev) (x : Num) => roundF32 true ev (freshOf (one.add x.neg) [x])
    let o1 := sub etaw.ev b1
    let o2 := sub o1.ev b2
    let p1 := powF32 b1 (s % 2 ^ 48 + 1) 49 ⟨one, o2.ev⟩
    let c1 := sub p1.ev p1.x
    let p2 := powF32 b2 (s % 2 ^ 48 + 1) 49 ⟨one, c1.ev⟩
    let c2 := sub p2.ev p2.x
    let k1 := roundF32 false c2.ev (transNum 0x12 c1.x)
    let k2 := roundF32 false k1.ev (transNum 0x13 c2.x)
    ({ b1 := b1, b2 := b2, ob1 := o1.x, ob2 := o2.x, k1 := k1.x, k2 := k2.x, eps := eps, eta := eta.x, etaw := etaw.x }, k2.ev)

/-! ## One stripe (R276 to R280) -/

/-- A UPD stroke with its entries read and its addresses evaluated (R149 to R151). -/
structure UpdOp where
  stroke : Nat
  op1 : Bool
  reduced : Bool
  n : Nat
  planes : List Nat
  clip : Option Nat
  lr : Num
  wd : Num
  eps : Num
  b1 : Num
  b2 : Num
  stream : Nat
  step : Nat
  pbase : Nat
  sig : Option CtrRef
  deriving DecidableEq, Repr

/-- The F thread's next stroke as a UPD stroke (R149 to R151). -/
def mkUpd (k : Core) (w : Nat) : UpdOp :=
  let th := k.f
  let at_ := fun i => (paddr (k.word i) th.lc).toNat
  let pe := bits w 77 64
  let h := bits w 91 78
  let u0 := k.word h
  let u1 := k.word (h + 1)
  let u2 := k.word (h + 2)
  let n := bits w 107 92
  let ce := bits u2 71 58
  { stroke := th.pc, op1 := skOp w == 1, reduced := bit w 108, n := n, planes := (List.range 9).map (fun i => at_ (pe + i)),
    clip := if ce = 0x3FFF then none else some (at_ ce), lr := decodeFloat .f32 (bits u0 39 8),
    wd := decodeFloat .f32 (bits u0 71 40), eps := decodeFloat .f32 (bits u0 103 72),
    b1 := decodeFloat .f32 (bits u1 39 8), b2 := decodeFloat .f32 (bits u1 71 40), stream := bits u0 119 104,
    step := (bits u1 119 72 + lcOf th.lc (bits u1 121 120)) % 2 ^ 48,
    pbase := bits u2 55 8 + lcOf th.lc (bits u2 57 56) * n * 256, sig := skSig w }

/-- Address of plane `i` at byte offset `o`. -/
def UpdOp.at_ (o : UpdOp) (i off : Nat) : Nat := o.planes.getD i 0 + off

/-- Offset of the WT array in the tag plane (R265). -/
def UpdOp.wtOff (o : UpdOp) : Nat := 16 * ceilDiv o.n 8

/-- The regions stripe `k` reads, its tags first (R280, R285). -/
def UpdOp.stripeRegions (o : UpdOp) (k : Nat) : List (Nat × Nat) :=
  [(o.at_ 8 (2 * k), 2), (o.at_ 8 (o.wtOff + 2 * k), 2), (o.at_ 6 (256 * k), 256), (o.at_ 7 (8 * k), 8),
   (o.at_ 2 (256 * k), 256), (o.at_ 3 (8 * k), 8)] ++
  (if o.op1 then [] else [(o.at_ 4 (256 * k), 256), (o.at_ 5 (8 * k), 8)]) ++
  [(o.at_ 0 (512 * k), 512)] ++ (if o.reduced then [] else [(o.at_ 1 (512 * k), 512)])

/-- Every region a stroke may read. -/
def UpdOp.regions (o : UpdOp) : List (Nat × Nat) :=
  (match o.clip with | some a => [(a, 8)] | none => []) ++ ((List.range o.n).map o.stripeRegions).flatten

/-- Bytes of plane `i` of the nine: weights, low weights, the two moments and the gradient with their scale planes, the tags
(R149, R150, R265). -/
def UpdOp.planeLen (o : UpdOp) (i : Nat) : Nat :=
  if i ≤ 1 then 512 * o.n else if i = 8 then 2 * o.wtOff else if i % 2 = 0 then 256 * o.n else 8 * o.n

/-- The Plate range from the lowest to the highest byte of the nine planes (R510). -/
def UpdOp.span (o : UpdOp) : Nat × Nat :=
  (List.range 9).foldl (fun s i => (min s.1 (o.at_ i 0), max s.2 (o.at_ i (o.planeLen i)))) (o.at_ 0 0, o.at_ 0 0)

/-- The 256 values of a BS8 plane pair at stripe `k` (R150). -/
def bsStripe (m : List Host.Cell) (e s : Nat) : List Num := readVals .bs8 false 256 (readBytes m e 256) (readBytes m s 8)

/-- The noise of a plane over a stripe's elements (R278). -/
def UpdOp.noise (f : Fuses) (d : Dev) (o : UpdOp) (plane k : Nat) : List Nat :=
  let ks := noiseKey (noiseSeed f d) 2 o.stream plane
  (List.range 256).map (fun p => noiseAt ks o.step (o.pbase + 256 * k + p))

/-- A new moment encoded under SR: its planes' bytes, its values and the events (R73, R276). -/
def encodeMoment (ns : List Nat) (xs : List Num) (ev : Ev) : List Byte × List Byte × List Num × Ev :=
  let (e, s, ev') := writePlanes .bs8 { rnd := 2, sat := true } ns (xs.map Val.of)
  (e, s, readVals .bs8 false 256 e s, ev.add ev')

/-- The new weight's exact value (R276, R277) from the stored moments, and the events of its roundings.  The root and the quotient,
which R276 calls correctly rounded under RNE and not F32(x), do not saturate (DEDUCED, log entry 153). -/
def weightOf (c : UpdConst) (op1 : Bool) (w m v : Num) (ev : Ev) : Cnt × Val :=
  let q : Cnt :=
    if op1 then ⟨m, ev⟩
    else
      let r := roundF32 false ev (sqrtNum v)
      let d := fmaF32 r.ev r.x c.k2 c.eps one
      let nu := mulF32 d.ev m c.k1
      roundF32 false nu.ev (divNum nu.x d.x)
  let x := ((w.add (c.eta.mul q.x).neg).add (c.etaw.mul w).neg)
  (q, freshOf x [w, q.x])

/-- What a stripe's update writes: patches in the order of R281, and the events. -/
def updStripe (f : Fuses) (d : Dev) (m : List Host.Cell) (o : UpdOp) (c : UpdConst) (g : Num) (full : Bool) (k : Nat) :
    List Patch × Ev :=
  let e1 := leBytes 2 ((o.step + 1) % 65536)
  let mo := bsStripe m (o.at_ 2 (256 * k)) (o.at_ 3 (8 * k))
  let vo := if o.op1 then [] else bsStripe m (o.at_ 4 (256 * k)) (o.at_ 5 (8 * k))
  -- the moments, as stored afterwards
  let (mp, mv, vv, ev) : List Patch × List Num × List Num × Ev :=
    if full then
      let gs := (bsStripe m (o.at_ 6 (256 * k)) (o.at_ 7 (8 * k))).map (fun b => mulF32 {} b g)
      let ev := (gs.map Cnt.ev).foldl Ev.add {}
      let m1 := (mo.zip gs).map (fun p => if o.op1 then fmaF32 {} c.b1 p.1 one p.2.x else fmaF32 {} c.b1 p.1 c.ob1 p.2.x)
      let ev := (m1.map Cnt.ev).foldl Ev.add ev
      let (me, ms, mv, ev) := encodeMoment (o.noise f d 1 k) (m1.map Cnt.x) ev
      let pm := [⟨o.at_ 2 (256 * k), me⟩, ⟨o.at_ 3 (8 * k), ms⟩]
      if o.op1 then (pm ++ [⟨o.at_ 8 (2 * k), e1⟩], mv, [], ev)
      else
        let v1 := (vo.zip gs).map (fun p => fmaF32 {} c.b2 p.1 (c.ob2.mul p.2.x) p.2.x)
        let ev := (v1.map Cnt.ev).foldl Ev.add ev
        let (ve, vs, vv, ev) := encodeMoment (o.noise f d 2 k) (v1.map Cnt.x) ev
        (pm ++ [⟨o.at_ 4 (256 * k), ve⟩, ⟨o.at_ 5 (8 * k), vs⟩, ⟨o.at_ 8 (2 * k), e1⟩], mv, vv, ev)
    else ([], mo, vo, {})
  let h := unpackPlane 16 256 (readBytes m (o.at_ 0 (512 * k)) 512)
  let l := unpackPlane 16 256 (readBytes m (o.at_ 1 (512 * k)) 512)
  let ws := if o.reduced then h.map (decodeElem .b16) else (h.zip l).map (fun p => decodeElem .s32 (p.1 * 65536 + p.2))
  let rs := (ws.zipIdx).map (fun p => weightOf c o.op1 p.1 (mv.getD p.2 .nan) (vv.getD p.2 (.fin false 0 0)) {})
  let ev := (rs.map (fun r => r.1.ev)).foldl Ev.add ev
  let (he, le, ev') := if o.reduced then writePlanes .b16 { rnd := 2, sat := true } (o.noise f d 0 k) (rs.map Prod.snd)
    else writePlanes .s32 { rnd := 0, sat := true } [] (rs.map Prod.snd)
  (mp ++ [⟨o.at_ 0 (512 * k), he⟩] ++ (if o.reduced then [] else [⟨o.at_ 1 (512 * k), le⟩]) ++
    [⟨o.at_ 8 (o.wtOff + 2 * k), e1⟩], ev.add ev')

/-- Counts by kind (R287): add one at place `i`. -/
def bumpAt (l : List Nat) (i : Nat) : List Nat := l.set i (l.getD i 0 + 1)

/-- One stripe by its tags (R279, R280), added to the run. -/
def updStep (f : Fuses) (d : Dev) (m : List Host.Cell) (o : UpdOp) (c : UpdConst) (g : Num) (skip : Bool) (k : Nat) (r : UpdRun) :
    UpdRun :=
  let e0 := o.step % 65536
  let e1 := (o.step + 1) % 65536
  let mt := leNat (readBytes m (o.at_ 8 (2 * k)) 2)
  let wt := leNat (readBytes m (o.at_ 8 (o.wtOff + 2 * k)) 2)
  let pMt : Patch := ⟨o.at_ 8 (2 * k), leBytes 2 e1⟩
  let pWt : Patch := ⟨o.at_ 8 (o.wtOff + 2 * k), leBytes 2 e1⟩
  if mt = e1 ∧ wt = e1 then { r with counts := bumpAt r.counts 2 }
  else if wt ≠ e0 ∨ (mt ≠ e0 ∧ mt ≠ e1) then
    { r with counts := bumpAt r.counts 3, status := max r.status Status.updTag }
  else
    let full := decide (mt = e0)
    if skip then
      { r with counts := bumpAt r.counts 4, patches := r.patches ++ (if full then [pMt, pWt] else [pWt]) }
    else if full && (bsStripe m (o.at_ 6 (256 * k)) (o.at_ 7 (8 * k))).any Num.isNan then
      { r with counts := bumpAt r.counts 4, patches := r.patches ++ [pMt, pWt], status := max r.status Status.updNangrad }
    else
      let (ps, ev) := updStripe f d m o c g full k
      { r with counts := bumpAt r.counts (if full then 0 else 1), patches := r.patches ++ ps, ev := r.ev.add ev }

/-- The regions the stripe reads by its tags: the tags alone where it is done, unmatched or passed over, all but the
gradient where it takes weights only (R279, R280). -/
def UpdOp.needs (o : UpdOp) (m : List Host.Cell) (skip : Bool) (k : Nat) : List (Nat × Nat) :=
  let e0 := o.step % 65536
  let e1 := (o.step + 1) % 65536
  let mt := leNat (readBytes m (o.at_ 8 (2 * k)) 2)
  let wt := leNat (readBytes m (o.at_ 8 (o.wtOff + 2 * k)) 2)
  let rs := o.stripeRegions k
  if skip ∨ wt ≠ e0 ∨ (mt ≠ e0 ∧ mt ≠ e1) then rs.take 2
  else if mt = e1 then rs.take 2 ++ rs.drop 4
  else rs

/-- The stripes from the first on, up to the first that reads an uncorrectable word (R280, R281): the run and that
word.  The list is the stripes' numbers. -/
def updStripes (f : Fuses) (d : Dev) (k : Core) (m : List Host.Cell) (o : UpdOp) (c : UpdConst) (g : Num) (skip : Bool) :
    List Nat → UpdRun → UpdRun × Option Nat
  | [], r => (r, none)
  | i :: t, r =>
    match k.badIn (o.needs m skip i) with
    | some a => ({ r with stopped := true }, some a)
    | none => updStripes f d k m o c g skip t (updStep f d m o c g skip i r)

/-- A scale that makes the stroke pass everything over (R279). -/
def badScale (x : Num) (neg : Bool) : Bool :=
  match x with
  | .fin n m _ => neg && n && m != 0
  | _ => true

/-- A UPD stroke run over its stripes (R272 to R281). -/
def runUpd (f : Fuses) (d : Dev) (c : Nat) (o : UpdOp) : UpdRun × Option Nat :=
  let k := d.core c
  let m := plateView d c .update
  let rec0 : UpdRun := { stroke := o.stroke, sig := o.sig, patches := [], ev := {} }
  match (match o.clip with | some a => k.badWord a 8 | none => none) with
  | some a => ({ rec0 with stopped := true }, some a)
  | none =>
    let (gs, ls) := match o.clip with
      | some a => (decodeFloat .f32 (leNat (readBytes m a 4)), decodeFloat .f32 (leNat (readBytes m (a + 4) 4)))
      | none => (one, one)
    let skip := badScale gs false || badScale ls true
    let (cs, ev) := if skip then (⟨one, one, one, one, one, one, one, one, one⟩, {}) else updConsts o.op1 o.lr o.wd o.eps o.b1 o.b2 ls o.step
    updStripes f d k m o cs gs skip (List.range o.n)
      { rec0 with ev := ev, status := if skip then Status.updSkip else 0 }

/-- The rows ADAMW_UPDATE and MOMENTUM_UPDATE: the issue of the F thread's next stroke, a UPD stroke of operation
`op`; the datapath takes one stroke at a time (R149, R168). -/
def updRow (op : Nat) (c : Nat) (u : Upset) (f : Fuses) (d : Dev) : Dev :=
  let k := d.core c
  let o := mkUpd k (k.word k.f.pc)
  strokeRow f d c .F (fun w => skClass w == 2 && skOp w == op)
    (fun _ => gateOpen d (f.tileOf c) && k.upd.isNone)
    (fun _ d' =>
      let d' := meetUpset d' c u o.regions
      let (r, bad) := runUpd f d' c o
      let d' := spendFree d' (racing d' c .update)
      let d' := d'.modCore c (fun k => { k with upd := some r, updSpan := some o.span })
      match bad with
      | some a => plateUeFault f d' c .F o.stroke a 1
      | none => d')

/-- UPD_COMPLETE (R149, R279 to R281, R285): the last weight tag is written; the stripes are counted, the status is
recorded and the signal sent.  A stroke an uncorrectable word stopped sends none. -/
def updComplete (c : Nat) (f : Fuses) (d : Dev) : Dev :=
  let k := d.core c
  match k.upd with
  | none => d
  | some r =>
    let d := d.setCore c ({ k with upd := none }.patches r.patches)
    let d := countEv d c r.ev
    let d := (r.counts.zipIdx).foldl (fun d p => d.bump (cIdx c) (0x21 + p.2) 64 p.1) d
    if r.stopped then d
    else signal f (recordStatus d c .F r.status) c r.sig r.stroke

end Sys2Proof.Machine
end

