-- ==== Sys2Proof/Machine/Program.lean ====
section
/-! DEFINITION. Programs on cores: the reset of a core, loading, release, stop and resume, and the flush of queues (R109,
R110, R114, R129, R474, R475, R561). -/

namespace Sys2Proof.Machine

/-! ## Core reset (R114, R131, R201, R282) -/

/-- Issued MOVE strokes complete their writes (R282); what cannot be accepted yet stays.  The fuel is the number of
steps. -/
def drainMov (f : Fuses) (c : Nat) (t : Thr) : Nat → Dev → Dev
  | 0, d => d
  | n + 1, d => drainMov f c t n (moveComplete c t 0 f (moveStart c t {} f d))

/-- Issued MOVE and UPD strokes of a core complete their writes (R282). -/
def drainCore (f : Fuses) (d : Dev) (c : Nat) : Dev := drainMov f c .B 4 (drainMov f c .F 4 (updComplete c f d))

/-- Every MOVE stroke the core has issued has completed its writes; one that has sent its words and waits for their statuses
has. -/
def drained (d : Dev) (c : Nat) : Bool :=
  let k := d.core c
  (k.movF ++ k.movB).all (fun m => m.op == 4 && m.started) && k.upd.isNone

/-- A core's threads issue nothing more (R131, R580). -/
def silence (d : Dev) (c : Nat) : Dev :=
  d.modCore c (fun k => { k with f := { k.f with state := .idle, claiming := false, stopping := false },
                                 b := { k.b with state := .idle, claiming := false, stopping := false } })

/-- The bytes of a MOVE that waits for memory move, whatever it waits for (R556 step W2): a LOAD's and a STORE's alone wait. -/
def forceMove (f : Fuses) (d : Dev) (c : Nat) (m : MoveOp) : Dev :=
  let m := if m.op = 0 ∧ m.started = false then
      match heldRuns d ((ctxOf d c).getD 4096) false m.src m.len with
      | some rs => { m with data := runBytes d rs, bad := poisonWords f d m.dst 0 rs }
      | none => m
    else m
  landMove f d c m

/-- A mover channel's issued strokes complete their writes in order, those that memory cannot take yet too (R556 step W2).  The fuel
is the number of strokes. -/
def quietMov (f : Fuses) (c : Nat) (t : Thr) : Nat → Dev → Dev
  | 0, d => d
  | n + 1, d =>
    let e := moveComplete c t 0 f (moveStart c t {} f d)
    if ((e.core c).mov t).length < ((d.core c).mov t).length then quietMov f c t n e
    else match (e.core c).mov t with
      | m :: _ => quietMov f c t n (popHead (forceMove f e c m) c t)
      | [] => e

/-- Every write that a core has issued completes (R556 step W2). -/
def quietCore (f : Fuses) (d : Dev) (c : Nat) : Dev := quietMov f c .B 4 (quietMov f c .F 4 (updComplete c f (silence d c)))

/-- A CODE operation of the core that an engine holds and has not started is dropped; a running one completes its writes. -/
def dropCodes (f : Fuses) (d : Dev) (c : Nat) : Dev :=
  let d := (d.codecs.filter (fun p => match p.2.run with | some r => r.op.core == c | none => false)).foldl
    (fun d p => codecOpComplete (p.1 / 2) (p.1 % 2) f d) d
  { d with codecs := d.codecs.map (fun p => (p.1, { p.2 with queue := p.2.queue.filter (fun o => o.core ≠ c) })) }

/-- Everything of a core goes to 0 (R114), its counters (R134) and its expanders' (R261) too; a producer caught part-way keeps its mark (R129), and the threads' marks take
REG_COUNT (R446). -/
def clearCore (f : Fuses) (d : Dev) (c : Nat) : Dev :=
  let d := (List.range 4).foldl (fun d q => flushQueue d c q) (dropCodes f d c)
  let m := ctr d 0xC000 3
  let marks := (d.core c).queues.map (fun q => ({ marks := q.marks } : Queue))
  let d := claimsOfReset d c
  ((d.setCore c { f := { mark := m }, b := { mark := m }, queues := marks }).clearObjs (cIdx c) 0x10 0x25).clearObjs (0xB100 + c) 0 1

/-- A core reset begins (R282, R580): it is cleared once its issued MOVE and UPD strokes have completed their writes. -/
def coreReset (f : Fuses) (d : Dev) (c : Nat) : Dev :=
  let d := drainCore f (silence d c) c
  if drained d c then clearCore f d c else d

/-! ## Loading (R109, R110, R475, R561) -/

/-- The queue words of a load descriptor (R109). -/
def descQueue (l : List Byte) (q : Nat) : QCfg :=
  let w := field l (88 + 8 * q) 8
  { base := bits w 23 0, log2 := bits w 27 24, token := bits w 34 28, en := bit w 63 }

/-- VERSION, reserved fields and alignments of a load descriptor (R109). -/
def descForm (l : List Byte) : Bool :=
  decide (field l 0 2 = 1) && decide (field l 3 1 ≤ 1) && decide (field l 120 8 = 0) &&
    decide (field l 8 8 % 16 = 0) && decide (field l 16 8 % 16 = 0) &&
    (List.range 4).all (fun q =>
      let w := field l (88 + 8 * q) 8
      decide (bits w 62 35 = 0) && (!bit w 63 || decide (bits w 27 24 ≤ 10 ∧ bits w 23 0 % 512 = 0)))

/-- The part of the Plate a queue's ring may lie in: its owner's partitions (R108). -/
def queuePart (f : Fuses) (d : Dev) (q : Nat) : Nat × Nat := permitted f d (queueOwner q) none

/-- The refusals of a load, in the order of R109.  COUNTER_OWNER looks at the queues that are enabled (DEDUCED, log entry
142): a disabled queue, whose word is all zeros, is bound to no counter. -/
def loadCheck (f : Fuses) (d : Dev) (g : Nat) (l : List Byte) : Nat :=
  let c := field l 2 1
  let qs := (List.range 4).map (fun q => (q, descQueue l q))
  let on := qs.filter (fun q => q.2.en)
  if descForm l = false then Status.malformed
  else if field l 4 2 + field l 6 2 > 16384 then Status.storeFull
  else if c ≥ f.cores ∨ ctxOf d c ≠ some g then Status.noCore
  else if withdrawn d c then Status.coreWithdrawn
  else if (d.core c).busy ∨ coreInReset f d c then Status.coreBusy
  else if on.any (fun q => decide (q.2.base < (queuePart f d q.1).1 ∨ q.2.base + 8 * q.2.size > (queuePart f d q.1).2)) then Status.plateRange
  else if on.any (fun q => decide (ownerOf { credit := false, idx := q.2.token } ≠ queueOwner q.1)) then Status.counterOwner
  else 0

/-- The image of a thread in a context's memory: its runs; none where a page is not mapped. -/
def imageRuns (d : Dev) (g : Nat) (l : List Byte) (t : Thr) : Option (List (Nat × Nat)) :=
  match t with
  | .F => ctxRuns d g false (field l 8 8) (16 * field l 4 2)
  | .B => ctxRuns d g false (field l 16 8) (16 * field l 6 2)

/-- The stroke store as two images fill it (R109). -/
def storeOf (i : Nat) : List (List Byte) → SMap Nat
  | [] => []
  | w :: t => if leNat w = 0 then storeOf (i + 1) t else (i, leNat w) :: storeOf (i + 1) t

/-- A counter file as a descriptor gives it. -/
def countersOf (l : List Byte) (o n : Nat) : SMap Nat :=
  (List.range n).filterMap (fun i => if field l (o + 2 * i) 2 = 0 then none else some (i, field l (o + 2 * i) 2))

/-- A thread as a load leaves it; one in FAULT stays there until a core reset (R131). -/
def loadThread (x : Thread) (start mark : Nat) : Thread :=
  { state := if x.state = .fault then .fault else .idle, status := x.status, fault := x.fault, pc := start, mark := mark }

/-- A core is released (R110): each thread with strokes comes to its first one. -/
def releaseCore (f : Fuses) (d : Dev) (c : Nat) : Dev :=
  let d := d.modCore c (fun k => { k with held := false })
  [Thr.F, Thr.B].foldl (fun d t =>
    let k := d.core c
    let (lo, hi) := k.image t
    if lo < hi ∧ (k.th t).state = .idle then arrive f d c t else d) d

/-- The memory that a LOAD reads can be read now (R20, R231): its descriptor and, where it passes its checks, its images. -/
def loadReady (f : Fuses) (d : Dev) (r : LoadReq) : Bool :=
  let can := fun (rs : List (Nat × Nat)) => rs.all (runReady f d d.cmcWho)
  match ctxRuns d r.ctx false r.desc 512 with
  | none => true
  | some rs => can rs &&
    (let l := runBytes d rs
     if (poisonedIn f d rs).isEmpty = false ∨ loadCheck f d r.ctx l ≠ 0 then true
     else match imageRuns d r.ctx l .F, imageRuns d r.ctx l .B with
       | some rf, some rb => can (rf ++ rb)
       | _, _ => true)

/-- LOAD (R109, R475, R561): the descriptor at a context address is checked, the images stream into the store and their
digests are compared; with HOLD the core waits for RELEASE. -/
def loadProgram (f : Fuses) (d : Dev) (h g a : Nat) (hold : Bool) : Dev :=
  match ctxRuns d g false a 512 with
  | none => completeHandle f d h Status.window 0
  | some rs =>
    if (poisonedIn f d rs).isEmpty = false then completeHandle f (noteRead f d d.cmcWho rs) h Status.memUe 0
    else
      let l := runBytes d rs
      let d := noteRead f d d.cmcWho rs
      let st := loadCheck f d g l
      let c := field l 2 1
      if st ≠ 0 then completeHandle f d h st 0
      else match imageRuns d g l .F, imageRuns d g l .B with
        | some rf, some rb =>
          let (nf, nb) := (field l 4 2, field l 6 2)
          let (imf, imb) := (runBytes d rf, runBytes d rb)
          let ue := !(poisonedIn f d (rf ++ rb)).isEmpty
          let bad := (nf ≠ 0 && decide (sha256 imf ≠ slice l 24 32)) || (nb ≠ 0 && decide (sha256 imb ≠ slice l 56 32))
          let d := noteRead f d d.cmcWho (rf ++ rb)
          if ue || bad then
            let d := d.modCore c (fun k => { k with store := [], fLen := 0, bLen := 0, f := loadThread k.f 0 k.f.mark, b := loadThread k.b 0 k.b.mark })
            completeHandle f d h (if ue then Status.memUe else Status.imageDigest) 0
          else
            let m := ctr d 0xC000 3
            let d := d.modCore c (fun k =>
              { k with store := storeOf 0 (pieces 16 nf imf ++ pieces 16 nb imb), fLen := nf, bLen := nb,
                       f := loadThread k.f 0 m, b := loadThread k.b nf m,
                       acceptRemote := bit (field l 3 1) 0, held := hold,
                       qcfg := (List.range 4).map (descQueue l), queues := k.queues.map (fun q => { marks := q.marks }),
                       tokens := countersOf l 128 128, credits := countersOf l 384 64 })
            completeHandle f (if hold then d else releaseCore f d c) h 0 0
        | _, _ => completeHandle f d h Status.window 0

/-- LOADs whose memory can be read are carried out, in order (R475). -/
def loadsGo (f : Fuses) (d : Dev) : Dev :=
  d.host.loads.foldl (fun d r =>
    if loadReady f d r then
      loadProgram f { d with host := { d.host with loads := d.host.loads.erase r } } r.handle r.ctx r.desc r.hold
    else d) d

/-- A LOAD entry of a context's ring starts (R475). -/
def loadCmd (f : Fuses) (d : Dev) (h g a : Nat) (hold : Bool) : Dev :=
  loadsGo f { d with host := { d.host with loads := d.host.loads ++ [{ handle := h, ctx := g, desc := a, hold := hold }] } }

/-! ## CORE commands (R474) -/

/-- A CORE command names a core that is not granted, or one that is withdrawn (R474, R582). -/
def coresRefused (f : Fuses) (d : Dev) (g mask : Nat) : Nat :=
  let cs := bitList 128 mask
  if cs.any (fun c => decide (c ≥ f.cores ∨ ctxOf d c ≠ some g)) then Status.noCore
  else if cs.any (withdrawn d) then Status.coreWithdrawn
  else 0

/-- A STOP command is over: no thread it names is RUN or WAIT (R474). -/
def stopDone (d : Dev) (mask : Nat) : Bool :=
  (bitList 128 mask).all (fun c =>
    let k := d.core c
    (match k.f.state with | .run | .wait => false | _ => true) && (match k.b.state with | .run | .wait => false | _ => true))

/-- STOP commands that are over complete (R474). -/
def stopCheck (f : Fuses) (d : Dev) : Dev :=
  let hs := d.recov.stops.filter (fun s => stopDone d s.2)
  hs.foldl (fun d s => completeHandle f d s.1 0 0)
    { d with recov := { d.recov with stops := d.recov.stops.filter (fun s => !stopDone d s.2) } }

/-- A thread between strokes stops at once, one that a CLAIM holds at the claim's return (R114). -/
def stopThread (d : Dev) (c : Nat) (t : Thr) : Dev :=
  d.modCore c (fun k =>
    let x := k.th t
    match x.state with
    | .run | .wait => k.setTh t (if x.claiming then { x with stopping := true } else { x with state := .stopped })
    | _ => k)

/-- CORE STOP (R114, R474). -/
def coreStop (f : Fuses) (d : Dev) (h g mask : Nat) : Dev :=
  let st := coresRefused f d g mask
  if st ≠ 0 then completeHandle f d h st 0
  else
    let d := (bitList 128 mask).foldl (fun d c => holdColl f (stopThread (stopThread d c .F) c .B) c) d
    stopCheck f { d with recov := { d.recov with stops := d.recov.stops ++ [(h, mask)] } }

/-- CORE RESUME (R114, R474). -/
def coreResume (f : Fuses) (d : Dev) (h g mask : Nat) : Dev :=
  let st := coresRefused f d g mask
  if st ≠ 0 then completeHandle f d h st 0
  else
    let d := (bitList 128 mask).foldl (fun d c =>
      let d := [Thr.F, Thr.B].foldl (fun d t => match ((d.core c).th t).state with
        | .stopped => arrive f d c t
        | _ => d) d
      resumeColl f d c) d
    completeHandle f d h 0 0

/-- CORE RELEASE (R110, R474). -/
def coreRelease (f : Fuses) (d : Dev) (h g mask : Nat) : Dev :=
  let st := coresRefused f d g mask
  if st ≠ 0 then completeHandle f d h st 0
  else completeHandle f ((bitList 128 mask).foldl (fun d c => if (d.core c).held then releaseCore f d c else d) d) h 0 0

/-- CORE FLUSH (R129, R474): a queue whose owner is RUN or WAIT is left alone. -/
def coreFlush (f : Fuses) (d : Dev) (h g mask queues : Nat) : Dev :=
  let st := coresRefused f d g mask
  if st ≠ 0 then completeHandle f d h st 0
  else
    let each := ((bitList 128 mask).map (fun c => (bitList 4 queues).map (fun q => (c, q)))).flatten
    let held := fun (p : Nat × Nat) => match ((d.core p.1).th (queueOwner p.2)).state with | .run | .wait => true | _ => false
    completeHandle f ((each.filter (fun p => !held p)).foldl (fun d p => flushQueue d p.1 p.2) d) h
      (if each.any held then Status.coreBusy else 0) 0

end Sys2Proof.Machine
end

