-- ==== Sys2Proof/Machine/Context.lean ====
section
/-! DEFINITION. Contexts: their memory, their life, their jobs, doorbells, rings, handles and the PCIe ports (R453 to
R478, R288 to R290). -/

namespace Sys2Proof.Machine

/-! ## MAP and UNMAP (R464, R465) -/

/-- The page size of a MAP. -/
def pageSize (large : Bool) : Nat := if large then 2097152 else 4096

/-- Two ranges meet. -/
def meets (a n b m : Nat) : Bool := decide (a < b + m ∧ b < a + n)

/-- Insert an interval by its start. -/
def insertIv (x : Nat × Nat) : List (Nat × Nat) → List (Nat × Nat)
  | [] => [x]
  | y :: t => if x.1 ≤ y.1 then x :: y :: t else y :: insertIv x t

/-- Numbers covered by intervals of rising start, from `lo` on. -/
def countIv : Nat → List (Nat × Nat) → Nat
  | _, [] => 0
  | lo, x :: t => let a := max lo x.1; (x.2 + 1 - a) + countIv (max a (x.2 + 1)) t

/-- The tables of one level that some mappings need: distinct blocks of 2^k bytes. -/
def blocksOf (k : Nat) (ms : List Mapping) : Nat :=
  countIv 0 ((ms.map (fun m => (m.caddr / 2 ^ k, (m.caddr + m.len - 1) / 2 ^ k))).foldr insertIv [])

/-- Page tables a context holds (R464): the root, and those of the three levels below it. -/
def tablesOf (ms : List Mapping) : Nat :=
  if ms.isEmpty then 0 else 1 + blocksOf 39 ms + blocksOf 30 ms + blocksOf 21 (ms.filter (fun m => !m.large))

/-- The page tables of every context. -/
def tablesUsed (d : Dev) : Nat := (d.ctxs.map (fun p => tablesOf p.2.maps)).sum

/-- MAPPED_BYTES of a context (R462). -/
def mappedBytes (d : Dev) (g : Nat) : Nat := ((d.ctx g).maps.map Mapping.len).sum

/-- A granule is retired (R226). -/
def retiredIn (d : Dev) (a n : Nat) : Bool :=
  (d.mem.retired ++ d.mem.retiring).any (fun g => meets a n (4096 * g) 4096)

/-- The first condition of R464 that refuses a MAP. -/
def mapCheck (f : Fuses) (d : Dev) (g ca da n flags : Nat) : Nat :=
  let m : Mapping := { caddr := ca, daddr := da, len := n, write := bit flags 0, large := bit flags 1 }
  let p := pageSize (bit flags 1)
  if ca % p ≠ 0 ∨ da % p ≠ 0 ∨ n % p ≠ 0 ∨ n = 0 ∨ ca + n > 2 ^ 48 ∨ da + n > f.extMem then Status.mapOverlap
  else if (d.ctx g).maps.any (fun x => meets ca n x.caddr x.len) then Status.mapOverlap
  else if da + n > jobTop f d then Status.memCarved
  else if d.ctxs.any (fun c => c.2.maps.any (fun x => meets da n x.daddr x.len)) then Status.mapOwned
  else if retiredIn d da n then Status.memRetired
  else if mappedBytes d g + n > obj f d (0x7000 + g) 0x0E then Status.mapLimit
  else if tablesUsed d - tablesOf (d.ctx g).maps + tablesOf (m :: (d.ctx g).maps) > 40960 then Status.ptFull
  else 0

/-- MAP (R464). -/
def mapCmd (f : Fuses) (d : Dev) (h g ca da n flags : Nat) : Dev :=
  let st := mapCheck f d g ca da n flags
  if st ≠ 0 then completeHandle f d h st 0
  else
    let x := d.ctx g
    let d := d.setCtx g { x with maps := x.maps ++ [{ caddr := ca, daddr := da, len := n, write := bit flags 0, large := bit flags 1 }] }
    completeHandle f (d.setObj (0x7000 + g) 0x10 (mappedBytes d g)) h 0 0

/-- A mapping without a range of context addresses: what is left below it and above it. -/
def cutMap (m : Mapping) (a n : Nat) : List Mapping :=
  if !meets m.caddr m.len a n then [m]
  else
    (if m.caddr < a then [{ m with len := a - m.caddr }] else []) ++
      (if a + n < m.caddr + m.len then
        [{ m with caddr := a + n, daddr := m.daddr + (a + n - m.caddr), len := m.caddr + m.len - (a + n) }] else [])

/-- The part of a mapping that lies in a range and is being removed, by the UNMAP of a handle or by a close (0). -/
def partMap (m : Mapping) (a n h : Nat) : List Mapping :=
  if !meets m.caddr m.len a n then []
  else
    let lo := max m.caddr a
    [{ m with caddr := lo, daddr := m.daddr + (lo - m.caddr), len := min (m.caddr + m.len) (a + n) - lo, going := some h }]

/-- A range starts and ends at page edges of the mappings it meets (R464). -/
def cutsLarge (ms : List Mapping) (a n : Nat) : Bool :=
  ms.any (fun m => m.large && m.going.isNone && ((decide (m.caddr < a ∧ a < m.caddr + m.len) && decide ((a - m.caddr) % 2097152 ≠ 0)) ||
    (decide (m.caddr < a + n ∧ a + n < m.caddr + m.len) && decide ((a + n - m.caddr) % 2097152 ≠ 0))))

/-- Retired granules that no context maps any more are no longer pending (R227). -/
def dropPending (d : Dev) : Dev :=
  let still := d.mem.pending.filter (fun g => d.ctxs.any (fun c => c.2.maps.any (fun x => meets (4096 * g) 4096 x.daddr x.len)))
  { d with mem := { d.mem with pending := still } }

/-- The cores granted to a context (R462). -/
def grantedCores (f : Fuses) (d : Dev) (g : Nat) : List Nat :=
  (List.range f.cores).filter (fun c => (obj f d (0x7000 + g) 9).testBit c)

/-- Strokes that were checked and have not issued are checked again (R465). -/
def recheckCores (d : Dev) (cs : List Nat) : Dev :=
  cs.foldl (fun d c => d.modCore c (fun k => { k with f := { k.f with recheck := true }, b := { k.b with recheck := true } })) d

/-- Mappings of a context are replaced. -/
def setMaps (d : Dev) (g : Nat) (ms : List Mapping) : Dev :=
  let d := d.setCtx g { d.ctx g with maps := ms }
  dropPending (d.setObj (0x7000 + g) 0x10 (mappedBytes d g))

/-- Work of a core that was checked and is still to access context addresses of a mapping: a LOAD that has not read, a STORE that
has not written, a collective (R326, R465). -/
def coreTouches (f : Fuses) (d : Dev) (c : Nat) (m : Mapping) : Bool :=
  let k := d.core c
  let at_ := fun (a n : Nat) => meets m.caddr m.len a n
  let buf := fun (b : CollBuf) (x : Fmt) (n : Nat) =>
    b.mem && (at_ b.addr (planeBytes x.width n) || (x.isBlock && at_ b.sadr (n / 32)))
  (k.movF ++ k.movB).any (fun x => (x.op == 0 && !x.started && at_ x.src x.len) || (x.op == 1 && at_ x.dst x.len)) ||
    k.coll.any (fun r =>
      let ranks := (groupDesc f d r.grp).ranks
      buf r.src r.ifmt (r.count * (if r.op = 1 ∨ r.op = 3 then ranks else 1)) ||
        buf r.dst r.ofmt (r.count * (if r.op = 0 ∨ r.op = 3 then ranks else 1)))

/-- The lines of requests that the tile caches hold, and the granules a running proof of a context has still to read. -/
def linesHeld (d : Dev) (g : Nat) : List (Nat × Nat) :=
  let p := d.proof
  (((d.mem.fills.map (fun x => x.2.map TcFill.line)).flatten ++ (d.mem.banks.map (fun x => x.2.map Prod.fst)).flatten ++
    (d.mem.hbm.map (fun x => x.2.waiting.map Prod.fst)).flatten ++ d.mem.cowHeld.map Prod.fst).map (fun l => (256 * l, 256))) ++
  (if p.state ≠ 0 ∧ p.ctx = g then (p.guard ++ p.left.filterMap PItem.gran).map (fun q => (4096 * q, 4096)) else [])

/-- An access that was translated through a mapping has not completed (R465). -/
def mapTouched (f : Fuses) (d : Dev) (g : Nat) (m : Mapping) : Bool :=
  let dev := fun (rs : List (Nat × Nat)) => rs.any (fun r => meets m.daddr m.len r.1 r.2)
  (grantedCores f d g).any (fun c => coreTouches f d c m) ||
    d.codecs.any (fun p => p.2.run.any (fun r => r.outs.any (fun o => o.mem && meets m.daddr m.len o.addr o.data.length))) ||
    d.vault.ops.any (fun o => dev (o.aad ++ o.src ++ o.dst ++ o.tag)) || d.host.bar2.any (fun b => dev b.runs) ||
    dev (linesHeld d g) || (decide (d.proof.state = 2) && decide (d.proof.ctx = g))

/-- The mappings of a context that are being removed under a handle go, once nothing accesses them, and the handle completes
(R465). -/
def unmapGo (f : Fuses) (d : Dev) (g h : Nat) : Dev :=
  let ms := (d.ctx g).maps
  let mine := ms.filter (fun m => m.going == some h)
  if mine.isEmpty ∨ mine.any (mapTouched f d g) then d
  else completeHandle f (setMaps d g (ms.filter (fun m => m.going != some h))) h 0 0

/-- UNMAPs whose accesses have completed complete (R465). -/
def unmapsGo (f : Fuses) (d : Dev) : Dev :=
  d.ctxs.foldl (fun d p => ((p.2.maps.filterMap Mapping.going).eraseDups).foldl (fun d h => unmapGo f d p.1 h) d) d

/-- UNMAP (R464, R465): from its start checks find the range unmapped, and strokes that were checked and have not issued are checked
again. -/
def unmapCmd (f : Fuses) (d : Dev) (h g ca n : Nat) : Dev :=
  let ms := (d.ctx g).maps
  if (ctxRuns d g false ca n).isNone ∨ cutsLarge ms ca n then completeHandle f d h Status.unmapRange 0
  else
    let d := setMaps d g ((ms.map (fun m => if m.going.isSome then [m] else cutMap m ca n ++ partMap m ca n h)).flatten)
    unmapGo f (recheckCores d (grantedCores f d g)) g h

/-! ## The state plan (R288 to R290, R598) -/

/-- Bytes per stripe of a plan (R263): MODE, OPT and INTAGLIO. -/
def stripeBytes (mode opt ig : Nat) : Nat :=
  2084 - (if mode = 1 then 512 else 0) - (if opt = 1 then 264 else 0) + (if ig = 1 then 912 else 0)

/-- The check of a context's committed plan: its status and the report (R288 to R290). -/
def stateReport (f : Fuses) (d : Dev) (g : Nat) : Nat × List Byte :=
  let b := leBytes 32 (obj f d (ctxIdx g 0x3190) 0)
  let (mode, opt, ring) := (field b 20 1, field b 21 1, field b 16 4)
  let stripes := ceilDiv (field b 0 8) 256
  let state := stripes * stripeBytes mode opt (field b 22 1)
  let other := field b 8 8
  let top := jobTop f d
  let avail := top - ((d.ctxs.filter (fun p => p.1 ≠ g)).map (fun p => (p.2.maps.map Mapping.len).sum)).sum -
    4096 * ((d.mem.retired ++ d.mem.retiring).filter (fun r => decide (4096 * r < top))).length
  let req := state + other
  let short := req - avail
  let cow := obj f d 0x3020 1 + obj f d 0x3020 2
  let wide := if avail ≤ other then 0 else max (ring + 1) (ceilDiv (state * ring) (avail - other))
  let row := fun (code param frees : Nat) =>
    leBytes 1 code ++ leBytes 1 (if frees ≥ short then 1 else 0) ++ zeros 2 ++ leBytes 4 param ++ leBytes 8 frees
  let opts := (if mode = 0 then [row 1 0 (512 * stripes)] else []) ++
    (if cow > 0 then [row 2 cow (cow * 2 ^ 30)] else []) ++
    (if wide ≠ 0 ∧ wide ≤ 65536 then [row 3 wide (state * (wide - ring) / wide)] else []) ++
    (if f.hbm = 24 then [row 4 32 (288 * 2 ^ 30)] else []) ++
    (if opt = 0 then [row 5 0 (264 * stripes)] else [])
  let st := if req > avail then Status.stateShortfall else 0
  let l := if st = 0 then [] else opts
  (st, leBytes 2 st ++ leBytes 2 l.length ++ zeros 4 ++ leBytes 8 req ++ leBytes 8 avail ++ leBytes 8 short ++ leBytes 8 state ++
    zeros 8 ++ l.flatten ++ zeros (80 - 16 * l.length))

/-- The check is made and its report written (R288). -/
def runStateCheck (f : Fuses) (d : Dev) (g : Nat) : Dev × Nat :=
  let (st, l) := stateReport f d g
  (d.setObj (ctxIdx g 0x3191) 0 (leNat l), st)

/-- STATE_CHECK (R288). -/
def stateCheck (f : Fuses) (d : Dev) (h g : Nat) : Dev :=
  let (d, st) := runStateCheck f d g
  completeHandle f d h st 0

/-! ## Jobs (R476) -/

/-- The reserved bits of a JOB_START argument. -/
def jobArgOk (a : Nat) : Bool := decide (bits a 15 2 = 0) && decide (bits a 127 32 = 0)

/-- A valid group of the context names a core that is not granted, or a group or the grant names one that is withdrawn (R40, R476). -/
def jobCores (f : Fuses) (d : Dev) (g : Nat) : Nat :=
  let stages := ((List.range 128).map (stageGroup d)).filter (fun x => x.valid && x.context == g)
  let groups := ((d.objs.filter (fun p => decide (0x8010 ≤ p.1 / 256 ∧ p.1 / 256 ≤ 0x801F))).map (fun p => descOf p.2)).filter
    (fun x => x.valid && x.ctx == g)
  let cs := (stages.map (fun x => bitList 128 x.members) ++ groups.map GroupDesc.coreList).flatten
  if cs.any (fun c => decide (c ≥ f.cores) || !(obj f d (0x7000 + g) 9).testBit c) then Status.noCore
  else if (cs ++ (List.range f.cores).filter (fun c => (obj f d (0x7000 + g) 9).testBit c)).any (withdrawn d) then Status.coreWithdrawn
  else 0

/-- RELAY_DEV lies at this device's site, Y and Z (R476). -/
def relayOk (f : Fuses) (d : Dev) (r : Nat) : Bool :=
  let me := devAddr f d
  siteOf f d r == siteOf f d me && coordOf f d r 1 == coordOf f d me 1 && coordOf f d r 2 == coordOf f d me 2

/-- A JOB_START has passed its checks: the context is RUNNING (R476), and the posts of its holders count from 1 (R360). -/
def jobRun (f : Fuses) (d : Dev) (h g a : Nat) : Dev :=
  match (d.ctx g).state with
  | .opened =>
    let d := d.setCtx g { d.ctx g with state := .running, job := a }
    let d := if bits a 1 0 = 0 then d else { d with holders := d.holders.map (fun p => (p.1, { p.2 with nextPost := 1 })) }
    completeHandle f (d.setObj (0x7000 + g) 0 2) h 0 0
  | .running => completeHandle f d h Status.jobRunning 0
  | _ => completeHandle f d h Status.ctxState 0

/-- JOB_START (R476): on an L variant with INTAGLIO set the relay's identity is read over the management channel before the context
is RUNNING. -/
def jobStart (f : Fuses) (d : Dev) (h g a : Nat) : Dev :=
  match (d.ctx g).state with
  | .running => completeHandle f d h Status.jobRunning 0
  | .opened =>
    let (d, st) := runStateCheck f d g
    if st ≠ 0 then completeHandle f d h st 0
    else if jobCores f d g ≠ 0 then completeHandle f d h (jobCores f d g) 0
    else if bit a 1 ∧ f.longHaul = false then completeHandle f d h Status.noLongHaul 0
    else if bit a 0 ∧ f.longHaul = false then
      if relayOk f d (bits a 31 16) then
        { d with host := { d.host with relays := d.host.relays ++ [{ handle := h, ctx := g, arg := a }] } }
      else completeHandle f d h Status.noRelay 0
    else jobRun f d h g a
  | _ => completeHandle f d h Status.ctxState 0

/-- JOB_END (R308, R476): with no job left, RESTORED ports are UP. -/
def jobEnd (f : Fuses) (d : Dev) (h g : Nat) : Dev :=
  match (d.ctx g).state with
  | .running =>
    if ctxBusy f d g then completeHandle f d h Status.coreBusy 0
    else
      let d := (d.setCtx g { d.ctx g with state := .opened, job := 0 }).setObj (0x7000 + g) 0 1
      completeHandle f (if jobRunning d then d else restorePorts f d) h 0 0
  | _ => completeHandle f d h Status.ctxState 0

/-- The device leaves its job (R232, R585): every running context's job ends, as JOB_END ends it (log entry 177). -/
def leaveJob (f : Fuses) (d : Dev) : Dev :=
  if jobRunning d then
    restorePorts f ((d.ctxs.filter (fun p => p.2.state == .running)).foldl (fun d p =>
      (d.setCtx p.1 { d.ctx p.1 with state := .opened, job := 0 }).setObj (0x7000 + p.1) 0 1) d)
  else d

/-- The row CONTROLLER_READY (R231, R232): a device one of whose stacks becomes FAILED leaves its job. -/
def controllerRow (i : Nat) (ok : Bool) (f : Fuses) (d : Dev) : Dev :=
  let failed := fun (d : Dev) => match (stackOf f d i).state with | .failed => true | _ => false
  let e := controllerReady i ok f d
  if failed e && !failed d then leaveJob f e else e

/-! ## The life of a context (R457, R461, R477) -/

/-- The default page of a context: doorbells, mailbox and rings as CTX_OPEN, an FLR or a device reset leaves them. -/
def Context.fresh (x : Context) (s : CtxState) : Context := { state := s, maps := x.maps }

/-- CTX_OPEN (R461, R463). -/
def ctxOpen (f : Fuses) (d : Dev) (h g : Nat) : Dev :=
  match (d.ctx g).state with
  | .free =>
    if obj f d (0x7000 + g) 0x0D = 0 then completeHandle f d h Status.grantConflict 0
    else
      let d := d.setCtx g ((d.ctx g).fresh .opened)
      completeHandle f ((d.clearObjs (0x7000 + g) 0x11 0x14).setObj (0x7000 + g) 0 1) h 0 0
  | _ => completeHandle f d h Status.ctxState 0

/-- The key slots granted to a context (R395, R462). -/
def keySlots (f : Fuses) (d : Dev) (g : Nat) : List Nat := bitList 256 (obj f d (0x7000 + g) 0x0A)

/-- Objects of groups owned by a context return to their defaults (R477 step 6). -/
def dropGroups (d : Dev) (g : Nat) : Dev :=
  let mine := (d.objs.filter (fun p => decide (0x8010 ≤ p.1 / 256 ∧ p.1 / 256 ≤ 0x801F) && decide ((descOf p.2).ctx = g) && decide (p.2 ≠ 0))).map Prod.fst
  let nums := mine.map (fun k => (k / 256 - 0x8010) * 256 + k % 256)
  let d := { d with objs := d.objs.filter (fun p => !mine.contains p.1), groups := d.groups.filter (fun p => !nums.contains p.1) }
  let stages := (List.range 128).filter (fun i => ctr d 0x3180 i ≠ 0 && (stageGroup d i).context == g)
  let d := stages.foldl (fun d i => d.setObj 0x3180 i 0) d
  d.clearObjs (ctxIdx g 0xB010) 0 255

/-- Step 2 of a close (R477): commands that run end with CTX_CLOSED, of which nothing is posted, and their handles are freed.  An
operation of a cipher engine that runs disposes of its output (R406). -/
def closeCmds (f : Fuses) (d : Dev) (g : Nat) : Dev :=
  let mine := fun (h : Nat) => decide (h / 2 ^ 20 = g)
  let d := (d.vault.ops.filter (fun o => o.ctx == g && o.run.isSome)).foldl (fun d o => failCipher f d o Status.ctxClosed false) d
  let done := (d.handles.filter (fun p => mine p.1 && !p.2.complete)).length
  let vault := { d.vault with ops := d.vault.ops.filter (fun o => o.ctx != g), waits := d.vault.waits.filter (fun w => !mine w.handle) }
  let proof := { d.proof with waits := d.proof.waits.filter (fun w => w.ctx != g), restores := d.proof.restores.filter (fun r => r.ctx != g) }
  let host := { d.host with relays := d.host.relays.filter (fun l => l.ctx != g), loads := d.host.loads.filter (fun l => l.ctx != g), commits := d.host.commits.filter (fun c => !mine c.handle) }
  let e : Dev := { d with handles := d.handles.filter (fun p => !mine p.1), vault := vault, proof := proof, host := host,
                          recov := { d.recov with stops := d.recov.stops.filter (fun s => !mine s.1) } }
  e.bump (0x7000 + g) 0x14 64 done

/-- Step 7 of a close (R477): every mapping is being removed. -/
def closeMaps (d : Dev) (g : Nat) : Dev := setMaps d g ((d.ctx g).maps.map (fun m => { m with going := some 0 }))

/-- The next step of a close (R477), and none where it must wait: for the vault bus (R399), for the issued writes of the granted
cores (R282), and for accesses translated before (R465). -/
def closeStep (f : Fuses) (d : Dev) (r : CloseRun) : Option Dev :=
  let g := r.ctx
  match r.step with
  | 2 => some (closeCmds f d g)
  | 3 =>
    if d.proof.state ≠ 0 ∧ d.proof.ctx = g then some (proofEnd f { d with proof := { d.proof with flight := [] } } Status.proofAborted)
    else some d
  | 4 =>
    let ks := keySlots f d g
    if ks.isEmpty then some d
    else if slotsFree d = false then none
    else some (eraseSlots f (ks.foldl (fun d _ => slotTurn d d.stampNow) d) (fun s => ks.contains s))
  | 5 =>
    let cs := grantedCores f d g
    if cs.all (drained d) then some (cs.foldl (coreReset f) d) else none
  | 6 => some (closeMaps (dropGroups d g) g)
  | 7 => if (d.ctx g).maps.isEmpty then some d else none
  | _ =>
    let e : Dev := { d with princ := d.princ.del g, host := { d.host with closes := d.host.closes.filter (fun x => x.ctx != g) } }
    some (completeOpt f ((e.setCtx g {}).setObj (0x7000 + g) 0 0) r.handle 0 0)

/-- A close goes on, as far as the fuel takes it (R477): the writes its cores have issued complete, and its mappings go, as soon as
they can. -/
def closeRun (f : Fuses) (g : Nat) : Nat → Dev → Dev
  | 0, d => d
  | n + 1, d =>
    match d.host.closes.find? (fun r => r.ctx == g) with
    | none => d
    | some r =>
      let d := if r.step = 5 then (grantedCores f d g).foldl (fun d c => drainCore f (silence d c) c) d
        else if r.step = 7 then unmapGo f d g 0 else d
      match closeStep f d r with
      | none => d
      | some e =>
        closeRun f g n { e with host := { e.host with closes := e.host.closes.map (fun x => if x.ctx = g then { x with step := r.step + 1 } else x) } }

/-- Closes go on (R477). -/
def closeGo (f : Fuses) (d : Dev) : Dev := d.host.closes.foldl (fun d r => closeRun f r.ctx 8 d) d

/-- A context begins to close (R477 step 1): with no job left, RESTORED ports are UP (R308). -/
def closeBegin (f : Fuses) (h : Option Nat) (d : Dev) (g : Nat) : Dev :=
  let x := d.ctx g
  let was := jobRunning d
  let d := (d.setCtx g { x with state := .closing, fetched := [], cmdProd := x.cmdCons }).setObj (0x7000 + g) 0 3
  let out := d.host.heldOut.filter (fun p => match p.2 with | .mbox c _ => c != g | _ => true)
  let d : Dev := { d with host := { d.host with closes := d.host.closes ++ [{ ctx := g, handle := h }], heldOut := out } }
  if was && !jobRunning d then restorePorts f d else d

/-- A context closes (R477). -/
def closeCtx (f : Fuses) (h : Option Nat) (d : Dev) (g : Nat) : Dev := closeRun f g 8 (closeBegin f h d g)

/-- CTX_CLOSE (R461, R477): context 0 is never closed. -/
def ctxClose (f : Fuses) (d : Dev) (h g : Nat) : Dev :=
  match (d.ctx g).state with
  | .opened | .running | .error =>
    if g = 0 then completeHandle f d h Status.ctxState 0 else closeCtx f (some h) d g
  | _ => completeHandle f d h Status.ctxState 0

/-- The contexts that can be closed, but for context 0: not FREE and not CLOSING. -/
def usedCtxs (d : Dev) : List Nat :=
  (d.ctxs.filter (fun p => decide (p.1 ≠ 0) && (match p.2.state with | .free | .closing => false | _ => true))).map Prod.fst

/-- FUNCTION_LEVEL_RESET (R457): of VF v, or of the PF as function 0. -/
def functionLevelReset (fn : Nat) (f : Fuses) (d : Dev) : Dev :=
  if fn ≠ 0 then ((usedCtxs d).filter (fun g => obj f d (0x7000 + g) 1 == fn)).foldl (closeCtx f none) d
  else
    let d := (usedCtxs d).foldl (closeCtx f none) d
    let x := d.ctx 0
    let d := d.clearObjs 0x7000 3 6
    d.setCtx 0 { x with cmdCons := 0, cmdProd := 0, evtProd := 0, evtCons := 0, fetched := [], events := [], pendLoss := 0,
                        mboxState := 0, mboxRlen := 0, mboxReq := [], mboxResp := [], intrDue := false }

/-! ## Handles (R470) -/

/-- HANDLE_SWEEP (R470): every completed entry of the context is freed; its own completes after. -/
def handleSweep (f : Fuses) (d : Dev) (h g : Nat) : Dev :=
  completeHandle f { d with handles := d.handles.filter (fun p => !(decide (p.1 / 2 ^ 20 = g) && p.2.complete)) } h 0 0

/-- A read of a handle record (R470): the record, and a completed entry is freed. -/
def readHandle (d : Dev) (h : Nat) : Dev × List Byte :=
  let l := handleRecord d h
  match SMap.find? d.handles h with
  | some r => (if r.complete then { d with handles := d.handles.del h } else d, l)
  | none => (d, l)

/-! ## Doorbells and rings (R459, R467 to R473) -/

/-- The 54 V domains are not off for a supply fault whose reset waits for a flash pulse (R549). -/
def powered (d : Dev) : Bool := match d.rst.deferred with | some r => decide (r.cause ≠ 8) | none => true

/-- The device serves the host: DEVICE_STATE is READY (R557). -/
def ready (d : Dev) : Bool := decide (ctr d 0xA000 0 = 2) && powered d

/-- The page of a context is live on a PCIe port (R454, R456, R459, R461). -/
def pageLive (f : Fuses) (d : Dev) (port g : Nat) : Bool :=
  ready d && decide (port = obj f d 0xD000 0) && (match (d.ctx g).state with | .opened | .running | .error => true | _ => false)

/-- CMD_DB (R469). -/
def cmdDb (port g v : Nat) (f : Fuses) (d : Dev) : Dev :=
  if pageLive f d port g = false then d
  else
    let x := d.ctx g
    if (v + 2 ^ 32 - x.cmdCons) % 2 ^ 32 ≤ obj f d (0x7000 + g) 4 ∧ v < 2 ^ 32 then d.setCtx g { x with cmdProd := v }
    else spendFree (ctxEvent f (d.bump (0x7000 + g) 0x12 32 1) g Status.doorbellRange (freeArg d)) true

/-- An event index lies before EVT_CONS, as 32-bit serial numbers. -/
def passed (i cons : Nat) : Bool := decide (i ≠ cons ∧ (cons + 2 ^ 32 - i) % 2 ^ 32 < 2 ^ 31)

/-- EVT_DB (R470, R472): EVT_CONS is set, and entries whose events it passes are freed. -/
def evtDb (port g v : Nat) (f : Fuses) (d : Dev) : Dev :=
  if pageLive f d port g = false then d
  else
    let x := d.ctx g
    let v := v % 2 ^ 32
    let n := (x.evtProd + 2 ^ 32 - v) % 2 ^ 32
    let d := d.setCtx g { x with evtCons := v, events := x.events.take n }
    { d with handles := d.handles.filter (fun p =>
        !(decide (p.1 / 2 ^ 20 = g) && p.2.complete && (match p.2.event with | some i => passed i v | none => false))) }

/-- The context's ring failed (R461): it is in ERROR, and nothing more is fetched or posted. -/
def dmaError (f : Fuses) (d : Dev) (g : Nat) : Dev :=
  if (d.ctx g).live = false then d
  else
    let d := (d.setCtx g { d.ctx g with state := .error, fetched := [] }).setObj (0x7000 + g) 0 4
    if g = 0 then cmcEvent d Status.dmaError g else event0 f d Status.dmaError g

/-- RING_DMA_TIMEOUT (R461, R480). -/
def ringDmaTimeout (g : Nat) (f : Fuses) (d : Dev) : Dev := dmaError f d g

/-- A context has entries to fetch, and a handle entry for one (R469). -/
def fetchable (f : Fuses) (d : Dev) (g : Nat) : Bool :=
  let x := d.ctx g
  x.live && decide (x.cmdProd ≠ x.cmdCons) && decide (obj f d (0x7000 + g) 4 ≠ 0) && decide (handlesUsed d g < obj f d (0x7000 + g) 0x0D)

/-- The context served next, in rotation by ascending number (R469). -/
def nextFetch (f : Fuses) (d : Dev) : Option Nat :=
  let cs := (d.ctxs.map Prod.fst).filter (fetchable f d)
  match cs.find? (fun g => decide (g > d.host.lastCtx)) with
  | some g => some g
  | none => cs.head?

/-- The fields of an entry's header (R467). -/
def entryKind (b : List Byte) : Nat := field b 0 1
def entryFence (b : List Byte) : Bool := bit (field b 1 1) 1

/-- Bytes of an entry from `o`, `n` of them, are 0. -/
def zeroAt (b : List Byte) (o n : Nat) : Bool := (slice b o n).all (fun x => x == 0#8)

/-- An entry holds no reserved value and no nonzero reserved field (R403, R467). -/
def entryForm (b : List Byte) : Bool :=
  let k := entryKind b
  decide (1 ≤ k ∧ k ≤ 7) && decide (field b 1 1 < 4) && zeroAt b 2 2 && zeroAt b 11 53 && (k == 1 || zeroAt b 8 3) &&
    (if k = 2 then cipherFormat (b.drop 64)
     else if k = 3 then decide (field b 72 1 < 2) && zeroAt b 73 55
     else if k = 4 then decide (field b 64 1 ≤ 4) && decide (field b 65 1 < 16) && (field b 64 1 == 3 || zeroAt b 65 1) &&
      zeroAt b 66 14 && zeroAt b 96 32
     else if k = 5 then decide (field b 88 1 < 4) && zeroAt b 89 39
     else if k = 6 then zeroAt b 80 48 && decide (field b 64 8 % 4096 = 0 ∧ field b 72 8 % 4096 = 0 ∧ field b 72 8 ≠ 0)
     else if k = 7 then zeroAt b 64 64
     else true)

/-- Malformed entries at the head complete without starting (R467).  The fuel is the number of entries. -/
def purge (f : Fuses) (g : Nat) : Nat → Dev → Dev
  | 0, d => d
  | n + 1, d =>
    match (d.ctx g).fetched with
    | e :: rest =>
      if entryForm e.bytes then d
      else purge f g n (completeHandle f (d.setCtx g { d.ctx g with fetched := rest }) e.handle Status.malformed 0)
    | [] => d

/-- COMMAND_FETCH (R467 to R470): up to 8 entries of the next context are fetched, each with a handle.  `entries` is what
the reads return; `err` that one failed. -/
def commandFetch (entries : List (List Byte)) (err : Bool) (f : Fuses) (d : Dev) : Dev :=
  match nextFetch f d with
  | none => d
  | some g =>
    if ready d = false ∨ d.frozen 0x8000 then d
    else let d := d.grant 0x8000 { kind := 3, stamp := d.stampNow }
    if err then dmaError f { d with host := { d.host with lastCtx := g } } g
    else
      let x := d.ctx g
      let n := min 8 (min ((x.cmdProd + 2 ^ 32 - x.cmdCons) % 2 ^ 32)
        (min entries.length (obj f d (0x7000 + g) 0x0D - handlesUsed d g)))
      let d := (entries.take n).foldl (fun d b =>
        let b := slice b 0 128
        let (d, h) := takeHandle d g { post := bit (field b 1 1) 0, tag := field b 4 4, entry := true }
        let x := d.ctx g
        d.setCtx g { x with cmdCons := (x.cmdCons + 1) % 2 ^ 32, fetched := x.fetched ++ [⟨b, h⟩] }) d
      purge f g n { d with host := { d.host with lastCtx := g } }

/-- Every earlier entry of the context has completed (R468): of those that have started, all. -/
def fenceOk (d : Dev) (g : Nat) : Bool :=
  d.handles.all (fun p => !(decide (p.1 / 2 ^ 20 = g) && p.2.entry && !p.2.complete) ||
    (d.ctx g).fetched.any (fun e => e.handle == p.1))

/-- The shape of every row of a ring command: the entry at the head of the context's fetched entries, when it is the one
`sel` knows and its FENCE holds, starts as `run` says. -/
def startEntry (f : Fuses) (d : Dev) (g : Nat) (sel : List Byte → Bool) (run : Dev → Nat → List Byte → Dev) : Dev :=
  match (d.ctx g).fetched with
  | [] => d
  | e :: rest =>
    if (d.ctx g).live = false ∨ sel e.bytes = false ∨ (entryFence e.bytes = true ∧ fenceOk d g = false) then d
    else
      let d := run (d.setCtx g { d.ctx g with fetched := rest }) e.handle e.bytes
      purge f g rest.length d

/-- The rows LOAD_PROGRAM, STOP, CORE_RESUME, CORE_RELEASE, FLUSH, MAP, UNMAP, NOP_COMMAND, SEAL and OPEN (R467). -/
def loadRow (g : Nat) (f : Fuses) (d : Dev) : Dev :=
  startEntry f d g (fun b => entryKind b == 3) (fun d h b => loadCmd f d h g (field b 64 8) (bit (field b 72 1) 0))

/-- A CORE entry of an operation. -/
def isCore (op : Nat) (b : List Byte) : Bool := entryKind b == 4 && field b 64 1 == op

def stopRow (g : Nat) (f : Fuses) (d : Dev) : Dev :=
  startEntry f d g (isCore 0) (fun d h b => coreStop f d h g (field b 80 16))

def resumeRow (g : Nat) (f : Fuses) (d : Dev) : Dev :=
  startEntry f d g (isCore 1) (fun d h b => coreResume f d h g (field b 80 16))

def releaseRow' (g : Nat) (f : Fuses) (d : Dev) : Dev :=
  startEntry f d g (isCore 2) (fun d h b => coreRelease f d h g (field b 80 16))

def flushRow (g : Nat) (f : Fuses) (d : Dev) : Dev :=
  startEntry f d g (isCore 3) (fun d h b => coreFlush f d h g (field b 80 16) (field b 65 1))

def mapRow (g : Nat) (f : Fuses) (d : Dev) : Dev :=
  startEntry f d g (fun b => entryKind b == 5) (fun d h b => mapCmd f d h g (field b 64 8) (field b 72 8) (field b 80 8) (field b 88 1))

def unmapRow (g : Nat) (f : Fuses) (d : Dev) : Dev :=
  startEntry f d g (fun b => entryKind b == 6) (fun d h b => unmapCmd f d h g (field b 64 8) (field b 72 8))

def nopCommand (g : Nat) (f : Fuses) (d : Dev) : Dev :=
  startEntry f d g (fun b => entryKind b == 7) (fun d h _ => completeHandle f d h 0 0)

def sealRow (g : Nat) (f : Fuses) (d : Dev) : Dev :=
  startEntry f d g (fun b => entryKind b == 2 && field b 66 1 == 0) (fun d h b => cipherSubmit f d g h (b.drop 64))

def openRow (g : Nat) (f : Fuses) (d : Dev) : Dev :=
  startEntry f d g (fun b => entryKind b == 2 && field b 66 1 == 1) (fun d h b => cipherSubmit f d g h (b.drop 64))

/-- MSIX_MODERATION (R473): INTR_US has ended after events that no message has announced. -/
def msixModeration (g : Nat) (f : Fuses) (d : Dev) : Dev :=
  let x := d.ctx g
  let v := obj f d (0x7000 + g) 7
  if x.intrDue = false ∨ v = 0xFFFF then d
  else (d.setCtx g { x with intrDue := false, lastIntr := some d.cyc }).emit (.msix (obj f d (0x7000 + g) 1) v)

/-! ## BAR2 (R458, R466) -/

/-- The context of a function's BAR2 and the context address of an offset (R466). -/
def bar2Addr (f : Fuses) (d : Dev) (fn off : Nat) : Nat × Nat := (obj f d (0xD100 + fn) 0, obj f d (0xD100 + fn) 1 + off)

/-- The device region of a BAR2 access; none where a page is not mapped, or not mapped with WRITE for a write. -/
def bar2Runs (f : Fuses) (d : Dev) (fn off n : Nat) (w : Bool) : Option (List (Nat × Nat)) :=
  let (g, a) := bar2Addr f d fn off
  if obj f d (0x7000 + g) 1 = fn ∧ off + n ≤ 2 ^ 36 then ctxRuns d g w a n else none

/-- Who a host window is when it accesses device memory: the active PCIe port's tile, and the management activity, to which the
host's accesses are counted (R30 names no other; log entry 35). -/
def hostWho (f : Fuses) (d : Dev) : Who := { tile := if obj f d 0xD000 0 = 0 then 0 else 15, act := 4, stamp := d.stampNow }

/-- A BAR2 access that has been translated is carried out (R224, R466): the completion of a read leaves, a write lands. -/
def bar2Do (f : Fuses) (d : Dev) (b : Bar2Acc) : Dev :=
  match b.data with
  | none => (noteRead f d b.who b.runs).emit (.bar2Reply (some (runBytes d b.runs)) (!(poisonedIn f d b.runs).isEmpty))
  | some l => writeRuns f d b.who b.runs l

/-- The memory of a BAR2 access can be accessed now (R231, R419). -/
def bar2Ready (f : Fuses) (d : Dev) (b : Bar2Acc) : Bool :=
  b.runs.all (fun r => if b.data.isSome then writeReady f d b.who r else runReady f d b.who r)

/-- BAR2 accesses are carried out in their order, as memory takes them.  The fuel is their number. -/
def bar2Run (f : Fuses) : Nat → Dev → Dev
  | 0, d => d
  | n + 1, d =>
    match d.host.bar2 with
    | [] => d
    | b :: rest => if bar2Ready f d b then bar2Run f n (bar2Do f { d with host := { d.host with bar2 := rest } } b) else d

/-- BAR2 accesses go on. -/
def bar2Go (f : Fuses) (d : Dev) : Dev := bar2Run f d.host.bar2.length d

/-- A BAR2 access has been translated (R466). -/
def bar2Take (f : Fuses) (d : Dev) (b : Bar2Acc) : Dev := bar2Go f { d with host := { d.host with bar2 := d.host.bar2 ++ [b] } }

/-- BAR2_READ (R224, R466). -/
def bar2Read (port fn off n : Nat) (f : Fuses) (d : Dev) : Dev :=
  if ready d = false ∨ port ≠ obj f d 0xD000 0 then d.emit (.bar2Reply (some (zeros n)) false)
  else match bar2Runs f d fn off n false with
    | none => d.emit (.bar2Reply none false)
    | some rs => bar2Take f d { who := hostWho f d, runs := rs, data := none }

/-- BAR2_WRITE (R466): a write to a page that is not mapped for it is discarded, and posted once per 1 ms at most. -/
def bar2Write (port fn off : Nat) (l : List Byte) (f : Fuses) (d : Dev) : Dev :=
  if ready d = false ∨ port ≠ obj f d 0xD000 0 then d
  else match bar2Runs f d fn off l.length true with
    | some rs => bar2Take f d { who := hostWho f d, runs := rs, data := some l }
    | none =>
      let g := (bar2Addr f d fn off).1
      let x := d.ctx g
      let soon := match x.lastUnmapped with | some t => decide (d.cyc < t + 1000 * usCycles) | none => false
      if soon then d
      else spendFree (ctxEvent f (d.setCtx g { x with lastUnmapped := some d.cyc }) g Status.bar2Unmapped (freeArg d)) true

/-! ## Failover of the PCIe port (R455, R456) -/

/-- The link of the port that is not active is up. -/
def otherUp (f : Fuses) (d : Dev) : Bool := decide (obj f d 0xD000 (3 + (1 - obj f d 0xD000 0)) % 16 = 2)

/-- Link states as the ports report them (R479). -/
def setLinks (d : Dev) (l0 l1 : Nat) : Dev := (d.setObj 0xD000 3 l0).setObj 0xD000 4 l1

/-- The device moves to the other port (R424, R455, R456): events not consumed are written again, and a running proof
ends. -/
def movePort (f : Fuses) (d : Dev) : Dev :=
  let d := (d.setObj 0xD000 0 (1 - obj f d 0xD000 0)).bump 0xD000 6 32 1
  let d := d.ctxs.foldl (fun d p =>
    let n := obj f d (0x7000 + p.1) 6
    ((p.2.events.reverse).zipIdx).foldl (fun d e =>
      let i := (p.2.evtProd + 2 ^ 32 - p.2.events.length + e.2) % 2 ^ 32
      d.emit (.hostWrite (obj f d (0x7000 + p.1) 2) (obj f d (0x7000 + p.1) 5 + 32 * (if n = 0 then 0 else i % n)) e.1)) d) d
  let d := proofAbort f d Status.sinkError
  spendFree (eventAll f d Status.pcieFailover (freeArg d)) true

/-- PCIE_FAILOVER (R455): the active link has been down for 100 ms. -/
def pcieFailover (l0 l1 : Nat) (f : Fuses) (d : Dev) : Dev :=
  let d := setLinks d l0 l1
  if obj f d 0xD000 1 = 1 ∧ obj f d 0xD000 (3 + obj f d 0xD000 0) % 16 = 0 ∧ otherUp f d then movePort f d else d

/-- FAILOVER (R455). -/
def failover (f : Fuses) (d : Dev) (h : Nat) : Dev :=
  if otherUp f d = false then completeHandle f d h Status.failoverRefused 0
  else completeHandle f (movePort f d) h 0 0

end Sys2Proof.Machine
end

