-- ==== Sys2Proof/Machine/Read.lean ====
section
/-! DEFINITION. What a read of a Dictionary object returns (R481 to R483): objects held in the store, and those that show
other state of the block. -/

namespace Sys2Proof.Machine

/-! ## Codes of states shown in objects -/

/-- A thread's state (R113). -/
def TState.code : TState → Nat
  | .idle => 0 | .run => 1 | .wait => 2 | .halt => 3 | .fault => 4 | .stopped => 5

/-- STACK_STATE (R234). -/
def StackState.code : StackState → Nat
  | .absent => 0 | .ready => 1 | .calibrating => 2 | .retraining => 3 | .selfRefresh => 4 | .failed => 5

/-- VAULT_STATE (R409). -/
def VaultState.code : VaultState → Nat
  | .off => 0 | .selftest => 1 | .service => 2 | .test => 3 | .recovery => 4 | .alarmed => 5

/-- CTX_STATE (R461). -/
def CtxState.code : CtxState → Nat
  | .free => 0 | .opened => 1 | .running => 2 | .closing => 3 | .error => 4

/-! ## Identity (R36 to R39) -/

def ascii (s : String) : List Byte := s.toList.map (fun c => BitVec.ofNat 8 c.toNat)

/-- ORDER_CODE (R36). -/
def orderCode (f : Fuses) : List Byte :=
  ascii "DV" ++ ascii (toString f.cores) ++ ascii "-" ++ ascii (toString f.hbm) ++ ascii (if f.longHaul then "W" else "L")

/-- VARIANT_WORD (R37). -/
def variantWord (f : Fuses) : Nat :=
  f.cores + 2 ^ 8 * f.hbm + (if f.longHaul then 2 ^ 16 else 0) + 2 ^ 24 * (if f.stepA0 then 0xA0 else 0xB1)

/-- An identity object (R36); all but FUSE_CHECK read 0 after a failed fuse check, and ORDER_CODE the empty string (R38).  What
"read 0" is for the other strings the spec does not say: SERIAL reads as 12 zero bytes and STEPPING as the empty string (DESIGN
CHOICE, log entry 137). -/
def identityBytes (f : Fuses) (d : Dev) (o : Obj) (idx sub : Nat) : List Byte :=
  if idx = 0x1000 ∧ sub = 0xA then leBytes 2 (if fuseBad f d then Status.fuseFault else 0)
  else if fuseBad f d then (if o.ty = .str then (if sub = 9 then zeros 12 else []) else zeros o.len)
  else if idx = 0x1000 then
    match sub with
    | 0 => orderCode f
    | 1 => ascii (if f.stepA0 then "A0" else "B1")
    | 2 => leBytes 4 (variantWord f)
    | 3 => leBytes 1 f.cores
    | 4 => leBytes 1 f.coresPerTile
    | 5 => leBytes 1 f.hbm
    | 6 => leBytes 4 (stackMap f)
    | 7 => leBytes 1 (if f.longHaul then 1 else 0)
    | 8 => leBytes 8 f.extMem
    | _ => slice f.serial 0 12
  else if idx = 0x1010 then leBytes 1 (f.enable.getD sub 0)
  else if idx = 0x1100 then leBytes 1 (f.physOf sub)
  else leBytes 1 (f.logOf sub)

/-- LINK_LOCAL (R499): fe80::/64 with the modified EUI-64 of MGMT_MAC. -/
def linkLocal (f : Fuses) : List Byte :=
  let m := slice f.mac 0 6
  [0xFE#8, 0x80#8] ++ zeros 6 ++ [(m.getD 0 0#8) ^^^ 2#8] ++ slice m 1 2 ++ [0xFF#8, 0xFE#8] ++ slice m 3 3

/-! ## Error log and crash dump (R577, R579) -/

/-- A record of the error log as its 64 bytes (R579). -/
def LogEntry.bytes (e : LogEntry) : List Byte :=
  let b := leBytes 4 e.seq ++ leBytes 4 e.boot ++ leBytes 8 e.time ++ leBytes 2 e.status ++ leBytes 1 e.severity ++ zeros 1 ++
    leBytes 2 e.unit ++ leBytes 2 e.phys ++ slice ((e.detail.map (leBytes 8)).flatten) 0 32 ++ zeros 4
  b ++ leBytes 4 (crc32c b)

/-- Records the ring of the error log holds after its header (R227, R579). -/
def ringRecords (f : Fuses) (d : Dev) : Nat := usableLen f d 5 / 64 - 1

/-- Record i of the error log ring: the header at 0, written with the first record, and the latest record at each place. -/
def errRecord (f : Fuses) (d : Dev) (i : Nat) : List Byte :=
  match d.errLog with
  | [] => zeros 64
  | e :: _ =>
    if i = 0 then
      let b := leBytes 4 0x5F0A1CB2 ++ leBytes 4 (1 + (e.seq + 1) % ringRecords f d) ++ leBytes 4 ((e.seq + 1) / ringRecords f d)
      b ++ leBytes 4 (crc32c b) ++ zeros 48
    else match d.errLog.find? (fun x => 1 + x.seq % ringRecords f d == i) with
      | some x => x.bytes
      | none => zeros 64

/-- Record i of the flash ring, by the order the records were written in (R579). -/
def flashRecord (d : Dev) (i : Nat) : List Byte :=
  let l := d.recov.flashLog.reverse
  match (l.zipIdx.reverse).find? (fun x => x.2 % 65536 == i) with
  | some x => x.1.bytes
  | none => zeros 64

/-- Bytes of the crash dump region (R216, R227, R577); beyond its usable size zeros. -/
def dumpBytes (f : Fuses) (d : Dev) (off len : Nat) : List Byte :=
  slice (runBytes d (placeRuns f d 6 off (min len (usableLen f d 6 - off)))) 0 len

/-! ## Views -/

/-- A progress counter by its index (R564, R569). -/
def progressOf (f : Fuses) (d : Dev) (i : Nat) : Nat :=
  if i < 256 then (if i / 2 < f.cores then ctr d (cIdx (i / 2)) (0x1B + i % 2) else 0)
  else if i < 364 then SMap.get 0 d.recov.progress i
  else 0

/-- RING_STATUS (R317): per axis the number of down links and up to seven of them. -/
def ringStatusBytes (d : Dev) : List Byte :=
  ([0, 1, 2].map (fun a =>
    let l := (d.links.filter (fun r => r.axis == a && r.down)).map LinkRec.at_
    leBytes 2 l.length ++ slice ((l.map (leBytes 2)).flatten) 0 14)).flatten

/-- The claim counter that 3141h.00 selects for a context (R196). -/
def claimView (f : Fuses) (d : Dev) (g sub : Nat) : List Byte :=
  let n := obj f d (ctxIdx g 0x3141) 0
  let k := SMap.get ({} : ClaimCtr) d.claims (claimPhys f d g n)
  let shown := decide (n < obj f d (0x7000 + g) 0x0C)
  match sub with
  | 0 => leBytes 2 n
  | 1 => leBytes 8 (if shown then k.value else 0)
  | 2 => leBytes 8 (if shown then k.init else 0)
  | 3 => leBytes 1 (if shown then k.group.getD 255 else 255)
  | 4 => leBytes 16 (if shown then k.exhausted else 0)
  | _ => leBytes 1 (if shown then k.held.length else 0)

/-- Bases of the Plate partitions (R106). -/
def partBase (f : Fuses) (d : Dev) (i : Nat) : Nat := ((List.range i).map (fun j => 1024 * obj f d 0x3100 j)).sum

/-- A selected vault slot (R411). -/
def slotView (f : Fuses) (d : Dev) (sub : Nat) : List Byte :=
  let s := obj f d 0x6000 4
  let h := match SMap.find? d.vault.slots s with
    | some k => k.header
    | none => []
  match sub with
  | 5 => leBytes 1 (if h.isEmpty then 0 else 1)
  | 6 => leBytes 4 (field h 4 4)
  | 7 => leBytes 1 (field h 3 1)
  | _ => leBytes 4 (SMap.get 0 d.vault.gens s)

/-- The selected group (R324). -/
def groupView (f : Fuses) (d : Dev) (sub : Nat) : List Byte :=
  let g := SMap.get ({} : Group) d.groups (obj f d 0x8000 0)
  match sub with
  | 0 => leBytes 1 g.state
  | 1 => leBytes 2 g.epoch
  | 2 => leBytes 4 g.seq
  | 3 => leBytes 32 g.present
  | 4 => leBytes 4 g.reforms
  | 5 => leBytes 8 g.stale
  | 6 => leBytes 4 g.slowRx
  | _ => leBytes 8 g.trunc

/-- The selected holder (R388). -/
def holderView (f : Fuses) (d : Dev) (o : Obj) (idx sub : Nat) : List Byte :=
  let h := SMap.get ({} : Holder) d.holders (obj f d 0x5000 0x1A)
  if idx = 0x5002 then leBytes o.len (h.counts.getD sub 0)
  else match sub with
    | 0 => leBytes 1 h.state.code
    | 1 => leBytes 4 h.openRound
    | 2 => leBytes 2 h.epoch
    | 3 => leBytes 8 h.present
    | 4 => leBytes 8 h.lastAdmit
    | 5 => leBytes 1 h.coord
    | _ => leBytes 1 h.misses

/-- The selected arbiter (R515, R518).  A transfer ends in the command that grants it, so FROZEN follows FREEZE. -/
def arbView (f : Fuses) (d : Dev) (o : Obj) (sub : Nat) : List Byte :=
  let a := d.arb (obj f d 0x8100 0)
  match sub with
  | 1 => leBytes 1 (if a.freeze then 1 else 0)
  | 2 => leBytes 1 (if a.freeze then 1 else 0)
  | n => leBytes o.len (a.counts.getD (n - 3) 0)

/-- A core's diagnostic object that shows its threads (R134). -/
def coreView (d : Dev) (c sub : Nat) : List Byte :=
  let k := d.core c
  match sub with
  | 0 => leBytes 1 k.f.state.code
  | 1 => leBytes 2 k.f.status
  | 2 => leBytes 2 k.f.pc
  | 3 => leBytes 1 k.b.state.code
  | 4 => leBytes 2 k.b.status
  | 5 => leBytes 2 k.b.pc
  | 6 => k.f.fault.toBytes
  | 7 => k.b.fault.toBytes
  | 8 => ((List.range 128).map (fun i => leBytes 2 (SMap.get 0 k.tokens i))).flatten
  | _ => ((List.range 64).map (fun i => leBytes 2 (SMap.get 0 k.credits i))).flatten

/-- Devices the system is configured for (R566). -/
def systemSize (f : Fuses) (d : Dev) : Nat :=
  obj f d 0x4000 5 * obj f d 0x4000 6 * obj f d 0x4000 7 * max 1 (bitList 64 (obj f d 0x5000 0xA)).length

/-- Heartbeat mode is in force, HB_ACTIVE (R566). -/
def hbActive (f : Fuses) (d : Dev) : Bool := decide (obj f d 0xA050 0 = 1) || decide (systemSize f d > 64)

/-- FW_VERSION and FW_VALID (R562). -/
def bankVersion (d : Dev) (b : Nat) : Nat := match d.rst.banks.getD b none with | some v => v.1 | none => 0
def bankValid (d : Dev) : Nat := (if (d.rst.banks.getD 0 none).isSome then 1 else 0) + (if (d.rst.banks.getD 1 none).isSome then 2 else 0)

/-- A write report as its bytes (R485). -/
def ReportEntry.bytes (e : ReportEntry) : List Byte :=
  leBytes 2 e.idx ++ leBytes 1 e.sub ++ leBytes 1 e.cause ++ leBytes 2 e.bit ++ leBytes 1 e.width ++ zeros 1 ++
    leBytes 8 e.requested ++ leBytes 8 e.applied

def Report.bytes (r : Report) : List Byte :=
  let l := r.entries.take 64
  leBytes 4 r.seq ++ leBytes 2 r.status ++ leBytes 2 l.length ++ leBytes 4 (r.entries.length - l.length) ++ zeros 4 ++
    (l.map ReportEntry.bytes).flatten

/-! ## Reading an object -/

/-- What the Dictionary keeps for a principal. -/
def Dev.prin (d : Dev) (p : Nat) : PrincipalState := SMap.get {} d.princ p

def Dev.setPrin (d : Dev) (p : Nat) (x : PrincipalState) : Dev := { d with princ := d.princ.put p x }

/-- Objects a context holds its own values of (R191, R196, R241, R288, R413). -/
def perContext (idx : Nat) : Bool := idx == 0x3190 || idx == 0x3191 || idx == 0xB010 || idx == 0x9000 || idx == 0x3141

/-- The index an object of a principal is stored under. -/
def storeIdx (prin idx : Nat) : Nat := if perContext idx && decide (prin < 4096) then ctxIdx prin idx else idx

/-- The committed value of an object that the store does not hold as it stands, as its bytes; none for the others. -/
def shownBytes (f : Fuses) (d : Dev) (prin : Nat) (o : Obj) (idx sub : Nat) : Option (List Byte) :=
  let num := fun (n : Nat) => some (leBytes o.len n)
  if idx < 0x1200 then some (identityBytes f d o idx sub)
  else if 0x3031 ≤ idx ∧ idx < 0x3040 then none
  else match idx, sub with
    | 0x2100, 3 => num (if d.power.waiting.isSome then 1 else 0)
    | 0x2200, 1 => some (SMap.get (zeros 64) d.power.ageLog (obj f d 0x2200 0))
    | 0x3000, 1 => num f.hbm
    | 0x3000, 2 => num (jobTop f d)
    | 0x3000, 3 => num (f.extMem - 4096 * (d.mem.retired.length + d.mem.retiring.length))
    | 0x3020, s => if 8 ≤ s then num ((regionBases f d).getD (s - 8) 0) else none
    | 0x3040, 1 => num d.mem.retired.length
    | 0x3040, 2 => some (((d.mem.retired.map (leBytes 4)).flatten).take 65536)
    | 0x3040, 3 => num d.mem.pending.length
    | 0x3050, s => num (stackOf f d s).state.code
    | 0x3100, s => if 8 ≤ s then num (partBase f d (s - 8)) else none
    | 0x3141, s => if prin < 4096 then some (claimView f d prin s) else none
    | 0x4020, 2 => some (ringStatusBytes d)
    | 0x4000, 9 => num (partWord f d)
    | 0x4000, 4 => num (16 - obj f d 0x4000 1 - obj f d 0x4000 2 - obj f d 0x4000 3)
    | 0x5001, s => some (holderView f d o 0x5001 s)
    | 0x5002, s => some (holderView f d o 0x5002 s)
    | 0x6000, 0 => num d.vault.state.code
    | 0x6000, 9 => num ((d.vault.slots.map (fun p => 2 ^ p.1)).sum)
    | 0x6000, s => if 5 ≤ s ∧ s ≤ 8 then some (slotView f d s) else none
    | 0x8001, s => some (groupView f d s)
    | 0x8100, s => if s = 0 then none else some (arbView f d o s)
    | 0x9020, 0 => num d.proof.state
    | 0xA000, 4 => some (slice (d.rst.history.flatten) 0 512)
    | 0xA010, s => if s = 0 then num (ctr d 0x9020 2) else if s < 8 ∧ f.stepA0 then num (Config.backupDev s).toNat else none
    | 0xA020, 1 => num d.rst.bankNext
    | 0xA020, 2 => num (bankVersion d 0)
    | 0xA020, 3 => num (bankVersion d 1)
    | 0xA020, 4 => num (obj f d 0xA020 4)
    | 0xA020, 5 => num (bankValid d)
    | 0xA030, 3 => num (progressOf f d (obj f d 0xA030 2))
    | 0xA050, 1 => num (if hbActive f d then 1 else 0)
    | 0xA200, 0 => some (dumpBytes f d 0 64)
    | 0xA210, 1 => some (errRecord f d (obj f d 0xA210 0))
    | 0xA210, 3 => some (flashRecord d (obj f d 0xA210 2))
    | 0xC000, 0 => num d.now
    | 0xE000, 0 => some (slice f.mac 0 6)
    | 0xE000, 1 => num f.uid
    | 0xE000, 3 => some (linkLocal f)
    | 0xE000, 0xA => num d.host.senders.length
    | 0xF000, 2 => num (d.prin prin).staged.length
    | 0xF000, 3 => num ((d.prin prin).staged.map Staged.len).sum
    | 0xF000, 8 => some (d.prin prin).report.bytes
    | 0xF000, 0x11 => some (handleRecord d (obj f d 0xF000 0x10))
    | i, s =>
      if (i = 0x4010 ∨ (0x4011 ≤ i ∧ i ≤ 0x4015)) ∧ s = 0 then num (d.port (i - 0x4010)).state.code
      else if (i = 0x5010 ∨ i = 0x5011) ∧ s = 0 then num (lhState f d (i - 0x5010))
      else if 0x7000 ≤ i ∧ i < 0x8000 then
        let g := i - 0x7000
        match s with
        | 0 => num (d.ctx g).state.code
        | 0x10 => num (mappedBytes d g)
        | 0x13 => num (handlesUsed d g)
        | 0x21 => some (handleRecord d (obj f d i 0x20))
        | _ => none
      else if 0xA100 ≤ i ∧ i < 0xA180 ∧ s ≤ 9 then
        if i - 0xA100 < f.cores then some (coreView d (i - 0xA100) s) else none
      else none

/-- An object's default as bytes (R13). -/
def defaultBytes (f : Fuses) (o : Obj) (idx sub : Nat) : List Byte :=
  if o.ty = .str then [] else if o.ty = .cmd then zeros 4
  else if idx = 0xF000 ∧ sub = 8 then zeros 16
  else if idx = 0xA200 ∧ sub = 1 then []
  else leBytes o.len (objDefault f idx sub)

/-- The committed value of an object as a principal that reaches it reads it (R483): zeros for a WO object, the last
handle for a CMD object. -/
def valueBytes (f : Fuses) (d : Dev) (prin : Nat) (o : Obj) (idx sub : Nat) : List Byte :=
  match o.acc with
  | .wo => zeros o.len
  | .cmd => leBytes 4 (SMap.get 0 (d.prin prin).handles (ob idx sub))
  | _ =>
    match shownBytes f d prin o idx sub with
    | some l => l
    | none => if o.ty = .str then (if (SMap.find? d.objs (ob idx sub)).isSome then leBytes o.len (ctr d idx sub) else [])
              else leBytes o.len (obj f d (storeIdx prin idx) sub)

end Sys2Proof.Machine
end

