-- ==== Sys2Proof/Machine/Mgmt.lean ====
section
/-! DEFINITION. The frames of the management port and its transmit queue (R12, R499). -/

namespace Sys2Proof.Machine

/-- Addresses of senders on the torus begin here; those of the management port lie below: the IPv6 address at [127:0], the UDP port at
[143:128], the MAC address at [191:144] (R499). -/
abbrev torusBase : Nat := 2 ^ 192

/-! The frames of the management port (R12, R499): Ethernet, IPv6 and UDP in their standards' byte order -/

/-- ff02::1. -/
def allNodes : List Byte := [0xFF#8, 0x02#8] ++ zeros 13 ++ [1#8]

/-- The solicited-node address of LINK_LOCAL (RFC 4291). -/
def solicitedNode (f : Fuses) : List Byte := [0xFF#8, 0x02#8] ++ zeros 9 ++ [1#8, 0xFF#8] ++ (linkLocal f).drop 13

/-- The Ethernet address of an IPv6 multicast address (RFC 2464). -/
def multicastMac (ip : List Byte) : List Byte := [0x33#8, 0x33#8] ++ ip.drop 12

/-- An IPv6 packet of the management port; its traffic class and flow label are free values. -/
def ip6 (src dst : List Byte) (next hops : Nat) (l : List Byte) : List Byte :=
  beBytes 4 (6 * 2 ^ 28 + Config.mgmtFlow.toNat) ++ beBytes 2 l.length ++ leBytes 1 next ++ leBytes 1 hops ++ src ++ dst ++ l

/-- An Ethernet frame of the management port around an IPv6 packet. -/
def mgmtEther (f : Fuses) (mac ip : List Byte) : List Byte :=
  let b := mac ++ slice f.mac 0 6 ++ beBytes 2 0x86DD ++ ip
  b ++ ethFcs b

/-- The frame that carries a WDP frame to an address of the management port: from WDP_PORT to the port the request came from, with a
free hop limit. -/
def mgmtFrame (f : Fuses) (d : Dev) (addr : Nat) (l : List Byte) : List Byte :=
  let dst := beBytes 16 (addr % 2 ^ 128)
  mgmtEther f (beBytes 6 (addr / 2 ^ 144 % 2 ^ 48))
    (ip6 (linkLocal f) dst 17 Config.mgmtHops.toNat (udpPacket (linkLocal f) dst (obj f d 0xE000 4) (addr / 2 ^ 128 % 2 ^ 16) l))

/-- The WDP frame in an Ethernet frame received on the management port (R499): the address it came from, whether it was sent to
ff02::1, and its bytes; none where the frame is damaged, or is not a UDP datagram to this module's WDP_PORT. -/
def mgmtParse (f : Fuses) (d : Dev) (fr : List Byte) : Option (Nat × Bool × List Byte) :=
  match lhBody fr with
  | none => none
  | some b =>
    let ip := b.drop 14
    let n := beNat (slice ip 4 2)
    let (src, dst, udp) := (slice ip 8 16, slice ip 24 16, slice ip 40 n)
    if slice b 12 2 = beBytes 2 0x86DD ∧ beNat (slice ip 0 1) / 16 = 6 ∧ slice ip 6 1 = [17#8] ∧ n ≥ 8 ∧ ip.length ≥ 40 + n ∧
        ((slice b 0 6 = slice f.mac 0 6 ∧ dst = linkLocal f) ∨ (slice b 0 6 = multicastMac allNodes ∧ dst = allNodes)) ∧
        beNat (slice udp 2 2) = obj f d 0xE000 4 ∧ beNat (slice udp 4 2) = n ∧ beNat (slice udp 6 2) ≠ 0 ∧
        inetSum (src ++ dst ++ beBytes 4 n ++ zeros 3 ++ [17#8] ++ udp) = 65535 then
      some (beNat src + 2 ^ 128 * beNat (slice udp 0 2) + 2 ^ 144 * beNat (slice b 6 6), decide (dst = allNodes), udp.drop 8)
    else none

/-- The cycles a frame takes on the line with its preamble and its gap, at 10 Mb/s (R499, R500). -/
def lineCycles (l : List Byte) : Nat := (l.length + 20) * 8 * usCycles / 10

/-- A frame leaves on the management port at once where the line is free, else it joins the transmit queue of 16; false where it is
dropped (R499). -/
def mgmtTx (d : Dev) (l : List Byte) : Dev × Bool :=
  if d.host.txq.isEmpty && decide (d.host.txFree ≤ d.cyc) then
    ({ d with host := { d.host with txFree := d.cyc + lineCycles l } }.emit (.mgmt l), true)
  else if d.host.txq.length < 16 then ({ d with host := { d.host with txq := d.host.txq ++ [l] } }, true)
  else (d.bump 0xE000 0x17 64 1, false)

/-- The management port works: it is silent in a POR until step 1 of start-up (R554). -/
def mgmtUp (d : Dev) : Bool :=
  d.rst.aux && !(decide (ctr d 0xA000 0 = 0) && (match d.rst.cur with | some r => r.kind == .por | none => false))

/-- A frame that is not a WDP frame is sent on the management port. -/
def mgmtSend (d : Dev) (l : List Byte) : Dev := (mgmtTx d l).1

/-- The next frame of the transmit queue leaves once the line is free (R499). -/
def mgmtCycle (d : Dev) : Dev :=
  match d.host.txq with
  | l :: rest =>
    if d.host.txFree ≤ d.cyc then { d with host := { d.host with txq := rest, txFree := d.cyc + lineCycles l } }.emit (.mgmt l) else d
  | [] => d

/-! ## ICMPv6 (R499) -/

/-- An ICMPv6 message between two addresses with its checksum: its bytes before the checksum and after it (RFC 4443). -/
def icmp6 (src dst head tail : List Byte) : List Byte :=
  let n := head.length + 2 + tail.length
  let c := 65535 - inetSum (src ++ dst ++ beBytes 4 n ++ zeros 3 ++ [58#8] ++ head ++ zeros 2 ++ tail)
  head ++ beBytes 2 c ++ tail

/-- The Neighbour Advertisement for LINK_LOCAL (R499; RFC 4861): solicited where the solicitation came from an address. -/
def neighbourAdvert (f : Fuses) (dst : List Byte) (solicited : Bool) : List Byte :=
  icmp6 (linkLocal f) dst [136#8, 0#8]
    ([(if solicited then 0x60#8 else 0x20#8), 0#8, 0#8, 0#8] ++ linkLocal f ++ [2#8, 1#8] ++ slice f.mac 0 6)

/-- An ICMPv6 frame of the management port, with hop limit 255 (RFC 4861). -/
def icmpFrame (f : Fuses) (mac src dst msg : List Byte) : List Byte := mgmtEther f mac (ip6 src dst 58 255 msg)

/-- The Neighbour Solicitation of duplicate address detection (R499; RFC 4862). -/
def dadFrame (f : Fuses) : List Byte :=
  let dst := solicitedNode f
  icmpFrame f (multicastMac dst) (zeros 16) dst (icmp6 (zeros 16) dst [135#8, 0#8] (zeros 4 ++ linkLocal f))

/-- The sender of a good Neighbour Solicitation for LINK_LOCAL in an Ethernet frame (RFC 4861, 7.1.1): its MAC and its address. -/
def solicitor (f : Fuses) (fr : List Byte) : Option (List Byte × List Byte) :=
  match lhBody fr with
  | none => none
  | some b =>
    let ip := b.drop 14
    let n := beNat (slice ip 4 2)
    let (src, dst, msg) := (slice ip 8 16, slice ip 24 16, slice ip 40 n)
    if slice b 12 2 = beBytes 2 0x86DD ∧ beNat (slice ip 0 1) / 16 = 6 ∧ slice ip 6 2 = [58#8, 255#8] ∧ n ≥ 24 ∧ ip.length ≥ 40 + n ∧
        ((slice b 0 6 = slice f.mac 0 6 ∧ dst = linkLocal f) ∨ (slice b 0 6 = multicastMac dst ∧ dst = solicitedNode f)) ∧
        slice msg 0 2 = [135#8, 0#8] ∧ slice msg 8 16 = linkLocal f ∧
        inetSum (src ++ dst ++ beBytes 4 n ++ zeros 3 ++ [58#8] ++ msg) = 65535 then
      some (slice b 6 6, src)
    else none

end Sys2Proof.Machine
end

