-- ==== Sys2Proof/Machine/Recovery.lean ====
section
/-! DEFINITION. Units and their progress, crash dumps, engine resets, stalls, withdrawal and test of cores (R564, R565,
R576 to R584). -/

namespace Sys2Proof.Machine

/-! ## Unit IDs (R564) -/

def unitClass (u : Nat) : Nat := u / 4096
def unitTile (u : Nat) : Nat := u / 256 % 16
def unitInst (u : Nat) : Nat := u % 256

/-- A unit ID names a unit that is present (R564, R580). -/
def unitExists (f : Fuses) (u : Nat) : Bool :=
  let (t, i) := (unitTile u, unitInst u)
  match unitClass u with
  | 1 => decide (t = 0 ∧ i < f.cores)
  | 2 => decide (i < 2)
  | 3 => decide (i < 2)
  | 4 => decide (i < 2) && stackFitted f (2 * t + i)
  | 5 => decide (t = 0 ∧ i < 6)
  | 6 | 7 | 8 => f.longHaul && (decide (t = 0 ∧ i = 0) || decide (t = 15 ∧ i = 1))
  | 9 => decide (i = 0)
  | _ => false

/-- The tile carries the active CMC or the active PCIe port (R580). -/
def ioActive (f : Fuses) (d : Dev) (t : Nat) : Bool :=
  let at_ := fun (v : Nat) => if v = 0 then 0 else 15
  decide (at_ (obj f d 0xA050 7) = t) || decide (at_ (obj f d 0xD000 0) = t)

/-- The cores of a tile. -/
def tileCores (f : Fuses) (t : Nat) : List Nat := (List.range f.coresPerTile).map (fun k => f.coresPerTile * t + k)

/-- The units of a tile (R580). -/
def tileUnits (f : Fuses) (t : Nat) : List Nat :=
  (tileCores f t).map coreUnit ++ [0x2000 + 256 * t, 0x2001 + 256 * t, 0x3000 + 256 * t, 0x3001 + 256 * t] ++
    (([0, 1].map (fun p => 0x4000 + 256 * t + p)).filter (unitExists f)) ++
    (((List.range 6).filter (fun p => (portTiles p).contains t)).map (0x5000 + ·)) ++
    (if t = 0 ∨ t = 15 then ([6, 7, 8].map (fun c => 4096 * c + 256 * t + (if t = 0 then 0 else 1))).filter (unitExists f) else [])

/-! ## Crash dumps (R576 to R578) -/

/-- The directory of the crash dump region (R577). -/
def dumpDirectory (d : Dev) : List Byte :=
  let b := leBytes 4 0x5F0A1CB1 ++ leBytes 2 1 ++ zeros 2 ++ leBytes 8 d.recov.dumpNext ++ leBytes 4 d.recov.dumpRecords ++
    leBytes 4 d.recov.dumpWraps
  b ++ leBytes 4 (crc32c (b.take 20))

/-- A dump record is written and the directory follows (R577).  `body` is what follows the header, `sample` the Plate
sample. -/
def writeDump (f : Fuses) (d : Dev) (u trigger status phys : Nat) (body sample : List Byte) : Dev :=
  let pad := fun (l : List Byte) => l ++ zeros ((4096 - l.length % 4096) % 4096)
  let so := if sample.isEmpty then 0 else 4096 * ceilDiv (64 + body.length) 4096
  let len := 4096 * ceilDiv (64 + body.length) 4096 + 4096 * ceilDiv sample.length 4096
  let h := leBytes 4 0x5F0A1CB0 ++ leBytes 2 1 ++ leBytes 1 (unitClass u) ++ leBytes 1 trigger ++ leBytes 2 u ++ leBytes 2 status ++
    leBytes 4 (ctr d 0xE000 2) ++ leBytes 8 d.now ++ leBytes 4 len ++ leBytes 4 so ++ leBytes 4 sample.length ++ leBytes 1 phys ++
    zeros 23
  let r := pad (h ++ leBytes 4 (crc32c h) ++ body) ++ pad sample
  let wrap := decide (d.recov.dumpNext + len > usableLen f d 6)
  let off := if wrap then 65536 else d.recov.dumpNext
  let d := writeRuns f d d.cmcWho (placeRuns f d 6 off len) r
  let d := { d with recov := { d.recov with
    dumpNext := off + len, dumpRecords := d.recov.dumpRecords + 1, dumpWraps := d.recov.dumpWraps + (if wrap then 1 else 0) } }
  writeRuns f d d.cmcWho (placeRuns f d 6 0 28) (dumpDirectory d)

/-- A queue in a core record (R578). -/
def queueDump (q : Queue) (c : QCfg) : List Byte :=
  leBytes 2 q.rp ++ leBytes 2 q.wp ++ leBytes 2 (q.items.filter (fun i => i.delivered)).length ++
    leBytes 1 (q.items.filter (fun i => !i.delivered)).length ++ leBytes 1 c.log2 ++ leBytes 1 c.token ++ zeros 7

/-- The producers in assembly of a queue (R578). -/
def producerDump (q : Queue) : List Byte :=
  slice (((q.items.filter (fun i => !i.delivered)).map (fun i =>
    leBytes 4 (i.prod.dev + 2 ^ 16 * (i.prod.tile % 16) + 2 ^ 20 * (i.prod.core % 128) + 2 ^ 27 * (i.prod.unit % 16) + 2 ^ 31))).flatten) 0 32

/-- The groups whose CORES include a core, the 16 lowest (R578). -/
def groupDump (f : Fuses) (d : Dev) (c : Nat) : List Byte :=
  let gs := ((d.groups.map Prod.fst).filter (fun g => (groupDesc f d g).cores.testBit c)).take 16
  slice ((gs.map (fun g => let x := d.group g
    leBytes 2 g ++ leBytes 2 x.epoch ++ leBytes 4 x.seq ++ leBytes 1 x.state ++ zeros 7)).flatten) 0 256

/-- The stroke images of a mover channel (R578). -/
def moveDump (k : Core) (l : List MoveOp) : List Byte :=
  slice ((l.map (fun m => leBytes 16 (SMap.get 0 k.store m.stroke))).flatten) 0 64

/-- The part of a core record that follows its header, up to byte 4,096 (R578). -/
def coreDumpBody (f : Fuses) (d : Dev) (c : Nat) : List Byte :=
  let k := d.core c
  let l := k.f.fault.toBytes ++ k.b.fault.toBytes ++
    ((List.range 128).map (fun i => leBytes 2 (SMap.get 0 k.tokens i))).flatten ++
    ((List.range 64).map (fun i => leBytes 2 (SMap.get 0 k.credits i))).flatten ++
    ((k.f.lc ++ k.b.lc).map (leBytes 4)).flatten ++
    leBytes 1 k.f.flags.toNat ++ leBytes 1 k.b.flags.toNat ++ leBytes 1 k.f.state.code ++ leBytes 1 k.b.state.code ++
    leBytes 2 k.f.pc ++ leBytes 2 k.b.pc ++
    ((List.range 4).map (fun i => queueDump (k.queues.getD i {}) (k.qcfg.getD i {}))).flatten ++
    ((List.range 4).map (fun i => producerDump (k.queues.getD i {}))).flatten ++
    groupDump f d c ++ moveDump k k.movF ++ moveDump k k.movB
  slice l 0 4032

/-- The Plate sample of a core record, wrapping at C00000h (R578). -/
def plateSample (f : Fuses) (d : Dev) (c : Nat) : List Byte :=
  let (b, n) := (obj f d 0xA031 0x11, 1024 * obj f d 0xA031 0x12)
  let m := (d.core c).plate
  if b + n ≤ 0xC00000 then readBytes m b n else readBytes m b (0xC00000 - b) ++ readBytes m 0 (b + n - 0xC00000)

/-- A core's dump record (R578). -/
def coreDump (f : Fuses) (d : Dev) (c trigger status : Nat) : Dev :=
  writeDump f d (coreUnit c) trigger status (f.physOf c) (coreDumpBody f d c) (plateSample f d c)

/-- A WDP item (R492): its header and its value, padded. -/
def wdpItem (idx sub flags status off : Nat) (v : List Byte) (len : Nat) : List Byte :=
  leBytes 2 idx ++ leBytes 1 sub ++ leBytes 1 flags ++ leBytes 2 status ++ leBytes 2 len ++ leBytes 4 off ++ v ++
    zeros ((4 - v.length % 4) % 4)

/-- The objects of a unit's chapter, as index ranges (R505, R578). -/
def chapterRange (cls : Nat) : Nat × Nat :=
  match cls with
  | 2 => (0x9000, 0x90FF)
  | 3 => (0xB000, 0xB1FF)
  | 4 => (0x3000, 0x30FF)
  | 5 => (0x4000, 0x41FF)
  | 7 => (0x6000, 0x6000)
  | _ => (0x5000, 0x51FF)

/-- One item for every object of a range, in ascending index.subindex, as context 0 reads them (R578; log entry 50). -/
def objectDump (f : Fuses) (d : Dev) (lo hi : Nat) : List Byte :=
  ((List.range (hi + 1 - lo)).map (fun k =>
    let i := lo + k
    ((List.range 256).filterMap (fun s => (objRow i s).map (fun o =>
      let v := valueBytes f d 0 o i s
      wdpItem i s 0 0 0 v v.length))).flatten)).flatten

/-- The queued operations or descriptors of a unit as raw bytes in arrival order, where the spec gives them a form (R578;
log entry 50). -/
def queueDumpOf (d : Dev) (u : Nat) : List Byte :=
  match unitClass u with
  | 3 =>
    let x := d.engine (2 * unitTile u + unitInst u)
    (((((match x.run with | some r => [r.op] | none => []) ++ x.queue).filter (fun o => o.seg.isNone)).map (fun o =>
      leBytes 16 (SMap.get 0 (d.core o.core).store o.stroke)))).flatten
  | 5 => (((d.port (unitInst u)).waiting.map Packet.bytes)).flatten
  | 7 => (((d.vault.ops.filter (fun o => o.engine == unitInst u)).map CipherOp.raw)).flatten
  | _ => []

/-- The dump record of a unit of classes 1 to 8 (R576, R578). -/
def unitDump (f : Fuses) (d : Dev) (u trigger status : Nat) : Dev :=
  if unitClass u = 1 then coreDump f d (unitInst u) trigger status
  else
    let (lo, hi) := chapterRange (unitClass u)
    writeDump f d u trigger status (unitTile u) (objectDump f d lo hi ++ queueDumpOf d u) []

/-! ## Engine resets (R580, R581) -/

/-- The regions a held CODE operation writes, with free contents: its outputs are undefined, its completion record holds
ENGINE_RESET (R580). -/
def resetOuts (d : Dev) (o : CodeOp) (obj_ : Nat → Nat → Nat) : List OutPatch :=
  let g := (ctxOf d o.core).getD 4096
  let n := if o.op = 2 then 4096 * o.len else codedMax o.len
  if o.op = 0 then
    match ctxRuns d g true (obj_ (ctxIdx g 0xB010) 0 + 256 * o.book) 256 with
    | some rs => (Region.mem rs).put 0 (freeBytes d 256)
    | none => []
  else
    (match codeRegion d g true o.dstMem o.core o.dst n with
      | some r => r.put 0 (freeBytes d n)
      | none => []) ++
    (match codeRegion d g true o.recMem o.core o.recAt 16 with
      | some r => r.put 0 (leBytes 2 Status.engineReset ++ zeros 2 ++ freeBytes d 12)
      | none => [])

/-- A codec engine is reset (R580): each held operation completes with ENGINE_RESET as its thread's status and sends its
signal; a segment of the Intaglio engine comes back (R375). -/
def codecReset (f : Fuses) (d : Dev) (t e : Nat) : Dev :=
  let x := d.engine (2 * t + e)
  let ops := (match x.run with | some r => [r.op] | none => []) ++ x.queue
  (ops.filter (fun o => o.seg.isNone)).foldl (fun d o =>
    let d := spendFree ((resetOuts d o (obj f d)).foldl (applyOut f (engineWho t e o.stamp)) d) true
    signal f (recordStatus d o.core .F Status.engineReset) o.core o.sig o.stroke) (d.setEngine (2 * t + e) {})

/-- The freeze bits a unit's reset clears (R515, R581), by arbiter ID. -/
def unitArbs (u : Nat) : List Nat :=
  let (t, i) := (unitTile u, unitInst u)
  match unitClass u with
  | 4 => [0x1000 + 256 * t + i]
  | 5 => [0x4000 + i]
  | 6 => [0x5000 + 2 * i, 0x5001 + 2 * i]
  | 7 => [0x7000 + 256 * t]
  | 9 => (List.range 16).map (fun b => 0x2000 + 256 * t + b) ++ (List.range 5).map (fun b => 0x3000 + 256 * t + b) ++ [0x6000 + 256 * t]
  | _ => []

/-- What waits at the PCIe egress leaves as the arbiter grants it (R511): of each requester the oldest is raised.  A mailbox
response that leaves is there for its context.  The fuel is what waits. -/
def pcieGo : Nat → Dev → Dev
  | 0, d => d
  | n + 1, d =>
    let asks := d.host.heldOut.filterMap (fun p => (p.2.pcie).map (fun q => (p, { q with stamp := p.1 })))
    let heads := (List.range 6).filterMap (fun k => asks.find? (fun x => x.2.kind == k))
    match d.choose 0x8000 (heads.map Prod.snd) with
    | none => d
    | some q => match heads.find? (fun x => x.2 == q) with
      | none => d
      | some x =>
        let e := { d with out := x.1.2 :: d.out, host := { d.host with heldOut := d.host.heldOut.erase x.1 } }
        pcieGo n ((mboxLeft e x.1.2).grant 0x8000 q)

/-- An arbiter's FREEZE is written (R515): once it is 0 again, what waits goes on. -/
def setFreeze (f : Fuses) (d : Dev) (id : Nat) (v : Bool) : Dev :=
  let d := { d with arbs := d.arbs.put id { d.arb id with freeze := v } }
  if v then d
  else if 0x4000 ≤ id ∧ id < 0x4006 then pump d (id - 0x4000)
  else if id = 0x8000 then
    pcieGo d.host.heldOut.length d
  else if 0x1000 ≤ id ∧ id < 0x4000 then serveMemory f d
  else d

/-- The work in flight of a unit ends and its state is cleared (R580). -/
def unitClear (f : Fuses) (d : Dev) (u : Nat) : Dev :=
  let (t, i) := (unitTile u, unitInst u)
  let d := (unitArbs u).foldl (fun d a => setFreeze f d a false) d
  match unitClass u with
  | 1 => clearCore f d i
  | 2 => if d.proof.state ≠ 0 then proofAbort f d Status.engineReset else d
  | 3 => codecReset f d t i
  | 4 => quiesceStack f d (2 * t + i) .retraining
  | 5 => portRestart f d i
  | 6 => lhReset f d i
  | 7 => cipherReset f d i
  | 8 => igEngineReset f d i
  | _ => d

/-- What a tile's reset clears besides its units (R201, R230, R550). -/
def tileClear (f : Fuses) (d : Dev) (t : Nat) : Dev :=
  let d := (unitArbs (tileUnit t)).foldl (fun d a => setFreeze f d a false) d
  let home := fun (l : Nat) => homeTile f (256 * l) == t
  let gone := (d.mem.sets.map (fun p => p.2.filter (fun l => home l.line))).flatten
  let clean := (gone.filter (fun l => !l.dirty)).map TcLine.line
  let sets := (d.mem.sets.map (fun p => (p.1, p.2.filter (fun l => !home l.line)))).filter (fun p => p.2 != [])
  let d := { d with mem := { d.mem with
    sets := sets
    poison := (d.mem.hidden.filter (fun l => clean.contains l)) ++ d.mem.poison
    hidden := d.mem.hidden.filter (fun l => !home l) } }
  (((claimsOfTile d t).clearObjs (0x3060 + t) 0 9).clearObjs (0xA180 + t) 0 0).clearObjs (0xB020 + t) 0 0x17

/-- The cores whose issued writes a unit's reset waits for. -/
def unitCores (f : Fuses) (u : Nat) : List Nat :=
  if unitClass u = 1 then [unitInst u] else if unitClass u = 9 then tileCores f (unitTile u) else []

/-- The crash dump region can be written: no stack is out of service (R231, R576); a FAILED one discards its lines (R232). -/
def dumpReady (f : Fuses) (d : Dev) : Bool :=
  (List.range 32).all (fun i => match (stackOf f d i).state with
    | .ready | .failed | .absent => true
    | _ => false)

/-- Some steps of a reset (R576, R580): the unit takes no new work and its issued writes complete; then its dump is written
and its state cleared.  It waits while a write, or the dump, cannot complete. -/
def workReset (f : Fuses) (d : Dev) (r : ResetRun) : Dev :=
  if r.cleared then d
  else
    let cs := unitCores f r.unit
    let d := cs.foldl (fun d c => drainCore f (silence d c) c) d
    if cs.all (drained d) = false ∨ (r.noDump = false ∧ dumpReady f d = false) then d
    else
      let us := if unitClass r.unit = 9 then tileUnits f (unitTile r.unit) else [r.unit]
      let d := if r.noDump then d else us.foldl (fun d u => unitDump f d u r.trigger r.status) d
      let d := { d with resets := d.resets.map (fun x => if x.unit = r.unit then { x with cleared := true } else x) }
      let d := us.foldl (unitClear f) d
      if unitClass r.unit = 9 then tileClear f d (unitTile r.unit) else d

/-- A tile's reset that covers a unit (R581). -/
def coveringReset (f : Fuses) (d : Dev) (u : Nat) : Option Nat :=
  (d.resets.find? (fun r => unitClass r.unit == 9 && (tileUnits f (unitTile r.unit)).contains u)).map ResetRun.unit

/-- A unit reset is taken (R580, R581): it joins one under way on the unit or its tile; a tile's reset takes over those of
its units. -/
def resetUnit (f : Fuses) (d : Dev) (u trigger status : Nat) (noDump : Bool) (hs : List Nat) : Dev :=
  let tgt := (coveringReset f d u).getD u
  let mine := if unitClass u = 9 then d.resets.filter (fun r => (tileUnits f (unitTile u)).contains r.unit) else []
  let d := { d with resets := d.resets.filter (fun r => !(mine.any (fun m => m.unit == r.unit))) }
  let r : ResetRun := { unit := tgt, trigger := trigger, status := status, handles := hs ++ (mine.map ResetRun.handles).flatten,
                        noDump := noDump, since := d.cyc }
  joinReset d tgt r (fun d => workReset f d r)

/-- ENGINE_RESET's argument (R580): reserved bits are 0 and the unit is present. -/
def engineResetArgOk (f : Fuses) (a : Nat) : Bool := decide (bits a 31 17 = 0) && unitExists f (bits a 15 0)

/-- ENGINE_RESET (R580). -/
def engineReset (f : Fuses) (d : Dev) (h a : Nat) : Dev :=
  let u := bits a 15 0
  if unitClass u = 9 ∧ ioActive f d (unitTile u) then completeHandle f d h Status.ioActive 0
  else resetUnit f d u 0 0 (bit a 16) [h]

/-- CORE RESET (R474, R580): it acts as ENGINE_RESET of class 1 on each core named. -/
def coreResetCmd (f : Fuses) (d : Dev) (h g mask : Nat) : Dev :=
  let st := coresRefused f d g mask
  let cs := bitList 128 mask
  if st ≠ 0 ∨ cs.isEmpty then completeHandle f d h st 0
  else cs.foldl (fun d c => resetUnit f d (coreUnit c) 0 0 false [h]) d

/-- The row CORE_RESET of a context's command ring. -/
def coreResetRow (g : Nat) (f : Fuses) (d : Dev) : Dev :=
  startEntry f d g (isCore 4) (fun d h b => coreResetCmd f d h g (field b 80 16))

/-- Milliseconds of the model's cycles (R10). -/
def msOf (n : Nat) : Nat := n / (1000 * usCycles)

/-- UNPLANNED_MS gains an interval that is not maintenance (R586). -/
def unplanned (f : Fuses) (d : Dev) (cycles : Nat) : Dev :=
  if obj f d 0xA060 1 = 1 then d else d.bump 0xA060 0 64 (msOf cycles)

/-- What a unit waits for before its reset can end: training, a self-test. -/
def resetReady (f : Fuses) (d : Dev) (u : Nat) : Bool :=
  let stack := fun (i : Nat) => match (stackOf f d i).state with | .retraining | .calibrating | .selfRefresh => false | _ => true
  match unitClass u with
  | 4 => stack (2 * unitTile u + unitInst u)
  | 5 => untrained f d (unitInst u) ||
    (match (d.port (unitInst u)).state with | .disabled | .up | .degraded | .restored | .miswired => true | _ => false)
  | 7 => decide (d.vault.state ≠ .recovery)
  | 9 => stack (2 * unitTile u) && stack (2 * unitTile u + 1) && decide (d.vault.state ≠ .recovery)
  | _ => true

/-! ## Withdrawal, test and reinstatement (R582 to R584) -/

/-- The number of withdrawn cores. -/
def withdrawnCount (d : Dev) : Nat := (bitList 128 (ctr d 0xA040 0)).length

/-- The reset of a core that is being withdrawn has ended (R582). -/
def finishWithdraw (f : Fuses) (d : Dev) (r : WdReq) : Dev :=
  let d := d.setObj 0xA040 0 (ctr d 0xA040 0 ||| 2 ^ r.core)
  let keep := 2 ^ 128 - 1 - 2 ^ r.core
  let q := { d.recov with tested := d.recov.tested &&& keep, failing := d.recov.failing &&& keep }
  let d : Dev := { d with recov := q, coreFaults := d.coreFaults.del r.core }
  let d := d.log Status.coreWithdrawn 5 (coreUnit r.core) (f.physOf r.core) []
  completeOpt f (eventAllFree f d Status.coreWithdrawn) r.handle 0 0

/-- A withdrawal is refused (R582, R583): one of the CMC's own at the limit is logged and posted. -/
def refuseWithdraw (f : Fuses) (d : Dev) (r : WdReq) (st : Nat) : Dev :=
  match r.handle with
  | some h => completeHandle f d h st 0
  | none =>
    let q := { d.recov with failing := d.recov.failing &&& (2 ^ 128 - 1 - 2 ^ r.core) }
    let d : Dev := { d with coreFaults := d.coreFaults.del r.core, recov := q }
    if st = Status.withdrawLimit then
      eventAllFree f (d.log st 3 (coreUnit r.core) (f.physOf r.core) []) st
    else d

/-- The next withdrawal, test or reinstatement begins (R582 to R584): true when it runs on. -/
def beginWd (f : Fuses) (d : Dev) (r : WdReq) : Dev × Bool :=
  if r.core ≥ f.cores then (refuseWithdraw f d r Status.noCore, false)
  else if r.op = 0 then
    if withdrawn d r.core then (refuseWithdraw f d r 0, false)
    else if (d.core r.core).busy then (refuseWithdraw f d r Status.coreBusy, false)
    else if withdrawnCount d ≥ 16 then (refuseWithdraw f d r Status.withdrawLimit, false)
    else (resetUnit f d (coreUnit r.core) 0 Status.coreWithdrawn false [], true)
  else if r.op = 1 then
    if withdrawn d r.core = false then (completeOpt f d r.handle Status.notWithdrawn 0, false)
    else
      let st := if r.result = 0 then 0 else Status.testFail
      let t := if r.result = 0 then d.recov.tested ||| 2 ^ r.core else d.recov.tested &&& (2 ^ 128 - 1 - 2 ^ r.core)
      let d := { d with recov := { d.recov with tested := t } }
      let d := d.log st 3 (coreUnit r.core) (f.physOf r.core) [r.result]
      (completeOpt f d r.handle st r.result, false)
  else if withdrawn d r.core = false then (completeOpt f d r.handle 0 0, false)
  else if d.recov.tested.testBit r.core = false then (completeOpt f d r.handle Status.notTested 0, false)
  else
    let d := d.setObj 0xA040 0 (ctr d 0xA040 0 &&& (2 ^ 128 - 1 - 2 ^ r.core))
    (completeOpt f (d.log 0 6 (coreUnit r.core) (f.physOf r.core) []) r.handle 0 0, false)

/-- Withdrawals, tests and reinstatements go on one at a time (R582).  The fuel is the number that wait. -/
def wdRun (f : Fuses) : Nat → Dev → Dev
  | 0, d => d
  | n + 1, d =>
    match d.recov.wd with
    | [] => d
    | r :: rest =>
      if d.recov.wdBusy then
        if coreInReset f d r.core then d
        else wdRun f n (finishWithdraw f { d with recov := { d.recov with wd := rest, wdBusy := false } } r)
      else
        let (d, busy) := beginWd f d r
        if busy then { d with recov := { d.recov with wdBusy := true } }
        else wdRun f n { d with recov := { d.recov with wd := rest } }

/-- A request joins the queue (R582). -/
def wdRequest (f : Fuses) (d : Dev) (r : WdReq) : Dev :=
  wdRun f (d.recov.wd.length + 1) { d with recov := { d.recov with wd := d.recov.wd ++ [r] } }

/-- CORE_WITHDRAW (R582), CORE_TEST and REINSTATE (R584). -/
def coreWithdraw (f : Fuses) (d : Dev) (h c : Nat) : Dev := wdRequest f d { op := 0, core := c, handle := some h }
def coreTest (f : Fuses) (d : Dev) (h c result : Nat) : Dev := wdRequest f d { op := 1, core := c, handle := some h, result := result % 2 ^ 24 }
def reinstate (f : Fuses) (d : Dev) (h c : Nat) : Dev := wdRequest f d { op := 2, core := c, handle := some h }

/-- The cores the CMC is to withdraw on its own (R583): three faults within 24 hours, or a failed start-up test; no thread
RUN, WAIT or STOPPED. -/
def toWithdraw (f : Fuses) (d : Dev) : List Nat :=
  (List.range f.cores).filter (fun c =>
    (decide ((SMap.get [] d.coreFaults c).length ≥ 3) || d.recov.failing.testBit c) && !withdrawn d c && !(d.core c).busy &&
      !(d.recov.wd.any (fun r => r.op == 0 && r.core == c)))

/-- The CMC's own withdrawals join the queue (R583). -/
def autoWithdraw (f : Fuses) (d : Dev) : Dev :=
  if d.coreFaults.isEmpty && decide (d.recov.failing = 0) then d
  else (toWithdraw f d).foldl (fun d c => wdRequest f d { op := 0, core := c, handle := none }) d

/-! ## The end of a unit reset -/

/-- ENGINE_RESET_COMPLETE (R576, R580, R581): a unit's reset ends, and its handles complete. -/
def engineResetComplete (u : Nat) (f : Fuses) (d : Dev) : Dev :=
  match d.resets.find? (fun r => r.unit == u) with
  | none => d
  | some r =>
    let d := workReset f d r
    if (d.resets.any (fun x => x.unit == u && x.cleared)) = false ∨ resetReady f d u = false then d
    else
      let d := if r.trigger = 1 ∨ r.trigger = 2 then unplanned f d (d.cyc - r.since) else d
      let others := d.resets.filter (fun x => x.unit != u)
      -- a handle of several cores completes with the last of them
      let hs := r.handles.filter (fun h => !(others.any (fun x => x.handles.contains h)))
      let d := hs.foldl (fun d h => completeHandle f d h 0 0) { d with resets := others }
      wdRun f (d.recov.wd.length) d

/-! ## Stalls (R564, R565) -/

/-- A unit's progress counter (R564). -/
def unitProgress (f : Fuses) (d : Dev) (u : Nat) : Nat :=
  let (t, i) := (unitTile u, unitInst u)
  match unitClass u with
  | 1 => progressOf f d (2 * i) + progressOf f d (2 * i + 1)
  | 2 => progressOf f d (256 + 2 * t + i)
  | 3 => progressOf f d (288 + 2 * t + i)
  | 4 => progressOf f d (320 + 2 * t + i)
  | 5 => progressOf f d (352 + i)
  | 6 => progressOf f d (358 + i)
  | 7 => progressOf f d (360 + i)
  | _ => progressOf f d (362 + i)

/-- A unit's bits of STALLED (R569): both threads of a core. -/
def stallBits (u : Nat) : List Nat :=
  let (t, i) := (unitTile u, unitInst u)
  match unitClass u with
  | 1 => [2 * i, 2 * i + 1]
  | 2 => [256 + 2 * t + i]
  | 3 => [288 + 2 * t + i]
  | 4 => [320 + 2 * t + i]
  | 5 => [352 + i]
  | 6 => [358 + i]
  | 7 => [360 + i]
  | _ => [362 + i]

/-- A unit's pending condition (R564). -/
def unitPending (f : Fuses) (d : Dev) (u : Nat) : Bool :=
  let (t, i) := (unitTile u, unitInst u)
  let waits := fun (x : Thread) => match x.state with | .wait => true | _ => false
  match unitClass u with
  | 1 => waits (d.core i).f || waits (d.core i).b
  | 2 => decide (moverIdx d t = 256 + 2 * t + i) &&
    (d.proof.manifest.isSome || (decide (d.proof.state = 3) && ((headDue d.proof).isSome || (nextItem f d.proof t).isSome)))
  | 3 => let x := d.engine (2 * t + i); x.run.isSome || !x.queue.isEmpty
  | 4 =>
    let s := stackOf f d (2 * t + i)
    (match s.state with | .retraining => false | _ => true) &&
      (!s.waiting.isEmpty || d.mem.fills.any (fun p => p.2.any (fun x => stackIdx f (256 * x.line) == 2 * t + i)))
  | 5 => (d.port i).live && !(d.port i).replay.isEmpty
  | 6 => lhUp f d i && d.holders.any (fun h => h.2.port == i && !h.2.queue.isEmpty)
  | 7 => d.vault.ops.any (fun o => o.engine == i && o.run.isSome)
  | 8 => d.holders.any (fun h => h.2.port == i && h.2.state == .running && ((nextPost f d h.1).isSome ||
      h.2.rounds.any (fun r => r.2.recv.any (fun c => c.2.segs.any (fun s => s.2.decoded.isSome)))))
  | _ => false

/-- Stalls whose counter has changed or whose pending condition has ended are over (R565). -/
def pruneStalls (f : Fuses) (d : Dev) : Dev :=
  if d.recov.stalled.isEmpty then d
  else { d with recov := { d.recov with stalled := d.recov.stalled.filter (fun s => unitPending f d s.1 && decide (unitProgress f d s.1 = s.2)) } }

/-- STALLED as a number (R587). -/
def stalledMask (d : Dev) : Nat := ((d.recov.stalled.map (fun s => (stallBits s.1).map (2 ^ ·))).flatten).sum

/-- UNIT_STALLED (R565): a unit's pending condition has held for STALL_MS with its counter unchanged. -/
def unitStalled (u : Nat) (f : Fuses) (d : Dev) : Dev :=
  let c := unitClass u
  if c = 0 ∨ c > 8 ∨ unitExists f u = false ∨ unitPending f d u = false ∨ (SMap.find? d.recov.stalled u).isSome then d
  else
    let d := { d with recov := { d.recov with stalled := d.recov.stalled.put u (unitProgress f d u) } }
    let d := eventAll f d Status.unitStalled u
    let d := d.log Status.unitStalled 3 u (if c = 1 then f.physOf (unitInst u) else unitTile u) []
    if bit (obj f d 0xA031 0x10) c then resetUnit f d u 1 Status.unitStalled false [] else d

end Sys2Proof.Machine
end

