-- ==== Sys2Proof/Machine/Reset.lean ====
section
/-! DEFINITION. Device resets, start-up and firmware (R543 to R560, R603 to R607). -/

namespace Sys2Proof.Machine

/-! ## The history record (R553) -/

/-- A reset history record: the cause, the flags, and the run the reset ended. -/
def historyRecord (d : Dev) (r : RReq) (other : Nat) : List Byte :=
  let s := d.rst
  let b := leBytes 1 r.cause ++ leBytes 1 r.detail ++
    leBytes 1 ((if s.wasDeferred then 1 else 0) + (if s.dumped then 2 else 0) + (if s.wasHeld then 4 else 0)) ++ zeros 1 ++
    leBytes 4 s.endBoot ++ leBytes 4 s.endHours ++ leBytes 2 other ++ zeros 2 ++ leBytes 4 s.deferUs ++ leBytes 8 s.endTime
  b ++ leBytes 4 (crc32c b)

/-! ## What a reset keeps (R550) -/

/-- Objects a device reset keeps: those held in flash or in fuses; but for a POR the AON domain's own (R550, R551, R552); at
a warm reset also the region sizes (R218) and what describes the counterproof bank held, which survives it (R428, R550; log entry 178). -/
def keptObj (k : RKind) (key : Nat) : Bool :=
  let (i, s) := (key / 256, key % 256)
  [ob 0xE000 2, ob 0x2100 4, ob 0x2200 2, ob 0xA040 0, ob 0xA060 0, ob 0xA020 4].contains key ||
    (decide (k ≠ .por) && ((i == 0xE000 && s != 0xB) || (i == 0xA010 && decide (8 ≤ s)) || i == 0xA011 ||
      [ob 0xA000 5, ob 0xA000 8, ob 0xA050 5, ob 0xA050 8, ob 0x9020 2].contains key)) ||
    (decide (k = .warm) && ((i == 0x3020 && decide (s ≤ 2)) || (i == 0x9030 && decide (2 ≤ s ∧ s ≤ 5))))

/-- Device memory after a reset (R229, R230, R550): zeros, or at a warm reset what it held, with the stacks in self-refresh
and the tile caches written back. -/
def resetMem (f : Fuses) (d : Dev) (k : RKind) : ExtMem :=
  let kept : ExtMem := { retired := d.mem.retired, retiring := d.mem.retiring }
  if k = .warm then
    let dirty := fun (l : Nat) => d.mem.sets.any (fun p => p.2.any (fun x => x.line == l && x.dirty))
    { kept with bytes := d.mem.bytes, poison := d.mem.hidden.filter (fun l => !dirty l) ++ d.mem.poison,
                hbm := ((List.range 32).filter (stackFitted f)).map (fun i => (i, ({ state := .selfRefresh } : Stack))) }
  else kept

/-- The device as a reset leaves it, before its sequence record (R550). -/
def clearedDev (f : Fuses) (d : Dev) (k : RKind) : Dev :=
  let pw : Power := { flash := d.power.flash, ageLog := d.power.ageLog, hottest := d.power.hottest }
  let por := decide (k = .por)
  let rc : Recov := { flashLog := d.recov.flashLog, tested := d.recov.tested, logSeq := if por then 0 else d.recov.logSeq,
                      progress := if por then [] else d.recov.progress,
                      dumpNext := if k = .warm then d.recov.dumpNext else 65536,
                      dumpRecords := if por then 0 else d.recov.dumpRecords, dumpWraps := if por then 0 else d.recov.dumpWraps }
  { cyc := d.cyc, freeCtr := d.freeCtr, out := d.out, coreFaults := if por then [] else d.coreFaults
    objs := d.objs.filter (fun p => keptObj k p.1), mem := resetMem f d k, ctxs := [(0, { state := .opened })]
    errLog := if k = .warm then d.errLog else [], power := pw, rst := d.rst, recov := rc
    host := if por then {} else { txq := d.host.txq, txFree := d.host.txFree } }

/-! ## Taking a reset (R546, R549, R553, R554, R556) -/

/-- Some write that a requester waits to have accepted is accepted (R556 step W2). -/
def acceptWrite (f : Fuses) (d : Dev) (line : Nat) (w : TcWaiter) : Dev :=
  match w.write with
  | some (o, l) => writeRun f d w.who (256 * line + o) l
  | none => d

/-- Steps W1 and W2 of a warm reset (R282, R556): nothing new issues; the writes that wait to be accepted, then those of every issued
MOVE and UPD stroke, complete (log entry 176). -/
def quietDev (f : Fuses) (d : Dev) : Dev :=
  let d := { d with proof := {} }
  let held := (d.mem.fills.map (fun p => (p.2.map (fun x => x.waiters.map (fun w => (x.line, w)))).flatten)).flatten ++
    (d.mem.hbm.map (fun p => p.2.waiting)).flatten ++ d.mem.cowHeld ++ (d.mem.banks.map (fun p => p.2)).flatten
  (d.cores.map Prod.fst).foldl (quietCore f) (held.foldl (fun d p => acceptWrite f d p.1 p.2) d)

/-- PERST# or RSTIN_N is asserted. -/
def pinsHold (d : Dev) : Bool := d.rst.perst || d.rst.rstin

/-- The 128-bit set of bits of RESET_OTHER for a cause (R546). -/
def setOther (d : Dev) (cause : Nat) : Dev := d.setObj 0xA000 3 (ctr d 0xA000 3 ||| 2 ^ cause)

/-- A reset takes effect (R546, R550, R553, R554). -/
def takeReset (f : Fuses) (d : Dev) (r : RReq) (late : Option Nat) (other : Nat) : Dev :=
  let s : Rst := { d.rst with
    cur := some r, deferred := none, deferOther := 0, due := none, wasHeld := pinsHold d, wasDeferred := late.isSome
    deferUs := late.getD 0, dumped := d.rst.dumped && d.rst.cur.isNone, endBoot := ctr d 0xE000 2, endHours := ctr d 0x2100 4, endTime := d.now
    takenAt := d.cyc, awaitRefclk := false, supplyWait := decide (r.cause = 8)
    held := decide (r.kind = .warm) || pinsHold d
    history := if r.kind = .por then [] else d.rst.history }
  let d := if r.kind = .warm then quietDev f d else d
  let d := clearedDev f { d with rst := s } r.kind
  let hist := if r.kind = .por then [] else (historyRecord d r 0 :: d.rst.history).take 16
  let d := { d with rst := { d.rst with history := hist } }
  let d := ((d.setObj 0xA000 1 r.cause).setObj 0xA000 2 r.detail).setObj 0xA000 3 other
  let d := if r.kind = .por then d else d.bump 0xA000 5 32 1
  let d := d.setObj 0xA000 0 (if r.cause = 7 then 4 else 0)
  d.emit (.pin "THERM_ALARM_N" true)

/-- A supply fault stops the 54 V domains at once (R549): what CORE, MESH, IO and MEM hold is lost.  The AON and MGMT domains run
on. -/
def stopDomains (f : Fuses) (d : Dev) : Dev :=
  let off := ((List.range 32).filter (stackFitted f)).map (fun i => (i, ({ state := .selfRefresh } : Stack)))
  { d with cores := [], mem := { resetMem f d .cold with hbm := off }, claims := [], claimQ := [], codecs := [], ports := [],
           heldPkts := [], inbox := [], mesh := [], groups := [], resets := [], proof := {}, holders := [], lh := [], igForm := none,
           igReads := [], arbs := [] }

/-- A reset request begins: it waits for a flash pulse unless it is a POR (R549). -/
def beginReset (f : Fuses) (d : Dev) (r : RReq) (pulse : Bool) : Dev :=
  if pulse ∧ r.kind ≠ .por then
    let d := { d with rst := { d.rst with deferred := some r, deferOther := 0 } }
    if r.cause = 8 then stopDomains f d else d
  else takeReset f d r none 0

/-- The order of the kinds by severity (R546). -/
def RKind.rank : RKind → Nat
  | .por => 2 | .cold => 1 | .warm => 0

/-- A device reset is requested (R546, R549, R532): the first is taken; one that is more severe starts its own sequence; any
other sets its bit of RESET_OTHER; after a thermal trip only the causes of R532 end the wait, at 90 °C or below. -/
def requestReset (f : Fuses) (d : Dev) (r : RReq) (pulse : Bool) : Dev :=
  if d.rst.aux = false then d
  else if ctr d 0xA000 0 = 4 ∧ r.kind ≠ .por then
    let d := setOther d r.cause
    if (r.cause = 2 ∨ r.cause = 3 ∨ r.cause = 4) ∧ d.power.hottest ≤ 1440 then
      { d.setObj 0xA000 0 0 with rst := { d.rst with held := pinsHold d, wasHeld := d.rst.wasHeld || pinsHold d } }
    else d
  else match d.rst.cur, d.rst.deferred with
  | some c, _ => if r.kind.rank > c.kind.rank then beginReset f d r pulse else setOther d r.cause
  | none, some c =>
    if r.kind.rank > c.kind.rank then beginReset f d r pulse
    else { d with rst := { d.rst with deferOther := d.rst.deferOther ||| 2 ^ r.cause } }
  | none, none => beginReset f d r pulse

/-- POWER_ON (R544, R605): the auxiliary supply rises; the power-on reset that its loss began goes on. -/
def powerOn (f : Fuses) (d : Dev) : Dev :=
  if d.rst.aux then requestReset f d ⟨.por, 1, 0⟩ false else { d with rst := { d.rst with aux := true } }

/-- AUX_SUPPLY_LOSS (R544, R605): the auxiliary supply has been low for 1 ms; the 54 V domains are off. -/
def auxSupplyLoss (f : Fuses) (d : Dev) : Dev :=
  let d := requestReset f d ⟨.por, 1, 0⟩ false
  { d with rst := { d.rst with aux := false } }

/-- A reset pin moves (R544, R546): asserted it requests a warm reset and holds the device. -/
def pinReset (f : Fuses) (d : Dev) (level : Bool) (set : Rst → Bool → Rst) (r : RReq) (pulse : Bool) : Dev :=
  let d := { d with rst := set d.rst level }
  if level then
    let d := requestReset f d r pulse
    if d.rst.cur.isSome ∧ ctr d 0xA000 0 = 0 then { d with rst := { d.rst with held := true, wasHeld := true } } else d
  else d

/-- PERST (R544): PERST# of the active PCIe port is asserted or released. -/
def perst (level pulse : Bool) (f : Fuses) (d : Dev) : Dev :=
  pinReset f d level (fun s v => { s with perst := v }) ⟨.warm, 2, obj f d 0xD000 0⟩ pulse

/-- RSTIN (R544, R603): RSTIN_N has been low for 1 µs, or is released. -/
def rstin (level pulse : Bool) (f : Fuses) (d : Dev) : Dev :=
  pinReset f d level (fun s v => { s with rstin := v }) ⟨.warm, 3, 0⟩ pulse

/-- SUPPLY_FAULT (R533, R546): detail 0 busbar below 44 V, 1 power stage fault. -/
def supplyFault (detail : Nat) (pulse : Bool) (f : Fuses) (d : Dev) : Dev := requestReset f d ⟨.cold, 8, detail % 2⟩ pulse

/-- The 54 V domains are on (R543, R549, R555): a warm reset keeps them powered, a cold one and a POR switch them off until step 4. -/
def railsOn (d : Dev) : Bool :=
  powered d && (match d.rst.cur with
    | none => true
    | some r => r.kind == .warm || decide (ctr d 0xA000 0 = 3 ∧ 5 ≤ ctr d 0xA000 6))

/-- REFCLK_LOSS (R607): the reference clock is lost while the 54 V domains are on. -/
def refclkLoss (pulse : Bool) (f : Fuses) (d : Dev) : Dev :=
  let was := d.rst.refclk
  let d := { d with rst := { d.rst with refclk := false } }
  if was && railsOn d then requestReset f d ⟨.cold, 8, 2⟩ pulse else d

/-- FLASH_PULSE_END (R549): the deferred reset takes effect, `us` microseconds after it was taken. -/
def flashPulseEnd (us : Nat) (f : Fuses) (d : Dev) : Dev :=
  match d.rst.deferred with
  | some r => takeReset f d r (some us) d.rst.deferOther
  | none => d

/-- SUPPLY_RESTART (R546, R607): the supply and the reference clock have been good for 100 ms. -/
def supplyRestart (_f : Fuses) (d : Dev) : Dev :=
  if d.rst.cur.isNone ∨ d.rst.supplyWait = false then d
  else { d with rst := { d.rst with refclk := d.rst.refclk || decide (ctr d 0xA000 2 = 2), supplyWait := false, held := pinsHold d,
                                    wasHeld := d.rst.wasHeld || pinsHold d } }

/-- RESET_RELEASE (R556): 10 ms have passed and both pins are released. -/
def resetRelease (_f : Fuses) (d : Dev) : Dev :=
  if d.rst.cur.isNone ∨ d.rst.held = false ∨ pinsHold d ∨ d.rst.aux = false then d
  else { d with rst := { d.rst with held := false } }

/-! ## DEVICE_RESET (R547) -/

/-- The command is accepted: the reset is due 1 ms after its response. -/
def deviceResetDue (d : Dev) (via arg : Nat) : Dev :=
  { d with rst := { d.rst with due := some ⟨if arg = 1 then .cold else .warm, 4, via % 3⟩ } }

/-- Within the 1 ms of R547 a warm reset that is due writes one core record for each enabled core (R576), where the crash dump region
can be written; none where another reset has been taken. -/
def dumpDue (f : Fuses) (d : Dev) (r : RReq) : Dev :=
  if r.kind = .warm ∧ obj f d 0xA031 0x13 = 1 ∧ ready d ∧ d.rst.cur.isNone ∧ d.rst.deferred.isNone ∧ dumpReady f d then
    let d := (List.range f.cores).foldl (fun d c => coreDump f d c 3 0) d
    { d with rst := { d.rst with dumped := true } }
  else d

/-- The reset that is due is taken. -/
def deviceResetTake (f : Fuses) (d : Dev) (pulse : Bool) : Dev :=
  match d.rst.due with
  | some r => let d := dumpDue f d r; requestReset f { d with rst := { d.rst with due := none } } r pulse
  | none => d

/-! ## Start-up (R555 to R560) -/

/-- The check of a firmware bank by a CMC (R559): 0 for a good copy. -/
def fwStatus (f : Fuses) (d : Dev) (s : Startup) (cmc b : Nat) : Nat :=
  match d.rst.banks.getD b none with
  | none => Status.fwInvalid
  | some v => if v.2 < obj f d 0xA020 4 then Status.fwRollback else if s.fwBad.testBit (2 * cmc + b) then Status.fwInvalid else 0

/-- The bank a CMC starts from (R559). -/
def fwBank (f : Fuses) (d : Dev) (s : Startup) (cmc : Nat) : Option Nat :=
  let b := d.rst.bankNext % 2
  if fwStatus f d s cmc b = 0 then some b else if fwStatus f d s cmc (1 - b) = 0 then some (1 - b) else none

/-- The start stops: DEVICE_STATE HALTED, the failing step in START_STEP (R557). -/
def haltAt (d : Dev) (step : Nat) : Dev := (d.setObj 0xA000 0 3).setObj 0xA000 6 step

/-- Uncorrectable words of the retained SRAM read 0 and are counted (R552). -/
def retainedErrors (d : Dev) (ws : List Nat) : Dev :=
  let v := ws.foldl (fun v w => if 2048 ≤ w then v - (v / 2 ^ (64 * (w - 2048)) % 2 ^ 64) * 2 ^ (64 * (w - 2048)) else v) (ctr d 0xA011 0)
  let d := if ws.isEmpty then d else d.setObj 0xA011 0 v
  d.bump 0xA000 8 32 ws.length

/-- Steps 1 to 3 of R555: true when the start goes on. -/
def startEarly (s : Startup) (f : Fuses) (d : Dev) (r : RReq) : Dev × Bool :=
  let d := (d.setObj 0xE000 2 ((ctr d 0xE000 2 + 1) % 2 ^ 32)).setObj 0xA000 0 1
  let d := if r.kind = .por then
      let d := { d with rst := { d.rst with history := [historyRecord d r 0], fuseCrc := s.fuseCrc, fuseDisagree := s.fuseDisagree } }
      -- the management port speaks again, and runs its duplicate address detection (R499, R554)
      mgmtSend (ageRecord f d 5 0xFF) (dadFrame f)
    else retainedErrors d s.badWords
  if fuseBad f d then (haltAt d 1, false)
  else
   let d := d.setVault .selftest
   if s.failStep = 1 then (haltAt d 1, false)
   else match fwBank f d s 0 with
    | none => ((haltAt d 2).setObj 0xA000 7 (fwStatus f d s 0 (d.rst.bankNext % 2)), false)
    | some b =>
      if s.failStep = 2 ∨ s.failStep = 3 then (haltAt d s.failStep, false)
      else
        let same := decide (fwBank f d s 1 = some b)
        let rc := { d.recov with standbyStopped := !same, standbyReady := same }
        (({ d with recov := rc } : Dev).setObj 0xA020 0 b |>.setObj 0xA000 6 3, true)

/-- The rails and ROOT of step 4: the last applied plan, ROOT locked at its target (R537, R555). -/
def startClocks (f : Fuses) (d : Dev) : Dev :=
  let d := match d.power.flash with
    | some p => (List.range 16).foldl (fun d t => d.setObj (0x2020 + t) 6 (p.rails.getD t 0)) (d.setObj 0x2000 2 p.root)
    | none => d
  let t := rootTarget f d
  (d.setObj 0x2000 0 t).setObj 0x2000 4 (tickInc t)

/-- READY (R553, R555, R579, R586): the record is completed and written to flash, the CMC logs the reset and the withdrawn
cores, and DEVICE_READY is posted. -/
def startReady (f : Fuses) (d : Dev) (r : RReq) : Dev :=
  let rec_ := historyRecord d r (ctr d 0xA000 3)
  let s := { d.rst with cur := none, dumped := false, history := rec_ :: d.rst.history.drop 1, flashHistory := rec_ :: d.rst.flashHistory }
  let d := ({ d with rst := s } : Dev).setObj 0xA000 0 2 |>.setObj 0xA000 6 10
  let lost := decide (r.cause = 5 ∨ r.cause = 6 ∨ r.cause = 7 ∨ (r.cause = 8 ∧ r.detail = 1))
  let d := if lost then unplanned f d (d.cyc - s.takenAt) else d
  let d := d.log 0 4 0 0xFFFF ((pieces 8 4 rec_).map leNat)
  let w := ctr d 0xA040 0
  let d := d.log 0 7 0 0xFFFF [w % 2 ^ 64, w / 2 ^ 64]
  event0 f d Status.deviceReady 0

/-- Steps 4 to 10 of R555 and R556. -/
def startLate (s : Startup) (f : Fuses) (d : Dev) (r : RReq) : Dev :=
  if d.rst.refclk = false then { d with rst := { d.rst with awaitRefclk := true } }
  else
    let d := startClocks f { d with rst := { d.rst with awaitRefclk := false } }
    if 4 ≤ s.failStep ∧ s.failStep ≤ 5 then haltAt d s.failStep
    else
      let d := { d with mem := { d.mem with hbm := [] } }
      if 6 ≤ s.failStep ∧ s.failStep ≤ 7 then haltAt d s.failStep
      else
        -- a failed start-up test is a fault since the last passing one (R584)
        let d := { d with recov := { d.recov with failing := s.failCores % 2 ^ f.cores, tested := d.recov.tested - (d.recov.tested &&& s.failCores) } }
        let d := selftestComplete (!s.vaultFails) f d
        if s.vaultFails ∨ s.failStep = 8 then haltAt d 8
        else
          let d := (List.range 6).foldl (fun d p =>
            if obj f d (pIdx p) 7 = 0 then d else d.setPort p { d.port p with state := .down }) d
          if s.failStep = 9 ∨ s.failStep = 10 then haltAt d s.failStep else startReady f d r

/-- STARTUP (R555 to R557): the device comes out of reset along its sequence. -/
def startup (s : Startup) (f : Fuses) (d : Dev) : Dev :=
  match d.rst.cur with
  | some r =>
    if ctr d 0xA000 0 ≠ 0 ∨ d.rst.held ∨ d.rst.supplyWait ∨ d.rst.aux = false then d
    else
      let (d, on) := startEarly s f d r
      if on then startLate s f d r else d
  | none => d

/-- REFCLK_PRESENT (R607): a start that waits in step 4 goes on. -/
def refclkPresent (s : Startup) (f : Fuses) (d : Dev) : Dev :=
  let d := { d with rst := { d.rst with refclk := true } }
  match d.rst.cur with
  | some r => if d.rst.awaitRefclk then startLate s f d r else d
  | none => d

/-! ## Firmware (R558 to R560) -/

/-- The format check of a firmware image (R558, R559 checks 1 and 4), and its VERSION, SVN and KEY_INDEX. -/
def fwImage (l : List Byte) : Option (Nat × Nat × Nat) :=
  let n := field l 12 4
  if field l 0 4 = 0x5F0A1CA0 ∧ 4096 ≤ n ∧ n ≤ 16773120 ∧ n % 4096 = 0 ∧ field l 8 1 ≤ 63 ∧ field l 9 1 ≤ 3 ∧
      field l 10 2 = 0 ∧ field l 64 64 = 0 ∧ field l 224 32 = 0 ∧ 256 + n ≤ l.length ∧
      sha384 ((l.drop 256).take n) = (l.drop 16).take 48 then
    some (field l 4 4, field l 8 1, field l 9 1)
  else none

/-- FW_UPDATE's argument (R562): its fields are in range and its reserved bits 0. -/
def fwUpdateArgOk (a : Nat) : Bool := decide (bits a 103 96 ≤ 1 ∧ a / 2 ^ 104 = 0)

/-- An FW_UPDATE's image is programmed into the erased bank and checked (R559, R560): `sigOk` says that the written image's signature
verifies with the boot ROM's key and that the flash took every byte.  An image that memory does not give leaves the bank invalid. -/
def fwProgram (f : Fuses) (d : Dev) (r : FwReq) : Dev :=
  let (at_, n, b) := (bits r.arg 63 0, bits r.arg 95 64, bits r.arg 103 96)
  match ctxRuns d 0 false at_ n with
  | none => completeHandle f d r.handle Status.window 0
  | some rs =>
    let l := runBytes d rs
    let bad := !(poisonedIn f d rs).isEmpty
    let d := noteRead f d d.cmcWho rs
    if bad then completeHandle f d r.handle Status.memUe 0
    else
      let v := match fwImage l with
        | some (ver, svn, key) =>
          if r.sigOk ∧ n ≤ 24 * 2 ^ 20 ∧ f.revoked.testBit key = false ∧ obj f d 0xA020 4 ≤ svn then some (ver, svn) else none
        | none => none
      let d := { d with rst := { d.rst with banks := d.rst.banks.set b v } }
      completeHandle f d r.handle (if v.isSome then 0 else Status.fwWriteFail) 0

/-- FW_UPDATEs whose image can be read go on in order (R231, R560); none starts a pulse once a reset has been taken (R549). -/
def fwsGo (f : Fuses) (d : Dev) : Dev :=
  if d.rst.deferred.isSome then d
  else d.host.fws.foldl (fun d r =>
    let can := match ctxRuns d 0 false (bits r.arg 63 0) (bits r.arg 95 64) with
      | some rs => rs.all (runReady f d d.cmcWho)
      | none => true
    if can then fwProgram f { d with host := { d.host with fws := d.host.fws.erase r } } r else d) d

/-- FW_UPDATE (R560): the bank that is not running is erased, and programmed as the image is read. -/
def fwUpdate (f : Fuses) (d : Dev) (h a : Nat) (sigOk : Bool) : Dev :=
  let b := bits a 103 96
  if b = ctr d 0xA020 0 then completeHandle f d h Status.fwBankActive 0
  else if (ctxRuns d 0 false (bits a 63 0) (bits a 95 64)).isNone then completeHandle f d h Status.window 0
  else
    fwsGo f { d with rst := { d.rst with banks := d.rst.banks.set b none }
                     host := { d.host with fws := d.host.fws ++ [{ handle := h, arg := a, sigOk := sigOk }] } }

/-- SVN of the running image (R560). -/
def runningSvn (d : Dev) : Nat := match d.rst.banks.getD (ctr d 0xA020 0) none with | some v => v.2 | none => 0

/-- FW_SVN_RAISE (R560): fuse bits are only ever blown. -/
def fwSvnRaise (f : Fuses) (d : Dev) (h v : Nat) : Dev :=
  if runningSvn d < v then completeHandle f d h Status.fwRollback 0
  else completeHandle f (d.setObj 0xA020 4 (max v (obj f d 0xA020 4))) h 0 0

end Sys2Proof.Machine
end

