-- ==== Sys2Proof/Machine/Heart.lean ====
section
/-! DEFINITION. Heartbeats and escalation (R566 to R574), and the arbiters' freeze and watchdog (R515, R516). -/

namespace Sys2Proof.Machine

/-! ## Sending (R567, R569) -/

/-- The GMAC tag of a heartbeat (R567): `flit` are bytes 8 to 23 and 40 to 41 of the flit. -/
def beatTag (key : List Byte) (dev epoch boot seq : Nat) (flit : List Byte) : List Byte :=
  gcmTag key (leBytes 2 dev ++ leBytes 2 epoch ++ leBytes 4 boot ++ leBytes 4 seq) flit []

/-- The first sixteen bytes of a HEARTBEAT from its code on: the code and its arguments up to STALL_COUNT (R567). -/
def beatHead (d : Dev) (standby tagged : Bool) : List Byte :=
  let us := d.recov.stalled.map Prod.fst
  let classes := ((List.range 16).filter (fun c => us.any (fun u => unitClass u == c))).map (2 ^ ·)
  [0x0A#8] ++ leBytes 4 (ctr d 0xA050 2) ++ leBytes 4 (ctr d 0xE000 2) ++
    leBytes 1 ((if standby then 1 else 0) + (if tagged then 2 else 0) + (if us.isEmpty then 0 else 4)) ++
    leBytes 2 classes.sum ++ leBytes 2 (us.headD 0) ++ leBytes 2 us.length

/-- The arguments of a HEARTBEAT (R567). -/
def beatArgs (f : Fuses) (d : Dev) (standby : Bool) : List Byte :=
  let key := slotKey d 3
  let h := beatHead d standby key.isSome
  let ep := leBytes 2 (ctr d 0xA050 9)
  let tag := match key with
    | some k => beatTag k (devAddr f d) (ctr d 0xA050 9) (ctr d 0xE000 2) (ctr d 0xA050 2) (h ++ ep)
    | none => zeros 16
  h.drop 1 ++ tag ++ ep

/-- The host record (R569). -/
def hostRecord (f : Fuses) (d : Dev) (standby : Bool) : List Byte :=
  let tagged := (slotKey d 3).isSome
  leBytes 4 (ctr d 0xA050 2) ++ leBytes 4 (ctr d 0xE000 2) ++ leBytes 8 d.now ++ slice (beatHead d standby tagged) 9 1 ++ zeros 1 ++
    leBytes 2 (ctr d 0xA050 9) ++ zeros 44 ++
    ((List.range 512).map (fun i => leBytes 4 (progressOf f d i))).flatten ++ leBytes 64 (stalledMask d) ++ zeros 1920

/-- A port is trained as R567 has it: UP, DEGRADED, RESTORED, or DOWN with cause 3. -/
def trained (f : Fuses) (d : Dev) (p : Nat) : Bool :=
  (d.port p).live || ((d.port p).state == .down && (d.port p).mgmtOnly && obj f d (pIdx p) 6 == 3)

/-- The heartbeats of an advance leave (R567): the management cipher unit copies slot 3's key for the tag; while its vault bus is frozen
they wait (R399, R515), and where its operation ends with MISMATCH (R407) none leaves. -/
def beatSend (f : Fuses) (d : Dev) (standby : Bool) : Dev :=
  let keyed := (slotKey d 3).isSome
  if keyed && !mgmtFree d then { d with recov := { d.recov with beatDue := some standby } }
  else
    let (d, bad) := if keyed then mgmtStart d 3 else (d, false)
    let d : Dev := { d with recov := { d.recov with beatDue := none } }
    if bad then d
    else
      let a := beatArgs f d standby
      (List.range 6).foldl (fun d p => if trained f d p then sendCtrl d p 0x0A a else d) d

/-- HB_SEQ advances, and in heartbeat mode the heartbeats are sent (R567). -/
def beat (f : Fuses) (d : Dev) (standby : Bool) : Dev :=
  let n := (ctr d 0xA050 2 + 1) % 2 ^ 32
  let d := d.setObj 0xA050 2 n
  let d := if n = 0 then d.setObj 0xA050 9 ((ctr d 0xA050 9 + 1) % 2 ^ 16) else d
  if hbActive f d = false then d
  else
    let at_ := obj f d 0xA050 3
    let d := if at_ = 0 then d else d.emit (.hostWrite (obj f d 0x7000 2) at_ (hostRecord f d standby))
    beatSend f d standby

/-- HEARTBEAT_ADVANCE (R567): the active CMC's advance, every 5 ms. -/
def heartbeatAdvance (f : Fuses) (d : Dev) : Dev := beat f { d with recov := { d.recov with standbySends := false } } false

/-- STANDBY_HEARTBEAT (R574): HB_SEQ has not advanced for 10 ms, or for 5 ms since the standby's last advance. -/
def standbyHeartbeat (f : Fuses) (d : Dev) : Dev :=
  if d.recov.standbyReady then beat f { d with recov := { d.recov with standbySends := true } } true else d

/-! ## Receiving (R568) -/

/-- The link of a port that had lost its peer carries all traffic again (R568): RESTORED while a job runs, else UP (DEGRADED
with 12 lanes). -/
def peerBack (f : Fuses) (d : Dev) (p : Nat) : Dev :=
  let s := serviceState f d p true
  let d := d.setPort p { d.port p with state := s, mgmtOnly := false, credits := fullCredits, fell := s == .restored }
  let d := if s = .restored then d else markLink f d p false
  eventAll f d Status.portUp (torusArg p 0)

/-- A heartbeat's arguments are checked (R568): with slot 3 loaded its tag too, by the management cipher unit (R399, R407); a valid
one is remembered, and ends a port's loss of its peer. -/
def takeBeat (f : Fuses) (d : Dev) (p : Nat) (a : List Byte) : Dev :=
  let (seq, boot, ep) := (field a 0 4, field a 4 4, field a 31 2)
  let n := ep * 2 ^ 32 + seq
  let fresh := match SMap.find? d.recov.beats p with
    | some b => decide (boot ≠ b.boot ∨ n > b.seq)
    | none => true
  let (d, bad) := if (slotKey d 3).isSome && (field a 8 1).testBit 1 then mgmtStart d 3 else (d, false)
  let good := match slotKey d 3 with
    | some k => !bad && (field a 8 1).testBit 1 &&
        slice a 15 16 == beatTag k (neighbourAddr f d p |>.getD 0) ep boot seq (0x0A#8 :: slice a 0 15 ++ slice a 31 2)
    | none => true
  if fresh && good then
    let rc := { d.recov with beats := d.recov.beats.put p { boot := boot, seq := n } }
    let d : Dev := { d with recov := rc }
    if (d.port p).mgmtOnly then peerBack f d p else d
  else d

/-- HEARTBEAT (R568): while the vault bus of the management cipher unit is frozen, one that is tagged waits for its check. -/
def heartbeat (p : Nat) (raw : List Byte) (f : Fuses) (d : Dev) : Dev :=
  ctrlFlit p 0x0A raw d (fun d a =>
    if (slotKey d 3).isSome && !mgmtFree d then { d with recov := { d.recov with beatsIn := d.recov.beatsIn ++ [(p, a)] } }
    else takeBeat f d p a)

/-- Heartbeats that waited for the management cipher unit go on (R399, R515). -/
def beatsGo (f : Fuses) (d : Dev) : Dev :=
  if mgmtFree d = false then d
  else
    let ins := d.recov.beatsIn
    let d := if ins.isEmpty then d else ins.foldl (fun d x => takeBeat f d x.1 x.2) { d with recov := { d.recov with beatsIn := [] } }
    match d.recov.beatDue with
    | some s => beatSend f d s
    | none => d

/-- PEER_LOST (R568): the port's miss count reaches 4. -/
def peerLost (p : Nat) (f : Fuses) (d : Dev) : Dev := if hbActive f d then takeDown f d p 3 else d

/-! ## Escalation (R571, R572) -/

/-- HB_RESET_SEND (R571): a port has been DOWN with cause 3 for 100 ms, or 100 ms have passed since the last. -/
def hbResetSend (p : Nat) (f : Fuses) (d : Dev) : Dev :=
  let b := SMap.get ({ boot := 0, seq := 0 } : Beat) d.recov.beats p
  if hbActive f d = false ∨ obj f d 0xA050 4 = 0 ∨ (d.port p).mgmtOnly = false ∨ obj f d (pIdx p) 6 ≠ 3 ∨ b.resets ≥ 10 then d
  else
    let d := sendCtrl d p 0x0B (leBytes 4 b.boot ++ leBytes 2 (devAddr f d))
    let rc := { d.recov with beats := d.recov.beats.put p { b with resets := b.resets + 1 } }
    let d : Dev := { d with recov := rc }
    if b.resets = 0 then eventAll f d Status.peerEscalated p else d

/-- A request to reset a device whose CMC is silent (R572): taken where HB_SEQ has stood still for 20 ms and the device is
READY, else counted. -/
def escalated (f : Fuses) (d : Dev) (matches_ quiet : Bool) (detail : Nat) (pulse : Bool) : Dev :=
  if matches_ && quiet && decide (ctr d 0xA000 0 = 2) then requestReset f d ⟨.warm, 6, detail⟩ pulse
  else d.bump 0xA050 5 32 1

/-- HB_RESET (R571, R572): `quiet` says that HB_SEQ has not advanced for 20 ms. -/
def hbReset (p : Nat) (raw : List Byte) (quiet pulse : Bool) (f : Fuses) (d : Dev) : Dev :=
  ctrlFlit p 0x0B raw d (fun d a => escalated f d (field a 0 4 == ctr d 0xE000 2) quiet (p + 1) pulse)

/-- What configuration reads of the PF's vendor-specific extended capability at 400h show (R570): CAP_HEADER, VSEC_HEADER, BOOT and
HB_SEQ, and the write-only ESCALATE as 0. -/
def vsecBytes (d : Dev) : List Byte :=
  leBytes 4 0x0001000B ++ leBytes 4 0x01410001 ++ leBytes 4 (ctr d 0xE000 2) ++ leBytes 4 (ctr d 0xA050 2) ++ zeros 4

/-- ESCALATE (R570, R572): a write to the PF's vendor-specific capability. -/
def escalate (v : Nat) (quiet pulse : Bool) (f : Fuses) (d : Dev) : Dev :=
  escalated f d (bits v 31 16 == ctr d 0xE000 2 % 65536 && bits v 15 0 == 1) quiet 0 pulse

/-! ## Arbiters (R515, R516, R518) -/

/-- An arbiter ID that names an arbiter with a freeze bit (R509, R518). -/
def arbExists (f : Fuses) (id : Nat) : Bool :=
  let (t, i) := (id / 256 % 16, id % 256)
  match id / 4096 with
  | 1 => decide (i < 2) && stackFitted f (2 * t + i)
  | 2 => decide (i < 16)
  | 3 => decide (i < 5)
  | 4 => decide (t = 0 ∧ i < 6)
  | 5 => f.longHaul && decide (t = 0 ∧ i < 4)
  | 6 => decide (i = 0)
  | 7 => decide ((t = 0 ∨ t = 15) ∧ i = 0)
  | 8 => decide (t = 0 ∧ i = 0)
  | _ => false

/-- ARB_STUCK (R516): a granted transfer has outlasted RES_WDOG_MS; the unit that holds the grant is reset. -/
def arbStuck (id req unit : Nat) (f : Fuses) (d : Dev) : Dev :=
  if arbExists f id = false then d
  else
    let a := d.arb id
    let c := a.counts.set 4 (sat32 (a.counts.getD 4 0) 1)
    let d := { d with arbs := d.arbs.put id { a with counts := c } }
    let d := eventAll f d Status.arbStuck (id + 2 ^ 16 * (req % 256))
    if unitExists f unit then resetUnit f d unit 2 Status.arbStuck false [] else d

end Sys2Proof.Machine
end

