-- ==== Sys2Proof/Machine/Vec.lean ====
section
/-! DEFINITION. The vector unit: the VEC strokes, their start and their completion (R146 to R148, R169 to
R181). -/

namespace Sys2Proof.Machine

/-- A VEC stroke as the unit takes it, with its addresses and coordinates evaluated (R140, R142, R146, R147). -/
def mkVecOp (k : Core) (t : Thr) (w : Nat) : VecOp :=
  let th := k.th t
  let lc := th.lc
  let cfg := bits w 119 106
  let h := k.word cfg
  let at_ := fun i => (paddr (k.word i) lc).toNat
  let s1 := bits w 77 64
  let s2 := bits w 91 78
  let dd := bits w 105 92
  let rc := rcOf (bits h 22 20)
  let (r0, c0) := if rc.rnd = 2 then coord (k.word (cfg + 1)) lc else (0, 0)
  { th := t, stroke := th.pc, fn := bits w 125 120, s1 := at_ s1, s1x := at_ (s1 + 1), s2 := at_ s2, s2x := at_ (s2 + 1),
    d := at_ dd, dx := at_ (dd + 1), f1 := fmtOf (bits h 11 8), f2 := fmtOf (bits h 15 12), fd := fmtOf (bits h 19 16),
    rc := rc, len := bits h 47 24, stream := bits h 63 48, scalar := bits h 95 64, row0 := r0, col0 := c0, sig := skSig w }

/-- Whether a format has a second plane in this function: scales, or the L plane of a CVT. -/
def VecOp.hasNext (o : VecOp) (x : Fmt) : Bool := x.isBlock || (o.fn == 8 && x == .s32)

/-- The two-source functions. -/
def VecOp.two (o : VecOp) : Bool := vecSources o.fn == some 2

/-- The elements the stroke writes. -/
def VecOp.outLen (o : VecOp) : Nat := if o.fn ∈ [0x18, 0x19, 0x1A] then 1 else o.len

/-- The element width of the plane that follows a format's element plane: 8-bit scales, or the 16-bit L plane of S32. -/
def Fmt.nextWidth (x : Fmt) : Nat := if x.isBlock then 8 else 16

/-- The source planes, as regions with their element width (R146, R170). -/
def VecOp.sources (o : VecOp) : List (Nat × Nat × Nat) :=
  [(o.s1, fmtBytes o.f1 o.len, o.f1.width)] ++
  (if o.hasNext o.f1 then [(o.s1x, nextBytes o.f1 o.len, o.f1.nextWidth)] else []) ++
  (if o.two then [(o.s2, fmtBytes o.f2 o.len, o.f2.width)] ++
    (if o.hasNext o.f2 then [(o.s2x, nextBytes o.f2 o.len, o.f2.nextWidth)] else []) else [])

/-- The destination planes. -/
def VecOp.dests (o : VecOp) : List (Nat × Nat × Nat) :=
  [(o.d, fmtBytes o.fd o.outLen, o.fd.width)] ++
  (if o.hasNext o.fd then [(o.dx, nextBytes o.fd o.outLen, o.fd.nextWidth)] else [])

/-- FMA and SEL read the old elements at D (R172). -/
def VecOp.readsD (o : VecOp) : Bool := o.fn == 3 || o.fn == 0x21

/-- The regions a stroke reads. -/
def VecOp.reads (o : VecOp) : List (Nat × Nat) :=
  (o.sources ++ (if o.readsD then o.dests else [])).map (fun p => (p.1, p.2.1))

def regionsMeet (a b : Nat × Nat × Nat) : Bool := decide (a.1 < b.1 + b.2.1 ∧ b.1 < a.1 + a.2.1)

/-- A destination overlaps a source, or another destination plane, other than in place (R178). -/
def VecOp.overlaps (o : VecOp) : Bool :=
  o.dests.any (fun x => o.sources.any (fun y => regionsMeet x y && decide (x ≠ y))) ||
  (match o.dests with
    | [x, y] => regionsMeet x y
    | _ => false)

/-- The elements of a source as values (R170); an AP is read by R60, and one with OVF is a NaN that counts
(R70). -/
def vecSource (m : List Host.Cell) (x : Fmt) (full : Bool) (n a ax : Nat) : List Val :=
  if x = .ap then
    ((pieces 20 n (readBytes m a (20 * n))).map AP.ofBytes).map (fun p => ⟨p.toNum, p.ovf⟩)
  else (readVals x full n (readBytes m a (fmtBytes x n)) (readBytes m ax (nextBytes x n))).map Val.of

/-- The noise values of a stroke's elements (R183); none unless RC selects SR. -/
def vecNoise (f : Fuses) (d : Dev) (o : VecOp) : List Nat :=
  if o.rc.rnd = 2 then
    let ks := noiseKey (noiseSeed f d) 1 o.stream 0
    (List.range o.outLen).map (fun e => noiseAt ks (o.row0 + e / 128) (o.col0 + e % 128))
  else []

/-- One element written alone at an address: an element of fewer than 8 bits leaves the rest of its byte as it is (R176; log
entry 25). -/
def oneElement (m : List Host.Cell) (x : Fmt) (a code : Nat) : List Byte :=
  if x.width < 8 then [BitVec.ofNat 8 (code + (readByte m a).toNat / 2 ^ x.width * 2 ^ x.width)]
  else leBytes (x.width / 8) code

/-- What the stroke writes to its element plane and the plane after it, and what it counts (R170 to R177). -/
def vecResult (f : Fuses) (d : Dev) (o : VecOp) (m : List Host.Cell) : List Byte × List Byte × Ev :=
  let n := o.len
  let ns := vecNoise f d o
  let a := vecSource m o.f1 (o.fn == 8) n o.s1 o.s1x
  let b := if o.two then vecSource m o.f2 false n o.s2 o.s2x else []
  if o.fn = 0x1B then
    let rs := ((pieces 20 n (readBytes m o.s1 (20 * n))).zip (pieces 20 n (readBytes m o.s2 (20 * n)))).map (fun p =>
      apAddVal (AP.ofBytes p.1) (AP.ofBytes p.2))
    ((rs.map (fun r => r.1.toBytes)).flatten, [], (rs.map Prod.snd).foldl Ev.add {})
  else if o.fn = 0x18 ∨ o.fn = 0x19 then
    let (r, e) := reduceAP (if o.fn = 0x18 then a.map Val.x else a.map (fun v => v.x.mul v.x))
    (r.toBytes, [], e)
  else if o.fn = 0x1A then
    let (code, ev) := writePlain o.fd o.rc (ns.headD 0) (Val.of (amaxNum (a.map Val.x)))
    (oneElement m o.fd o.d code, [], ev)
  else if o.fn ∈ [0x10, 0x11, 0x12, 0x13] then
    let rs := (a.zipIdx).map (fun p => writeTrans o.fd o.rc (ns.getD p.2 0) (transNum o.fn p.1.x))
    (packPlane o.fd.width (rs.map Prod.fst), [], (rs.map Prod.snd).foldl Ev.add {})
  else if o.fn = 8 ∧ o.fd = .ap then
    if o.f1 = .ap then
      (((pieces 20 n (readBytes m o.s1 (20 * n))).map (fun l => (AP.ofBytes l).toBytes)).flatten, [], {})
    else ((a.map (fun v => v.x.toAP.toBytes)).flatten, [], {})
  else if o.fn = 8 then writePlanes o.fd o.rc ns a
  else
    let dd := if o.readsD then vecSource m o.fd false n o.d o.dx else []
    let s := decodeFloat .f32 o.scalar
    writePlanes o.fd o.rc ns ((a.zipIdx).map (fun p =>
      elemFn o.fn p.1.x ((b.getD p.2 (Val.of (.fin false 0 0))).x) ((dd.getD p.2 (Val.of (.fin false 0 0))).x) s))

/-- A VEC stroke as it starts: what it will write (R178, R180). -/
def startVec (f : Fuses) (d : Dev) (c : Nat) (o : VecOp) : VecRun :=
  let (e, x, ev) := vecResult f d o (plateView d c (.vector o.th))
  let (e, x) := if o.overlaps then (freeBytes d e.length, (freeBytes d (e.length + x.length)).drop e.length) else (e, x)
  { op := o, patches := [⟨o.d, e⟩] ++ (if x = [] then [] else [⟨o.dx, x⟩]), ev := ev }

/-- The unit can accept one more stroke (R169). -/
def VecState.accepts (v : VecState) : Bool :=
  decide (v.queue.length + (match v.cur with | some _ => 1 | none => 0) < 4)

def otherThr : Thr → Thr
  | .F => .B
  | .B => .F

/-- The other thread presents a VEC stroke that is otherwise ready in this cycle (R124). -/
def vecContest (k : Core) (t : Thr) : Bool :=
  let x := k.th (otherThr t)
  let w := k.word x.pc
  x.ready && decide (x.pc < (k.image (otherThr t)).2) && skClass w == 1 && waitsHold k w

/-- The vector unit accepts a thread's VEC stroke in this cycle (R124, R169). -/
def vecTakes (k : Core) (t : Thr) : Bool := k.vec.accepts && (!vecContest k t || k.vec.favour == t)

/-- What the issue of a VEC stroke does: LEN 0 completes at once, any other joins the unit's queue (R147, R180). -/
def acceptVec (f : Fuses) (c : Nat) (t : Thr) (o : VecOp) (contest : Bool) (d : Dev) : Dev :=
  let d := if contest then d.modCore c (fun k => { k with vec := { k.vec with favour := (otherThr t) } }) else d
  if o.len = 0 then signal f d c o.sig o.stroke
  else d.modCore c (fun k => { k with vec := { k.vec with queue := k.vec.queue ++ [o] } })

/-- The rows of the VEC functions: the issue of the thread's next stroke, a VEC stroke of function `fn` (R123,
R124, R146, R169). -/
def vecRow (fn : Nat) (c : Nat) (t : Thr) (f : Fuses) (d : Dev) : Dev :=
  let k := d.core c
  strokeRow f d c t (fun w => skClass w == 1 && skOp w == 0 && bits w 125 120 == fn)
    (fun _ => gateOpen d (f.tileOf c) && vecTakes k t)
    (fun w d' => acceptVec f c t (mkVecOp k t w) (vecContest k t) d')

/-- VEC_START (R179, R180): the oldest accepted stroke takes the unit, the one before it having used its cycles,
and its sources are read. -/
def vecStart (c : Nat) (u : Upset) (f : Fuses) (d : Dev) : Dev :=
  match (d.core c).vec.queue with
  | [] => d
  | o :: rest =>
    let d := d.modCore c (fun k => { k with vec := { k.vec with
      queue := rest, cur := none, tail := k.vec.tail ++ (match k.vec.cur with | some r => [r] | none => []) } })
    let d := meetUpset d c u o.reads
    match (d.core c).badIn o.reads with
    | some a => plateUeFault f d c o.th o.stroke a 1
    | none =>
      let r := startVec f d c o
      let d := spendFree d true
      d.modCore c (fun k => { k with vec := { k.vec with cur := some r } })

/-- What a completed stroke leaves: its bytes in the Plate, its events counted, its signal (R117, R180). -/
def finishVec (f : Fuses) (d : Dev) (c : Nat) (r : VecRun) : Dev :=
  let d := d.modCore c (fun k => k.patches r.patches)
  signal f (countEv d c r.ev) c r.op.sig r.op.stroke

/-- The lane rate r of a stroke (R179). -/
def VecOp.rate (o : VecOp) : Nat :=
  if o.fn = 0x1B then 16
  else if o.fn ∈ [0x10, 0x11, 0x12, 0x13] then 32
  else if o.fn = 8 ∧ (o.f1 = .ap ∨ o.fd = .ap) then 32
  else
    let wide := fun (x : Fmt) => decide (x.width > 16) || (o.fn == 8 && x == .s32)
    if wide o.f1 || (o.two && wide o.f2) || (!(o.fn == 0x18 || o.fn == 0x19) && wide o.fd) then 128 else 256

/-- T, the cycles a stroke occupies the unit (R179). -/
def VecOp.cycles (o : VecOp) : Nat :=
  let out := if o.outLen = o.len then fmtBytes o.fd o.len + (if o.hasNext o.fd then nextBytes o.fd o.len else 0) else 0
  max (ceilDiv o.len o.rate) (ceilDiv out 256)

/-- The cycles from a stroke's start to its completion beyond its T (R180). -/
def VecOp.latency (o : VecOp) : Nat :=
  if o.fn ∈ [0x18, 0x19, 0x1A] then 13
  else if o.fn = 0x1B then 10
  else if o.fn ∈ [0x10, 0x11, 0x12, 0x13] then 20
  else 8

/-- Stroke i of the started ones, oldest first, may complete before those older than it: by R180's table it can end no later,
having started at the earliest when the strokes between had used their cycles. -/
def mayComplete (rs : List VecRun) (i : Nat) : Bool :=
  match rs[i]? with
  | none => false
  | some r => (List.range i).all (fun j => match rs[j]? with
    | none => false
    | some q => decide ((((rs.take i).drop (j + 1)).map (fun x => x.op.cycles)).sum + r.op.cycles + r.op.latency ≤ q.op.latency))

/-- VEC_COMPLETE (R180): stroke i of those that have started completes, the oldest being 0. -/
def vecComplete (c i : Nat) (f : Fuses) (d : Dev) : Dev :=
  let k := d.core c
  let rs := k.vec.tail ++ k.vec.cur.toList
  match rs[i]? with
  | some r =>
    if mayComplete rs i then
      let v := if i < k.vec.tail.length then { k.vec with tail := k.vec.tail.eraseIdx i } else { k.vec with cur := none }
      finishVec f (d.setCore c { k with vec := v }) c r
    else d
  | none => d

end Sys2Proof.Machine
end

