-- ==== Sys2Proof/Machine/PowerRows.lean ====
section
/-! DEFINITION. The power, thermal, supply and ageing controllers (R527 to R538, R614). -/

namespace Sys2Proof.Machine

/-- RAIL_REPORT (R529): the input power averaged over the last 1 ms, the auxiliary rail's, both in W, and the busbar in mV. -/
def railReport (w aux bus : Nat) (f : Fuses) (d : Dev) : Dev :=
  let l := obj f d 0x2010 0
  let g := obj f d 0x2010 4
  let g := if l < w then max 4 (g - 1) else if 100 * w < 97 * l then min 64 (g + 1) else g
  (((d.setObj 0x2010 1 (min w 65535)).setObj 0x2010 2 (min aux 255)).setObj 0x2010 3 (min bus 65535)).setObj 0x2010 4 g

/-! ## Temperatures (R530 to R532) -/

/-- 1 °C in the sensors' unit. -/
abbrev degC : Int := 16

/-- The temperature of a tile (R530), in 1/16 °C: its hottest junction, or its hottest stack and 5 °C. -/
def tileReading (f : Fuses) (junction hbm : List Int) (t : Nat) : Int :=
  let s := (([0, 1].map (fun p => 2 * t + p)).filter (stackFitted f)).map (fun i => hbm.getD i 0 + 5 * degC)
  s.foldl max (junction.getD t 0)

/-- The range of R531 a temperature lies in. -/
def tempRange (x : Int) : Nat := if x < 100 * degC then 0 else if x < 105 * degC then 1 else if x < 115 * degC then 2 else 3

/-- The thermal controller's act on one tile below the trip (R531). -/
def thermalAct (f : Fuses) (d : Dev) (t : Nat) (x : Int) : Dev :=
  let r := tempRange x
  let new := decide (SMap.get 0 d.power.range t ≠ r)
  let g := obj f d (0x2020 + t) 2
  let g := if r = 0 then min 64 (g + 8) else if r = 1 then max 4 (g - 4) else 4
  let d := ({ d with power := { d.power with range := d.power.range.put t r } } : Dev).setObj (0x2020 + t) 2 g
  let d := if new ∧ r = 1 then eventAll f d Status.thermalThrottle t else if new ∧ r = 2 then eventAll f d Status.thermalLimit t else d
  if r = 2 ∧ d.power.alarm = false then ({ d with power := { d.power with alarm := true } } : Dev).emit (.pin "THERM_ALARM_N" false) else d

/-- A thermal trip (R531, R532, R540): its event and its record, and THERM_ALARM_N asserted; 10 ms later the device enters reset. -/
def thermalTrip (f : Fuses) (d : Dev) (t : Nat) (pulse : Bool) : Dev :=
  let d := if d.power.alarm then d else ({ d with power := { d.power with alarm := true } } : Dev).emit (.pin "THERM_ALARM_N" false)
  let d := eventAll f (ageRecord f d 4 t) Status.thermalTrip t
  { d with power := { d.power with trip := some (t, d.cyc + 10000 * usCycles, pulse) } }

/-- SENSOR_READ (R530, R531): the hottest junction sensor of each tile and the temperature of each stack, in 1/16 °C.  While
the device is not READY only the temperatures themselves count (R532). -/
def sensorRead (junction hbm : List Int) (pulse : Bool) (f : Fuses) (d : Dev) : Dev :=
  let fitted := (List.range 32).filter (stackFitted f)
  let all := (List.range 16).map (fun t => junction.getD t 0) ++ fitted.map (fun i => hbm.getD i 0)
  let hot := all.foldl max (all.headD 0)
  let temps := (List.range 16).map (tileReading f junction hbm)
  if ready d = false ∨ d.power.trip.isSome then { d with power := { d.power with hottest := hot } }
  else
    let mx := temps.foldl max (temps.headD 0)
    let pw := { d.power with hottest := hot, tmax := some (match d.power.tmax with | some y => max y mx | none => mx) }
    let d : Dev := { d with power := pw }
    let st := fun (i : Nat) => if stackFitted f i then unsext 16 (hbm.getD i 0) else 0
    let d := (List.range 16).foldl (fun d t =>
      (d.setObj (0x2020 + t) 0 (unsext 32 (temps.getD t 0))).setObj (0x2020 + t) 1 (st (2 * t) + 65536 * st (2 * t + 1))) d
    match (List.range 16).find? (fun t => decide (tempRange (temps.getD t 0) = 3)) with
    | some t => thermalTrip f d t pulse
    | none => (List.range 16).foldl (fun d t => thermalAct f d t (temps.getD t 0)) d

/-- THERM_ALARM_RELEASE (R531): 10 ms have passed with every tile below 103 °C. -/
def thermAlarmRelease (_f : Fuses) (d : Dev) : Dev :=
  if d.power.alarm && d.power.trip.isNone && (List.range 16).all (fun t => decide (tileTemp d t < 103 * degC)) then
    ({ d with power := { d.power with alarm := false } } : Dev).emit (.pin "THERM_ALARM_N" true)
  else d

/-! ## The busbar (R533, R614) -/

/-- G_SUPPLY follows the two conditions that hold it at 16. -/
def supplyGate (d : Dev) : Dev := d.setObj 0x2010 5 (if d.power.low || d.power.high then 16 else 64)

/-- SUPPLY_DROOP (R533): the busbar falls below 46 V. -/
def supplyDroop (f : Fuses) (d : Dev) : Dev :=
  let was := d.power.low
  let d := supplyGate { d with power := { d.power with low := true } }
  if was then d else eventAllFree f d Status.supplyDroop

/-- SUPPLY_RECOVER (R533): the busbar has stayed above 47 V for 1 ms. -/
def supplyRecover (_f : Fuses) (d : Dev) : Dev := supplyGate { d with power := { d.power with low := false } }

/-- BUSBAR_HIGH (R614): the busbar rises above 58 V, or has stayed at or below 57.5 V for 1 ms. -/
def busbarHigh (above : Bool) (f : Fuses) (d : Dev) : Dev :=
  let was := d.power.high
  let d := supplyGate { d with power := { d.power with high := above } }
  if above ∧ was = false then eventAllFree f d Status.supplyDroop else d

/-! ## Canaries, monitors and plans (R534 to R538) -/

/-- CANARY (R535): a canary path of a physical core fails; `hold` is for how many cycles the gate is held shut, at most
50 µs. -/
def canaryRow (core hold : Nat) (f : Fuses) (d : Dev) : Dev :=
  let t := core / 8
  if t ≥ 16 then d
  else
    let top := f.vmax.getD t 0
    let v := railOf f d t
    let slewing := ctr d 0x2000 3
    let d := d.bump (0x2020 + t) 9 32 1
    let d := { d with gateShut := d.gateShut.put t (d.cyc + min hold (50 * usCycles)) }
    let d := if v < top then d.setObj (0x2020 + t) 6 (min top (v + 10)) else
      slewCheck f (d.setObj 0x2000 2 (max 4500 (obj f d 0x2000 2 - 50))) true
    let d := if slewing = 0 ∧ ctr d 0x2000 3 = 1 then regFail f d Status.regSlew else d
    eventAll f (ageRecord f d 3 t) Status.canary core

/-- SLEW_STEP with what a slew's end lets pass (R525). -/
def slewStepRow (f : Fuses) (d : Dev) : Dev := regAdvance f (slewStep f d)

/-- MONITOR_READ (R534, R541): the latest monitor values, 64 of each tile. -/
def monitorRead (vals : List Nat) (_f : Fuses) (d : Dev) : Dev :=
  d.setObj 0x2100 5 (leNat ((List.range 1024).map (fun i => leBytes 2 (vals.getD i 0))).flatten)

/-- AGE_PERIOD (R536, R538): AGE_PERIOD_H hours have passed; the operands of a plan. -/
def agePeriod (need : List (List Nat)) (short : Nat) (f : Fuses) (d : Dev) : Dev := makePlan need short f d

/-- PLAN_NOW (R536): a plan is made now. -/
def planNow (f : Fuses) (d : Dev) (h : Nat) (need : List (List Nat)) (short : Nat) : Dev :=
  completeHandle f (makePlan need short f d) h 0 0

end Sys2Proof.Machine
end

