-- ==== Sys2Proof/Machine/Dict.lean ====
section
/-! DEFINITION. Accesses to the Dictionary: who reaches an object, what a read item returns, and how a written value is
clamped, applied or staged (R481 to R486, and the reach the chapters give their objects). -/

namespace Sys2Proof.Machine

/-! ## Reach (R482) -/

/-- The always-on set (R497). -/
def alwaysOn (idx sub : Nat) : Bool :=
  decide (0x1000 ≤ idx ∧ idx ≤ 0x11FF) || (idx == 0x6000 && sub == 0) || (idx == 0xA000 && decide (sub ≤ 7)) ||
    (idx == 0xE000 && (decide (sub ≤ 3) || sub == 0x0B))

/-- Objects reached only through a context's mailbox (R191, R196, R241, R288, R320, R413, R432). -/
def ctxOnly (idx : Nat) : Bool :=
  [0x3140, 0x3141, 0x3180, 0x3190, 0x3191, 0x9000, 0xB010].contains idx || decide (0x8000 ≤ idx ∧ idx ≤ 0x801F)

/-- Context 0 or the MGMT principal. -/
def manages (prin : Nat) : Bool := prin == 0 || prin == mgmtPrin

/-- The objects of a context that only context 0 writes (R462). -/
def pfObject (sub : Nat) : Bool := [1, 2, 9, 0x0A, 0x0B, 0x0C, 0x0D, 0x0E, 0x18].contains sub

/-- A principal reads an object's own value (R482); otherwise it reads the default. -/
def readReach (prin idx sub : Nat) : Bool :=
  if prin = untagged then alwaysOn idx sub
  else if 0x7000 ≤ idx ∧ idx < 0x8000 then prin == 0 || prin == idx - 0x7000
  else if ctxOnly idx then decide (prin < 4096)
  else if idx = 0x9010 then prin == 0
  else if idx = 0xF000 ∧ 0x10 ≤ sub then prin == mgmtPrin
  else if alwaysOn idx sub ∨ (idx = 0xA030 ∧ sub ≤ 3) then true
  else if (0x8100 ≤ idx ∧ idx ≤ 0x81FF) ∨ (0xA000 ≤ idx ∧ idx ≤ 0xA0FF) ∨ (0xA200 ≤ idx ∧ idx ≤ 0xA2FF) then manages prin
  else true

/-- The status that refuses a write of a principal that does not reach an object (R462, R479, R482, R541, R587); 0 where it
does. -/
def writeReach (f : Fuses) (d : Dev) (prin idx sub : Nat) : Nat :=
  let only := fun (b : Bool) => if b then 0 else Status.notReachable
  if prin = untagged then Status.notReachable
  else if 0x7000 ≤ idx ∧ idx < 0x8000 then
    if prin = 0 then 0
    else if pfObject sub ∧ prin < 4096 then Status.pfOnly
    else only (prin == idx - 0x7000 && !pfObject sub)
  else if 0xD100 ≤ idx ∧ idx ≤ 0xD1FF then only (prin == 0 || (sub == 1 && decide (prin < 4096) && obj f d idx 0 == prin))
  else if idx = 0xD000 ∧ sub = 2 then only (prin == 0)
  else if (idx = 0xC000 ∧ sub = 1) ∨ (0x2000 ≤ idx ∧ idx ≤ 0x22FF) ∨ idx = 0xA030 then only (manages prin)
  else only (readReach prin idx sub)

/-- The status of an access to a unit that this variant has not (R4, R134, R261, R287); 0 where the unit is there. -/
def absentStatus (f : Fuses) (idx : Nat) : Nat :=
  if 0x5000 ≤ idx ∧ idx ≤ 0x51FF ∧ f.longHaul = false then Status.noLongHaul
  else if (0xA100 ≤ idx ∧ idx < 0xA180 ∧ idx - 0xA100 ≥ f.cores) ∨ (0xB100 ≤ idx ∧ idx < 0xB180 ∧ idx - 0xB100 ≥ f.cores) then
    Status.noCore
  else 0

/-- The Dictionary serves an object in the device's present state (R532, R557). -/
def served (d : Dev) (idx sub : Nat) : Bool :=
  decide (ctr d 0xA000 0 = 2) || alwaysOn idx sub || (idx == 0xA000 && sub == 0x10 && ctr d 0xA000 0 == 4)

/-! ## Reading (R483) -/

/-- The value a principal has staged for an object (R483, R486). -/
def stagedOf (d : Dev) (prin idx sub : Nat) : Option Nat :=
  ((d.prin prin).staged.find? (fun s => s.idx == idx && s.sub == sub)).map Staged.val

/-- The whole value a read of a principal sees. -/
def seen (f : Fuses) (d : Dev) (prin : Nat) (o : Obj) (idx sub : Nat) (staged : Bool) : List Byte :=
  if readReach prin idx sub = false ∨ absentStatus f idx ≠ 0 then defaultBytes f o idx sub
  else match (if staged then stagedOf d prin idx sub else none) with
    | some v => leBytes o.len v
    | none => if idx = 0xA030 ∧ sub = 1 then leBytes 64 (stalledMask d) else valueBytes f d prin o idx sub

/-- The item's value is read in parts: BLOB and STR (R483). -/
def OTy.parts (t : OTy) : Bool := t = .blob || t = .str

/-- A read of a handle's record frees a completed entry (R470, R507). -/
def readFrees (f : Fuses) (d : Dev) (prin idx sub : Nat) : Dev :=
  if readReach prin idx sub = false then d
  else if 0x7000 ≤ idx ∧ idx < 0x8000 ∧ sub = 0x21 then (readHandle d (obj f d idx 0x20)).1
  else if idx = 0xF000 ∧ sub = 0x11 then (readHandle d (obj f d 0xF000 0x10)).1
  else d

/-- A READ item (R481 to R483, R492): its status and value; `room` is how many value bytes the response still takes. -/
def readItem (f : Fuses) (d : Dev) (prin idx sub off len room : Nat) (staged : Bool) : Dev × Nat × List Byte :=
  match objRow idx sub with
  | none => (d, Status.noObject, [])
  | some o =>
    if served d idx sub = false then (d, Status.notReady, [])
    else if idx = 0xA200 ∧ sub = 1 then
      -- DUMP_DATA: the crash dump region, too long to be read but in parts (R577)
      if off + len > o.len then (d, Status.typeSize, [])
      else if len = 0 ∨ len > room then (d, Status.responseSize, [])
      else (d, 0, if readReach prin idx sub then dumpBytes f d off len else zeros len)
    else
      let v := seen f d prin o idx sub staged
      let n := if len = 0 then v.length - off else len
      if (if o.ty.parts then decide (off + n > v.length) else decide (off ≠ 0) || decide (n ≠ v.length)) then (d, Status.typeSize, [])
      else if n > room then (d, Status.responseSize, [])
      else (readFrees f d prin idx sub, 0, slice v off n)

/-! ## Clamping (R484, R485) -/

/-- A power of 2 not above a number; 0 for 0. -/
def powBelow (v : Nat) : Nat := if v = 0 then 0 else 2 ^ v.log2

/-- The largest number below `n` with a property. -/
def lastBelow (p : Nat → Bool) : Nat → Option Nat
  | 0 => none
  | n + 1 => if p n then some n else lastBelow p n

/-- Steps 3 and 4 of R484 for a range: the nearer bound and its cause. -/
def toRange (lo hi v : Nat) : Nat × Nat := if v < lo then (lo, 1) else if v > hi then (hi, 2) else (v, 0)

/-- A rounding of step 2 followed by a range: the cause is that of the first rule that changed the value (R485). -/
def roundThen (v r lo hi : Nat) : Nat × Nat :=
  let (w, c) := toRange lo hi r
  (w, if r ≠ v then 3 else c)

/-- A field's value after clamping and the CAUSE, 0 where it is unchanged (R484, R485). -/
def clampField (f : Fuses) (c : Clamp) (w v : Nat) : Nat × Nat :=
  match c with
  | .full => (v, 0)
  | .bool => if v ≤ 1 then (v, 0) else (1, 10)
  | .bits m => let a := v &&& m; (a, if a = v then 0 else 4)
  | .range lo hi => toRange lo hi v
  | .rangeStep lo hi m => roundThen v (v / m * m) lo hi
  | .step m => roundThen v (v / m * m) 0 (2 ^ w - 1)
  | .bar2 => roundThen v (v / 2 ^ 36 * 2 ^ 36) 0 (2 ^ 48 - 2 ^ 36)
  | .zeroOr lo hi => if v < lo then (0, if v = 0 then 0 else 3) else if v > hi then (hi, 3) else (v, 0)
  | .orAlt lo hi alt =>
    if v < lo then (lo, 3) else if v ≤ hi ∨ v = alt then (v, 0) else if v < alt then (hi, 3) else (alt, 3)
  | .pow2 lo hi => let a := if v < lo then 0 else min hi (powBelow v); (a, if a = v then 0 else 3)
  | .custom =>
    -- ARB_SELECT (R518): the IDs of the arbiters there are
    if arbExists f v then (v, 0)
    else match lastBelow (arbExists f) v with
      | some a => (a, 3)
      | none => (4096, 3)

/-- The fields of a value, each with its first bit, its width and its constraint, from the chapters' layouts. -/
def fieldsOf (f : Fuses) (d : Dev) (o : Obj) (idx sub v : Nat) : List (Nat × Nat × Clamp) :=
  if idx = 0x3180 then
    [(0, 128, .full), (128, 16, .full), (144, 12, .full), (156, 4, .bits 0), (160, 1, .full), (161, 7, .bits 0), (168, 88, .bits 0)]
  else if idx = 0x3190 then
    [(0, 64, .full), (64, 64, .full), (128, 32, .range 1 65536), (160, 8, .range 0 1), (168, 8, .range 0 1), (176, 8, .range 0 1),
     (184, 72, .bits 0)]
  else if 0x8010 ≤ idx ∧ idx ≤ 0x801F then
    [(0, 128, .full), (128, 256, .full), (384, 2, .full), (386, 1, .full), (387, 1, .full), (388, 4, .bits 0), (392, 8, .range 0 64),
     (400, 16, .full), (416, 32, .range 100 60000000), (448, 16, .range 1 (max 1 (descOf v).ranks)), (464, 16, .full),
     (480, 16, .range 1 60000), (496, 12, .full), (508, 4, .bits 0)]
  else if 0x7000 ≤ idx ∧ idx < 0x8000 ∧ sub = 2 then [(0, 20, .full), (20, 11, .bits 0), (31, 1, .full)]
  else if 0x7000 ≤ idx ∧ idx < 0x8000 ∧ sub = 7 then [(0, 16, .orAlt 0 (if obj f d idx 1 = 0 then 2047 else 15) 0xFFFF)]
  else if 0x7000 ≤ idx ∧ idx < 0x8000 ∧ sub = 0x0A then [(0, 4, .bits 0), (4, 252, .full)]
  else if idx = 0xA031 ∧ sub = 0x10 then [(0, 1, .bits 0), (1, 8, .full), (9, 7, .bits 0)]
  else if idx = 0x5000 ∧ sub = 0x0A then
    let n := 2 ^ obj f d 0x4000 1
    if n ≥ 64 then [(0, 64, .full)] else [(0, n, .full), (n, 64 - n, .bits 0)]
  else if idx = 0x2010 then [(0, 16, .range 3000 f.tdp)]
  else if idx = 0x3020 ∧ sub = 0 then [(0, 16, .range 0 (if f.longHaul then 16 else 0))]
  else [(0, 8 * o.len, o.cl)]

/-- SINK_BUF_SIZE is rounded down to a power of 2 and then held to 1 to 64 MiB (R432, R484). -/
def clampOf (f : Fuses) (idx sub : Nat) (c : Clamp) (w v : Nat) : Nat × Nat :=
  if idx = 0x9010 ∧ sub = 1 then roundThen v (powBelow v) 0x100000 0x4000000 else clampField f c w v

/-- An entry of the write report for a field (R485). -/
def fieldEntry (idx sub cause b w requested applied : Nat) : ReportEntry :=
  ⟨idx, sub, cause, b, if w > 64 then 0 else w, requested % 2 ^ 64, applied % 2 ^ 64⟩

/-- A written value with each field it touches clamped on its own, and the entries of the fields that changed (R484, R485).
`lo` and `hi` are the bits written. -/
def clampValue (f : Fuses) (d : Dev) (o : Obj) (idx sub lo hi v : Nat) : Nat × List ReportEntry :=
  (fieldsOf f d o idx sub v).foldl (fun r x =>
    let (b, w, c) := x
    if b + w ≤ lo ∨ hi ≤ b then r
    else
      let old := (v >>> b) % 2 ^ w
      let (a, cause) := clampOf f idx sub c w old
      if a = old then r
      else (r.1 - (old <<< b) + (a <<< b), r.2 ++ [fieldEntry idx sub cause b w old a])) (v, [])

/-! ## Writing (R484 to R486) -/

/-- What a WRITE item comes to. -/
structure ItemOut where
  dev : Dev
  status : Nat := 0
  /-- the value of the response item -/
  value : List Byte := []
  entries : List ReportEntry := []
  deriving DecidableEq, Repr

/-- The staged set in ascending order with a value put in (R486, R487). -/
def putStaged (x : Staged) : List Staged → List Staged
  | [] => [x]
  | y :: t =>
    if ob x.idx x.sub < ob y.idx y.sub then x :: y :: t
    else if ob x.idx x.sub = ob y.idx y.sub then x :: t
    else y :: putStaged x t

/-- Staged objects fixed while a job runs (R26, R182, R388, R566). -/
def fixedByJob (idx sub : Nat) : Bool :=
  idx == 0x4000 || idx == 0x5000 || idx == 0x5040 || (idx == 0xA050 && sub == 0) || idx == 0xC010

/-- The low 64 bits of the value an object keeps; 0 for one that does not show it. -/
def keptLow (f : Fuses) (d : Dev) (prin : Nat) (o : Obj) (idx sub : Nat) : Nat :=
  if idx = 0xA200 ∧ sub = 1 then field (dumpBytes f d 0 8) 0 8
  else match o.acc with
    | .wo | .cmd => 0
    | _ => field (seen f d prin o idx sub false) 0 8

/-- A write that is refused and listed in the report (R485). -/
def refuseWrite (f : Fuses) (d : Dev) (prin : Nat) (o : Obj) (idx sub st cause : Nat) (data : List Byte) : ItemOut :=
  { dev := d, status := st,
    entries := [fieldEntry idx sub cause 0 (8 * data.length) (leNat data) (keptLow f d prin o idx sub)] }

/-- What a write of a plain object brings about beyond its value: a slew, a port taken down or let train, a frozen arbiter
(R309, R386, R515, R522). -/
def afterWrite (f : Fuses) (d : Dev) (idx sub v : Nat) : Dev :=
  if idx = 0x2000 ∧ sub = 1 then rootCapSet f d
  else if 0x4010 ≤ idx ∧ idx ≤ 0x4015 ∧ sub = 7 then portEnable f d (idx - 0x4010) v
  else if (idx = 0x5010 ∨ idx = 0x5011) ∧ sub = 0x0C then lhPortEnable f d (idx - 0x5010) v
  else if idx = 0x8100 ∧ sub = 1 then setFreeze f d (obj f d 0x8100 0) (v != 0)
  else d

/-- The bytes of a value with some of them replaced. -/
def overwrite (n v off : Nat) (data : List Byte) : Nat :=
  let l := leBytes n v
  leNat (l.take off ++ data ++ l.drop (off + data.length))

/-- A written value goes where its access says: into the staged set (RWS), at once into the object (RW), or DISCARD. -/
def storeItem (f : Fuses) (d : Dev) (prin : Nat) (o : Obj) (idx sub off : Nat) (data : List Byte) : ItemOut :=
  let p := d.prin prin
  let base := (if o.acc = .rws then stagedOf d prin idx sub else none).getD (obj f d (storeIdx prin idx) sub)
  let (v, es) := clampValue f d o idx sub (8 * off) (8 * (off + data.length)) (overwrite o.len base off data)
  let out := slice (leBytes o.len v) off data.length
  match o.acc with
  | .rws =>
    let l := putStaged ⟨idx, sub, v, o.len⟩ p.staged
    if l.length > 256 ∨ (l.map Staged.len).sum > 32768 then { dev := d, status := Status.stageFull }
    else { dev := d.setPrin prin { p with staged := l }, value := out, entries := es }
  | .wo => { dev := if v = 1 then d.setPrin prin { p with staged := [] } else d, value := out, entries := es }
  | _ =>
    let d := if idx = 0x8100 ∧ sub = 1 then d else d.setObj (storeIdx prin idx) sub v
    { dev := afterWrite f d idx sub v, value := out, entries := es }

/-- A WRITE item on an object that is no CMD object (R481 to R486). -/
def writeItem (f : Fuses) (d : Dev) (prin idx sub off : Nat) (data : List Byte) : ItemOut :=
  match objRow idx sub with
  | none => { dev := d, status := Status.noObject }
  | some o =>
    let refuse := fun (st cause : Nat) => refuseWrite f d prin o idx sub st cause data
    let reach := writeReach f d prin idx sub
    if absentStatus f idx ≠ 0 then refuse (absentStatus f idx) 11
    else if served d idx sub = false then { dev := d, status := Status.notReady }
    else if reach ≠ 0 then refuse reach 8
    else if o.acc = .ro then refuse Status.readOnly 5
    else if (if o.ty.parts then decide (off + data.length > o.len) else decide (off ≠ 0) || decide (data.length ≠ o.len)) then
      { dev := d, status := Status.typeSize }
    else if o.acc = .rws ∧ fixedByJob idx sub ∧ jobRunning d then refuse Status.jobRunning 6
    else storeItem f d prin o idx sub off data

end Sys2Proof.Machine
end

