-- ==== Sys2Proof/Machine/Commit.lean ====
section
/-! DEFINITION. COMMIT (R487): the checks of the owning chapters over a staged set, the adjustments made at commit, and
what takes effect with it. -/

namespace Sys2Proof.Machine

/-! ## The values a set would leave -/

/-- The value of an object once a staged set has been applied. -/
def nextObj (f : Fuses) (d : Dev) (prin : Nat) (l : List Staged) (idx sub : Nat) : Nat :=
  match l.find? (fun s => s.idx == idx && s.sub == sub) with
  | some s => s.val
  | none => obj f d (storeIdx prin idx) sub

/-- Any thread of any core is RUN, WAIT or STOPPED (R106, R219). -/
def anyBusy (f : Fuses) (d : Dev) : Bool := (List.range f.cores).any (fun c => (d.core c).busy)

/-- A committing context's grant of a core once the set is applied (R192, R322). -/
def willOwn (f : Fuses) (d : Dev) (prin : Nat) (l : List Staged) (c : Nat) : Bool :=
  decide (c < f.cores) && (nextObj f d prin l (0x7000 + prin) 9).testBit c

/-! ## Stage groups (R192) -/

/-- The stage group of 32 descriptor bytes (R191). -/
def stageOf (b : Nat) : StageGroup :=
  { members := bits b 127 0, stage := bits b 143 128, context := bits b 155 144, valid := bit b 160 }

/-- Another valid group has a member of the mask once the set is applied. -/
def overlaps (f : Fuses) (d : Dev) (prin : Nat) (l : List Staged) (k members : Nat) : Bool :=
  (List.range 128).any (fun j =>
    let x := stageOf (nextObj f d prin l 0x3180 j)
    j != k && x.valid && (x.members &&& members) != 0)

/-- The check of one staged stage group (R192), in the order of its table. -/
def stageCheck (f : Fuses) (d : Dev) (prin : Nat) (l : List Staged) (k v : Nat) : Nat :=
  let x := stageOf v
  let o := stageGroup d k
  let foreign := o.valid && o.context != prin
  let cs := bitList 128 x.members
  let busy := (bitList 128 (x.members ||| o.members)).any (fun c => (d.core c).busy)
  if v % 2 ^ 144 = ctr d 0x3180 k % 2 ^ 144 ∧ v >>> 160 = ctr d 0x3180 k >>> 160 ∧ !foreign then 0
  else if x.valid then
    if cs.any (fun c => !willOwn f d prin l c) then Status.noCore
    else if cs.any (withdrawn d) then Status.coreWithdrawn
    else if cs.isEmpty then Status.groupInvalid
    else if overlaps f d prin l k x.members then Status.groupOverlap
    else if busy then Status.coreBusy
    else if foreign then Status.groupInvalid
    else 0
  else if o.valid = false then 0
  else if foreign then Status.groupInvalid
  else if (bitList 128 o.members).any (fun c => (d.core c).busy) then Status.coreBusy
  else 0

/-! ## Collective groups (R322) -/

/-- The check of one staged group descriptor that sets VALID (R322). -/
def descCheck (f : Fuses) (d : Dev) (prin : Nat) (l : List Staged) (g v : Nat) : Nat :=
  let x := descOf v
  let o := groupDesc f d g
  let n := axisSize f d (x.axis - 1)
  let own := coordOf f d (devAddr f d) (x.axis - 1)
  let bad := x.coreList.isEmpty || (o.valid && o.ctx != prin) || decide (x.root ≥ x.ranks) ||
    (if x.axis = 0 then x.devs != 0 else !x.devs.testBit own || x.devs >>> n != 0)
  if x.valid = false then 0
  else if x.coreList.any (fun c => !willOwn f d prin l c) then Status.noCore
  else if x.coreList.any (withdrawn d) then Status.coreWithdrawn
  else if bad then Status.groupConfig
  else if groupRunning f d g then Status.groupBusy
  else 0

/-! ## The partition (R292) -/

/-- The committed objects with those of one index staged in the set put in. -/
def withStaged (d : Dev) (prin : Nat) (l : List Staged) (idx : Nat) : Dev :=
  (l.filter (fun s => s.idx == idx)).foldl (fun d s => d.setObj (storeIdx prin s.idx) s.sub s.val) d

/-- Z_BITS follows the other widths (R292). -/
def deriveZ (f : Fuses) (d : Dev) : Dev := d.setObj 0x4000 4 (16 - obj f d 0x4000 1 - obj f d 0x4000 2 - obj f d 0x4000 3)

/-- The partition a set would leave is refused (R292). -/
def partitionBad (f : Fuses) (d : Dev) (prin : Nat) (l : List Staged) : Bool :=
  let e := deriveZ f (withStaged d prin l 0x4000)
  let w := obj f e 0x4000 1 + obj f e 0x4000 2 + obj f e 0x4000 3
  decide (w > 16 ∨ 16 - w > 8) ||
    [0, 1, 2].any (fun a => decide (axisSize f e a > 2 ^ axisBits f e a) || decide (coordOf f e (devAddr f e) a ≥ axisSize f e a))

/-! ## Contexts (R463) -/

/-- The contexts that hold or would hold a grant. -/
def grantHolders (d : Dev) (l : List Staged) : List Nat :=
  let keys := (d.objs.map (fun p => p.1 / 256)) ++ l.map Staged.idx
  (0 :: (keys.filter (fun i => decide (0x7000 ≤ i ∧ i < 0x8000))).map (fun i => i - 0x7000)).eraseDups

/-- Two ranges of claim counters meet. -/
def claimsMeet (a n b m : Nat) : Bool := decide (n ≠ 0 ∧ m ≠ 0 ∧ a < b + m ∧ b < a + n)

/-- GRANT_CONFLICT for one staged grant (R463). -/
def grantConflict (f : Fuses) (d : Dev) (prin : Nat) (l : List Staged) (g sub : Nat) : Bool :=
  let nv := fun (c s : Nat) => nextObj f d prin l (0x7000 + c) s
  let others := (grantHolders d l).filter (· ≠ g)
  match sub with
  | 9 => others.any (fun c => (nv c 9 &&& nv g 9) != 0)
  | 0x0A => others.any (fun c => (nv c 0x0A &&& nv g 0x0A) != 0)
  | 0x0B | 0x0C => others.any (fun c => claimsMeet (nv c 0x0B) (nv c 0x0C) (nv g 0x0B) (nv g 0x0C))
  | 0x0D => decide (((g :: others).map (fun c => nv c 0x0D)).sum > 65536) || decide (nv g 0x0D < handlesUsed d g)
  | _ => false

/-- The check of one staged object of a context (R41, R463); `h` is the handle of this COMMIT. -/
def ctxCheck (f : Fuses) (d : Dev) (prin : Nat) (l : List Staged) (h g sub v : Nat) : Nat :=
  let old := obj f d (0x7000 + g) sub
  let running : Bool := match (d.ctx g).state with | .running => true | _ => false
  if 9 ≤ sub ∧ sub ≤ 0x0E then
    if running ∧ v ≠ old then Status.jobRunning
    else if sub = 9 ∧ v >>> f.cores ≠ 0 then Status.noCore
    else if grantConflict f d prin l g sub then Status.grantConflict
    else if sub = 9 ∧ (bitList 128 old).any (fun c => !v.testBit c && (d.core c).busy) then Status.coreBusy
    else 0
  else if 3 ≤ sub ∧ sub ≤ 6 then
    let pending := d.handles.any (fun p => decide (p.1 / 2 ^ 20 = g) && p.1 != h && !p.2.complete)
    let shut : Bool := match (d.ctx g).state with | .opened => false | _ => true
    if shut ∨ pending then Status.ringConfig else 0
  else 0

/-! ## The checks of a set -/

/-- The status that refuses one staged object, 0 for none (R487). -/
def commitCheck (f : Fuses) (d : Dev) (prin h : Nat) (l : List Staged) (s : Staged) : Nat :=
  if s.idx = 0x3010 ∨ s.idx = 0x3100 then (if anyBusy f d then Status.coreBusy else 0)
  else if s.idx = 0x3020 then (if d.ctxs.any (fun p => !p.2.maps.isEmpty) then Status.mapBusy else 0)
  else if s.idx = 0x3180 then stageCheck f d prin l s.sub s.val
  else if 0x8010 ≤ s.idx ∧ s.idx ≤ 0x801F then descCheck f d prin l (256 * (s.idx - 0x8010) + s.sub) s.val
  else if fixedByJob s.idx s.sub ∧ jobRunning d then Status.jobRunning
  else if s.idx = 0x4000 then (if partitionBad f d prin l then Status.partition else 0)
  else if 0x7000 ≤ s.idx ∧ s.idx < 0x8000 then ctxCheck f d prin l h (s.idx - 0x7000) s.sub s.val
  else if s.idx = 0x9000 ∨ s.idx = 0x9010 then (if d.proof.state ≠ 0 then Status.proofBusy else 0)
  else if s.idx = 0xB010 then
    let n := 256 * nextObj f d prin l 0xB010 1
    if n ≠ 0 ∧ (ctxRuns d prin false (nextObj f d prin l 0xB010 0) n).isNone then Status.window
    else if ctxBusy f d prin then Status.coreBusy else 0
  else 0

/-! ## Adjustments at commit (R107, R219, R369, R462) -/

/-- Sizes reduced in an order, each down to its least, until an excess is gone: the set with what changed, and the entries
with cause 7. -/
def shave (f : Fuses) (d : Dev) (prin idx len : Nat) : List (Nat × Nat) → Nat → List Staged → List Staged × List ReportEntry
  | [], _, l => (l, [])
  | (sub, least) :: t, tooLong, l =>
    let v := nextObj f d prin l idx sub
    let cut := min tooLong (v - least)
    if cut = 0 then shave f d prin idx len t tooLong l
    else
      let r := shave f d prin idx len t (tooLong - cut) (putStaged ⟨idx, sub, v - cut, len⟩ l)
      (r.1, fieldEntry idx sub 7 0 (8 * len) v (v - cut) :: r.2)

/-- The excess of a sum over its limit, where the set names the index. -/
def excess (f : Fuses) (d : Dev) (prin idx : Nat) (subs : List Nat) (top : Nat) (l : List Staged) : Nat :=
  if l.any (fun s => s.idx == idx && subs.contains s.sub) then (subs.map (nextObj f d prin l idx)).sum - top else 0

/-- A vector above 15 of a context that would belong to a VF (R462). -/
def vectorFix (f : Fuses) (d : Dev) (prin : Nat) (l : List Staged) : List Staged × List ReportEntry :=
  let gs := ((l.filter (fun s => decide (0x7000 ≤ s.idx ∧ s.idx < 0x8000) && (s.sub == 1 || s.sub == 7))).map Staged.idx).eraseDups
  gs.foldl (fun r i =>
    let v := nextObj f d prin r.1 i 7
    if nextObj f d prin r.1 i 1 ≠ 0 ∧ v > 15 ∧ v ≠ 0xFFFF then
      (putStaged ⟨i, 7, 15, 2⟩ r.1, r.2 ++ [fieldEntry i 7 7 0 16 v 15])
    else r) (l, [])

/-- Every adjustment of a set. -/
def adjust (f : Fuses) (d : Dev) (prin : Nat) (l : List Staged) : List Staged × List ReportEntry :=
  let (l, a) := shave f d prin 0x3010 1 [(2, 0), (3, 0), (1, 0), (4, 2)] (excess f d prin 0x3010 [0, 1, 2, 3, 4] 64 l) l
  let (l, b) := shave f d prin 0x3100 4 [(3, 0), (2, 0), (1, 0)] (excess f d prin 0x3100 [0, 1, 2, 3] 12288 l) l
  let (l, c) := shave f d prin 0x5000 1 [(8, 0)] (excess f d prin 0x5000 [7, 8] 255 l) l
  let (l, e) := vectorFix f d prin l
  (l, a ++ b ++ c ++ e)

/-! ## Taking effect -/

/-- The owning context is written by the device (R191, R321). -/
def ownValue (prin : Nat) (s : Staged) : Nat :=
  if s.idx = 0x3180 then s.val - (bits s.val 155 144 <<< 144) + ((prin % 4096) <<< 144)
  else if 0x8010 ≤ s.idx ∧ s.idx ≤ 0x801F then s.val - (bits s.val 507 496 <<< 496) + ((prin % 4096) <<< 496)
  else s.val

/-- The rings of a context start anew (R463). -/
def freshRings (d : Dev) (g : Nat) : Dev :=
  d.setCtx g { d.ctx g with cmdCons := 0, cmdProd := 0, evtProd := 0, evtCons := 0, events := [] }

/-- What one committed object brings about beside its value; `old` is the value it had. -/
def committed (f : Fuses) (d : Dev) (s : Staged) (old : Nat) : Dev :=
  if s.idx = 0x4000 then deriveZ f (if s.sub = 0 then d.setObj 0x4000 8 1 else d)
  else if 0x7000 ≤ s.idx ∧ s.idx < 0x8000 then
    if 3 ≤ s.sub ∧ s.sub ≤ 6 then freshRings d (s.idx - 0x7000)
    else if s.sub = 9 then ((bitList 128 old).filter (fun c => !s.val.testBit c)).foldl (coreReset f) d
    else d
  else if 0x8010 ≤ s.idx ∧ s.idx ≤ 0x801F then d.modGroup (256 * (s.idx - 0x8010) + s.sub) newDescriptor
  else if s.idx = 0xA020 ∧ s.sub = 1 then { d with rst := { d.rst with bankNext := s.val } }
  else if s.idx = 0xE000 ∧ s.sub = 5 then d.setObj 0xE000 9 s.val
  else if s.idx = 0x9010 then sinkCommitted d
  else if s.idx = 0x3020 then d.setObj 0x9030 2 0
  else d

/-- The set takes effect at one point (R487). -/
def applySet (f : Fuses) (d : Dev) (prin : Nat) (l : List Staged) : Dev :=
  let old := fun (s : Staged) => obj f d (storeIdx prin s.idx) s.sub
  let e := l.foldl (fun d s => d.setObj (storeIdx prin s.idx) s.sub (ownValue prin s)) d
  l.foldl (fun e s => committed f e s (old s)) e

/-- The entry of an object that a commit refuses (R485). -/
def refusalEntry (f : Fuses) (d : Dev) (prin : Nat) (s : Staged) (st : Nat) : ReportEntry :=
  fieldEntry s.idx s.sub 9 0 (8 * s.len) st (obj f d (storeIdx prin s.idx) s.sub)

/-- The cores a set takes from a grant, which are reset before the commit completes (R463). -/
def removedCores (f : Fuses) (d : Dev) (l : List Staged) : List Nat :=
  ((l.filter (fun s => decide (0x7000 ≤ s.idx ∧ s.idx < 0x8000) && s.sub == 9)).map (fun s =>
    (bitList 128 (obj f d s.idx 9)).filter (fun c => !s.val.testBit c))).flatten

/-- A set that has passed its checks takes effect (R463, R487), once the writes issued by the cores it removes are complete. -/
def commitSet (f : Fuses) (d : Dev) (r : CommitRun) : Dev :=
  let (l, es) := adjust f d r.prin r.set
  let d := applySet f d r.prin l
  let p := d.prin r.prin
  completeHandle f (d.setPrin r.prin { p with staged := p.staged.filter (fun s => !r.set.contains s),
                                              report := { seq := r.handle, status := 0, entries := es } }) r.handle 0 0

/-- COMMITs that wait for cores go on (R463). -/
def commitGo (f : Fuses) (d : Dev) : Dev :=
  d.host.commits.foldl (fun d r =>
    let cs := removedCores f d r.set
    let d := cs.foldl (fun d c => drainCore f (silence d c) c) d
    if cs.all (drained d) then commitSet f { d with host := { d.host with commits := d.host.commits.erase r } } r else d) d

/-- COMMIT (R487). -/
def commit (f : Fuses) (d : Dev) (h prin : Nat) : Dev :=
  let l := (d.prin prin).staged
  let bad := (l.map (fun s => (s, commitCheck f d prin h l s))).filter (fun x => x.2 != 0)
  match bad with
  | x :: _ =>
    let rep : Report := { seq := h, status := x.2, entries := bad.map (fun y => refusalEntry f d prin y.1 y.2) }
    completeHandle f (d.setPrin prin { d.prin prin with report := rep }) h x.2 0
  | [] => commitGo f { d with host := { d.host with commits := d.host.commits ++ [{ handle := h, prin := prin, set := l }] } }

end Sys2Proof.Machine
end

