-- ==== Sys2Proof/Machine/Cmd.lean ====
section
/-! DEFINITION. CMD objects (R488): which invocations take a handle, and what each command does. -/

namespace Sys2Proof.Machine

/-! ## The refusals that take no handle (R488) -/

/-- The fields of an argument whose chapter names MALFORMED, or names nothing, hold only stated values (R196, R226, R323, R411,
R429, R430, R476, R547, R560, R580). -/
def cmdArgOk (f : Fuses) (idx sub a : Nat) : Bool :=
  match idx, sub with
  | 0x3140, 0 => claimSetArgOk a
  | 0x3040, 4 => decide (a < f.extMem / 4096)
  | 0x6000, 0x0D => decide (a ≤ 2)
  | 0x8002, _ => decide (a < 4096)
  | 0x9000, 2 => proofArgOk a
  | 0x9000, 4 => decide (bits a 31 1 = 0 ∧ bits a 63 48 = 0)
  | 0xA000, 0x10 => decide (a ≤ 1)
  | 0xA020, 8 => fwUpdateArgOk a
  | 0xA020, 9 => decide (a ≤ 63)
  | 0xA030, 0 => engineResetArgOk f a
  | i, 0x1A => if 0x7000 ≤ i ∧ i < 0x8000 then jobArgOk a else true
  | _, _ => true

/-- The context whose handles a principal's commands take (R488). -/
def handleCtx (prin : Nat) : Nat := if prin < 4096 then prin else 0

/-- The status that an invocation returns without a handle; 0 where it takes one (R488). -/
def cmdCheck (f : Fuses) (d : Dev) (prin idx sub off : Nat) (arg : List Byte) (grant : Bool) : Nat :=
  match objRow idx sub with
  | none => Status.noObject
  | some o =>
    let g := handleCtx prin
    if absentStatus f idx ≠ 0 then absentStatus f idx
    else if served d idx sub = false then Status.notReady
    else if writeReach f d prin idx sub ≠ 0 then writeReach f d prin idx sub
    else if o.acc ≠ .cmd ∨ off ≠ 0 ∨ arg.length ≠ o.len then Status.typeSize
    else if cmdArgOk f idx sub (leNat arg) = false then Status.malformed
    else if grant ∧ handlesUsed d g ≥ obj f d (0x7000 + g) 0x0D then Status.handlesFull
    else 0

/-! ## The commands -/

/-- KEY_PROMOTE (R498) waits for the response to its frame. -/
def promoteDue (d : Dev) (h : Nat) : Dev := { d with host := { d.host with promote := d.host.promote ++ [h] } }

/-- KEY_PROMOTE (R498): slot 1's key and header move into slot 0, slot 1 is erased, and the sender table is cleared. -/
def promote (f : Fuses) (d : Dev) (h : Nat) : Dev :=
  match SMap.find? d.vault.slots 1 with
  | none => completeHandle f d h Status.noKey 0
  | some k =>
    let d : Dev := slotTurn { d with vault := { d.vault with slots := d.vault.slots.put 0 k } } d.stampNow
    let d := (eraseSlots f d (· == 1)).setObj 0xE000 0x0B 0
    let d : Dev := { d with host := { d.host with senders := [], retired := [] } }
    let d := spendFree (event0 f d Status.keyPromoted (freeArg d)) true
    completeHandle f d h 0 0

/-- COUNTER_CLEAR and UPD_CLEAR (R134, R287). -/
def clearRun (f : Fuses) (d : Dev) (h idx lo hi : Nat) : Dev := completeHandle f (d.clearObjs idx lo hi) h 0 0

/-- RETIRE_GRANULE (R226). -/
def retireCmd (f : Fuses) (d : Dev) (h a : Nat) : Dev :=
  let (d, st) := retireGranule f d a
  completeHandle f d h st 0

/-- BURNISH_NOW (R225). -/
def burnishNow (f : Fuses) (d : Dev) (h : Nat) (e : Outside) : Dev := completeHandle f (burnishPass f d e.ces e.ues) h 0 0

/-- ERASE_ALL (R395, R398, R411): by the mailbox of the physical function or a frame under slot 0 only. -/
def eraseAllCmd (f : Fuses) (d : Dev) (h src : Nat) (w : Writer) : Dev :=
  if (w.prin = 0 ∧ src ≠ ringSrc) ∨ (w.prin = mgmtPrin ∧ w.key1 = false) then eraseAll f d h w.prin src else completeHandle f d h Status.slotGrant 0

/-- SELFTEST (R410, R411): a long-haul engine of an L variant is not there; the holders of an engine under test go to the
other port. -/
def selftestCmd (f : Fuses) (d : Dev) (h u : Nat) : Dev :=
  if f.longHaul = false ∧ u < 2 then completeHandle f d h Status.noCipher 0
  else if u < 2 then moveHolders f (selftest f d h u) u
  else selftest f d h u

/-- IG_FORM (R353): under R26 no formation while a job runs. -/
def igFormRun (f : Fuses) (d : Dev) (h : Nat) (e : Outside) : Dev :=
  if jobRunning d then completeHandle f d h Status.jobRunning 0 else igFormCmd f d h e.answers

/-- LH PORT_RESET (R389). -/
def lhResetCmd (f : Fuses) (d : Dev) (h p : Nat) : Dev := completeHandle f (lhReset f d p) h 0 0

/-- A command of a context's page (R462); `g` is the context of the object. -/
def ctxCmd (f : Fuses) (d : Dev) (h g sub a : Nat) : Dev :=
  match sub with
  | 0x18 => ctxOpen f d h g
  | 0x19 => ctxClose f d h g
  | 0x1A => jobStart f d h g a
  | 0x1B => jobEnd f d h g
  | _ => handleSweep f d h g

/-- Where a DEVICE_RESET came by: 0 a mailbox, 1 the management port, 2 the torus (R544). -/
def viaOf (prin src : Nat) : Nat := if prin < 4096 then 0 else if src = 4097 then 2 else 1

/-- What an invoked command does (R488). `w` is who invokes it, `src` the source of the frame. -/
def cmdRun (f : Fuses) (d : Dev) (w : Writer) (src h idx sub : Nat) (arg : List Byte) (e : Outside) : Dev :=
  let a := leNat arg
  match idx, sub with
  | 0x2100, _ => planNow f d h e.rails e.short
  | 0x3030, _ => burnishNow f d h e
  | 0x3040, _ => retireCmd f d h a
  | 0x3140, _ => claimSet f d h w.prin a
  | 0x3190, _ => stateCheck f d h w.prin
  | 0x4020, _ => routeRestore f d h
  | 0x5000, 0x18 => igFormRun f d h e
  | 0x5000, _ => igJoinCmd f d h
  | 0x6000, 1 => keyLoad f d h w.prin src arg
  | 0x6000, 2 => keyErase f d h w.prin src a
  | 0x6000, 3 => eraseAllCmd f d h src w
  | 0x6000, _ => selftestCmd f d h a
  | 0x8002, 0 => groupForm f d a h
  | 0x8002, _ => groupDissolve f d a h
  | 0x9000, 2 => proofStartCmd f d h w.prin a
  | 0x9000, 3 => proofAbortCmd f d h
  | 0x9000, _ => restore f d h w.prin a e.store
  | 0xA000, _ => deviceResetDue d (viaOf w.prin src) a
  | 0xA020, 8 => fwUpdate f d h a e.sigOk
  | 0xA020, _ => fwSvnRaise f d h a
  | 0xA030, _ => engineReset f d h a
  | 0xA040, 1 => coreWithdraw f d h a
  | 0xA040, 2 => coreTest f d h a e.test
  | 0xA040, _ => reinstate f d h a
  | 0xC000, _ => regArm f d h a
  | 0xD000, _ => failover f d h
  | 0xE000, _ => promoteDue d h
  | 0xF000, _ => commit f d h w.prin
  | i, s =>
    if 0x7000 ≤ i ∧ i < 0x8000 then ctxCmd f d h (i - 0x7000) s a
    else if 0x4010 ≤ i ∧ i ≤ 0x4015 then portReset f d (i - 0x4010) h
    else if i = 0x5010 ∨ i = 0x5011 then lhResetCmd f d h (i - 0x5010)
    else if s = 0x20 then clearRun f d h i 0x10 0x1E
    else clearRun f d h i 0x21 0x25

/-- The object's last handle is kept for its principal (R483). -/
def keepHandle (d : Dev) (prin idx sub h : Nat) : Dev :=
  d.setPrin prin { d.prin prin with handles := (d.prin prin).handles.put (ob idx sub) h }

/-- A write to a CMD object (R488): refused without a handle, or its handle returned and the command run. `notify` is the
address a NOTIFY frame is to go to (R504). -/
def cmdItem (f : Fuses) (d : Dev) (w : Writer) (src idx sub off : Nat) (arg : List Byte) (notify : Option Nat) (e : Outside) : ItemOut :=
  let st := cmdCheck f d w.prin idx sub off arg true
  if st = 0 then
    let (d, h) := takeHandle d (handleCtx w.prin) { notify := notify }
    { dev := cmdRun f (keepHandle d w.prin idx sub h) w src h idx sub arg e, value := leBytes 4 h }
  else
    match objRow idx sub with
    | some o =>
      if absentStatus f idx ≠ 0 then refuseWrite f d w.prin o idx sub st 11 arg
      else if served d idx sub ∧ writeReach f d w.prin idx sub ≠ 0 then refuseWrite f d w.prin o idx sub st 8 arg
      else { dev := d, status := st }
    | none => { dev := d, status := st }

/-- A WRITE item on any object. -/
def anyItem (f : Fuses) (d : Dev) (w : Writer) (src idx sub off : Nat) (data : List Byte) (notify : Option Nat) (e : Outside) : ItemOut :=
  match (objRow idx sub).map Obj.acc with
  | some .cmd => cmdItem f d w src idx sub off data notify e
  | _ => writeItem f d w.prin idx sub off data

/-! ## The command rings (R467) -/

/-- DICT (R467): an entry of a context's command ring invokes a CMD object; every status is the completion of the entry's
handle.  The argument lies at byte 64, and bytes beyond it are 0. -/
def dictRow (g : Nat) (e : Outside) (f : Fuses) (d : Dev) : Dev :=
  startEntry f d g (fun b => entryKind b == 1) (fun d h b =>
    let (idx, sub) := (field b 8 2, field b 10 1)
    match objRow idx sub with
    | none => completeHandle f d h Status.noObject 0
    | some o =>
      if o.acc ≠ .cmd ∨ zeroAt b (64 + o.len) (64 - o.len) = false then completeHandle f d h Status.malformed 0
      else if o.len > 64 then completeHandle f d h Status.typeSize 0
      else
        let arg := slice b 64 o.len
        let st := cmdCheck f d g idx sub 0 arg false
        if st = 0 then cmdRun f (keepHandle d g idx sub h) { prin := g } ringSrc h idx sub arg e else completeHandle f d h st 0)

/-! ## A write as a row of its own -/

/-- A write that arrives as a frame of one item: the item is served and the principal's report replaced (R485).  A COMMIT
leaves its own report. -/
def oneItem (f : Fuses) (d : Dev) (w : Writer) (src idx sub off : Nat) (data : List Byte) (e : Outside) : Dev :=
  let r := anyItem f d w src idx sub off data none e
  if idx = 0xF000 ∧ sub = 0 ∧ r.status = 0 then r.dev
  else r.dev.setPrin w.prin { r.dev.prin w.prin with report := { seq := w.seq, status := 0, entries := r.entries } }

/-- A row of a CMD object: its argument as a number. -/
def cmdRow (w : Writer) (idx sub a : Nat) (e : Outside) (f : Fuses) (d : Dev) : Dev :=
  match objRow idx sub with
  | some o => oneItem f d w w.prin idx sub 0 (leBytes o.len a) e
  | none => d

/-- Objects whose writes have a row of their own. -/
def ownRow (idx sub : Nat) : Bool :=
  (idx == 0x2000 && sub == 1) || (idx == 0x2010 && sub == 0) || (idx == 0x8100 && sub == 1) || (idx == 0xF000 && sub == 1) ||
    (decide (0x4010 ≤ idx ∧ idx ≤ 0x4015) && sub == 7) || (decide (0xD100 ≤ idx ∧ idx ≤ 0xD1FF) && sub == 1) ||
    decide (((objRow idx sub).map Obj.acc) = some .cmd)

/-- REGISTER_WRITE (R484): a write to an object without a row of its own. -/
def registerWrite (w : Writer) (idx sub off : Nat) (data : List Byte) (f : Fuses) (d : Dev) : Dev :=
  if ownRow idx sub then d else oneItem f d w w.prin idx sub off data {}

/-- A write of a whole plain object by its number. -/
def plainRow (w : Writer) (idx sub v : Nat) (f : Fuses) (d : Dev) : Dev :=
  match objRow idx sub with
  | some o => oneItem f d w w.prin idx sub 0 (leBytes o.len v) {}
  | none => d

/-- A row of a CMD object whose argument is bytes. -/
def blobRow (w : Writer) (idx sub : Nat) (data : List Byte) (e : Outside) (f : Fuses) (d : Dev) : Dev :=
  oneItem f d w w.prin idx sub 0 data e

/-- The index of instance `i` of an object kept `n` times from index `base`; 0, which names no object, where it does not
exist. -/
def perUnit (base n i : Nat) : Nat := if i < n then base + i else 0

/-- The row DEVICE_RESET (R547): DEVICE_RESET is written, where none is due, and 1 ms after its response the reset that is due
is taken. -/
def deviceResetRow (w : Writer) (kind : Nat) (pulse : Bool) (f : Fuses) (d : Dev) : Dev :=
  deviceResetTake f (if d.rst.due.isSome then d else cmdRow w 0xA000 0x10 kind {} f d) pulse

/-- The row KEY_PROMOTE (R498): KEY_PROMOTE is written, where none waits, and once the response has left the key moves. -/
def keyPromoteRow (w : Writer) (f : Fuses) (d : Dev) : Dev :=
  let d := if d.host.promote.isEmpty then cmdRow w 0xE000 0x20 0 {} f d else d
  match d.host.promote with
  | h :: rest => promote f { d with host := { d.host with promote := rest } } h
  | [] => d

end Sys2Proof.Machine
end

