-- ==== Sys2Proof/Machine/Wdp.lean ====
section
/-! DEFINITION. WDP frames (R491 to R504): their form, authentication, the sender table, service, forwarding on the
torus, remote requests of context 0 and NOTIFY frames. -/

namespace Sys2Proof.Machine

/-! ## The form of a frame (R491 to R493) -/

/-- A request or response item (R492). -/
structure WItem where
  idx : Nat
  sub : Nat
  flags : Nat
  status : Nat
  len : Nat
  off : Nat
  data : List Byte
  deriving DecidableEq, Repr

/-- The header's fields. -/
def frameOp (l : List Byte) : Nat := field l 1 1
def frameFlags (l : List Byte) : Nat := field l 2 1
def frameSeq (l : List Byte) : Nat := field l 4 4
def frameSid (l : List Byte) : Nat := field l 8 8
def frameBoot (l : List Byte) : Nat := field l 16 4
def frameDst (l : List Byte) : Nat := field l 20 2
def frameSrc (l : List Byte) : Nat := field l 22 2
def frameStatus (l : List Byte) : Nat := field l 24 2
def frameHops (l : List Byte) : Nat := field l 26 1
def framePort (l : List Byte) : Nat := field l 27 1
def frameIsResp (l : List Byte) : Bool := bit (frameFlags l) 0
def frameTagged (l : List Byte) : Bool := bit (frameFlags l) 1
def frameKey (l : List Byte) : Nat := if bit (frameFlags l) 2 then 1 else 0
def frameRemote (l : List Byte) : Bool := bit (frameFlags l) 3
def frameNear (l : List Byte) : Bool := bit (frameFlags l) 4

/-- Header and body, without a tag. -/
def frameLen (l : List Byte) : Nat := 32 + field l 28 2

/-- The items of a body, when they fill it exactly and hold no reserved value; `vals` where values follow. -/
def parseItems (vals : Bool) : Nat → List Byte → Option (List WItem)
  | 0, l => if l.isEmpty then some [] else none
  | n + 1, l =>
    let v := if vals then field l 6 2 else 0
    let pad := (v + 3) / 4 * 4
    if l.length < 12 + pad ∨ zeroAt l (12 + v) (pad - v) = false then none
    else (parseItems vals n (l.drop (12 + pad))).map
      (fun t => ⟨field l 0 2, field l 2 1, field l 3 1, field l 4 2, field l 6 2, field l 8 4, slice l 12 v⟩ :: t)

/-- A request's items: READ or WRITE, 1 to 64 of them, with a STATUS of 0 and no reserved IFLAGS (R491 to R493). -/
def requestItems (l : List Byte) : Option (List WItem) :=
  let n := field l 3 1
  if n = 0 ∨ n > 64 then none
  else match parseItems (frameOp l == 2) n ((l.drop 32).take (field l 28 2)) with
    | some t => if t.any (fun i => decide (i.flags > 3 ∨ i.status ≠ 0)) then none else some t
    | none => none

/-- The header holds no reserved value (R491). -/
def headerOk (l : List Byte) : Bool :=
  decide (32 ≤ l.length) && field l 0 1 == 1 && (frameOp l == 1 || frameOp l == 2) && decide (frameFlags l < 32) &&
    decide (field l 15 1 < 128) && zeroAt l 30 2 && (!frameNear l || decide (framePort l < 6))

/-- A request's own reserved values: RESP set, a nonzero FSTATUS, and its items (R493). -/
def requestOk (l : List Byte) : Bool :=
  headerOk l && !frameIsResp l && frameStatus l == 0 && (requestItems l).isSome

/-- A WDP frame has the length its header gives, within its transport's limit (R493). -/
def lengthOk (src : Nat) (l : List Byte) : Bool :=
  l.length == frameLen l + (if frameTagged l then 16 else 0) && decide (l.length ≤ (if src = 4096 then 1452 else 2048))

/-! ## Tags (R494, R502) -/

/-- The AAD of a frame without its tag: HOPS and PORT are left out where REMOTE or NEIGHBOUR is set. -/
def frameAad (l : List Byte) : List Byte :=
  if frameRemote l ∨ frameNear l then l.take 26 ++ l.drop 28 else l

/-- The IV: SENDER_ID with bit 63 replaced by RESP, and SEQ. -/
def frameIv (l : List Byte) : List Byte :=
  leBytes 8 (frameSid l % 2 ^ 63 + (if frameIsResp l then 2 ^ 63 else 0)) ++ slice l 4 4

/-- The tag of a frame under a key. -/
def frameTag (key l : List Byte) : List Byte := gcmTag key (frameIv l) (frameAad l) []

/-- A frame as it travels: with its tag where there is a key. -/
def sealFrame (key l : List Byte) : List Byte := if key.isEmpty then l else l ++ frameTag key l

/-! ## Addresses and sending -/

/-- The address of a frame's sender on the torus: the port it came by, and the device that sent it where REMOTE is set. -/
def torusAddr (p : Nat) (l : List Byte) : Nat := torusBase + p + 8 * (if frameRemote l then 1 + frameSrc l else 0)

/-- A WDP packet of the management channel (R301, R302). -/
def wdpPacket (f : Fuses) (d : Dev) (dest : Nat) (l : List Byte) : Packet :=
  { dest := dest, src := devAddr f d, kind := 7, act := 4, addr := 0, data := l, vc := 4, stamp := d.stampNow }

/-- A device of this site with a route to it (R304, R306, R502). -/
def wdpReach (f : Fuses) (d : Dev) (dest : Nat) : Bool :=
  siteOf f d dest == siteOf f d (devAddr f d) && reachable f d dest

/-- A frame is sent to an address; one that the transmit queue drops is not counted as sent. -/
def sendTo (f : Fuses) (d : Dev) (addr : Nat) (l : List Byte) : Dev :=
  if addr < torusBase then
    let (d, sent) := mgmtTx d (mgmtFrame f d addr l)
    if sent then d.bump 0xE000 0x11 64 1 else d
  else
    let d := d.bump 0xE000 0x11 64 1
    let p := (addr - torusBase) % 8
    let r := (addr - torusBase) / 8
    if r = 0 then (if carriesMgmt f d p then enqueue f d p (wdpPacket f d (obj f d (pIdx p) 4) l) else d)
    else if wdpReach f d (r - 1) then forward f d (wdpPacket f d (r - 1) l) none
    else d

/-- A response (R491): the request's OP, SEQ and SENDER_ID with RESP set and this device's BOOT; to a REMOTE request it goes
back to SRC_DEV. -/
def respFrame (f : Fuses) (d : Dev) (req : List Byte) (flags st n : Nat) (body : List Byte) : List Byte :=
  leBytes 1 1 ++ slice req 1 1 ++ leBytes 1 (flags ||| 1) ++ leBytes 1 n ++ slice req 4 12 ++ leBytes 4 (ctr d 0xE000 2) ++
    (if bit flags 3 then slice req 22 2 else zeros 2) ++ leBytes 2 (devAddr f d) ++ leBytes 2 st ++
    leBytes 1 (if bit flags 3 then 64 else 0) ++ slice req 27 1 ++ leBytes 2 body.length ++ zeros 2 ++ body

/-- A frame is tagged under a key and sent (R399, R494): the management cipher unit copies the key, and while its vault bus is frozen
the frame waits; one whose operation ends with MISMATCH (R407) has no tag and is not sent.  Without a key it is sent as it is. -/
def sealSend (f : Fuses) (d : Dev) (addr : Nat) (key l : List Byte) : Dev :=
  if key.isEmpty then sendTo f d addr l
  else if mgmtFree d = false then { d with host := { d.host with sealing := d.host.sealing ++ [(addr, key, l)] } }
  else
    let (e, bad) := mgmtStart d (frameKey l)
    if bad then e else sendTo f e addr (sealFrame key l)

/-- A response with no items, tagged under the key that verified the request. -/
def refuseFrame (f : Fuses) (d : Dev) (addr : Nat) (req key : List Byte) (st : Nat) : Dev :=
  sealSend f d addr key (respFrame f d req (if key.isEmpty then frameFlags req &&& 0x18 else frameFlags req) st 0 [])

/-! ## Mailbox responses (R460, R515) -/

/-- A response to a request that a mailbox has out leaves through the PCIe egress; while that is frozen it waits. -/
def mboxReply (d : Dev) (g : Nat) (l : List Byte) : Dev :=
  if (d.ctx g).mboxState ≠ 1 then d
  else
    (d.bump 0xE000 0x11 64 1).emit (.mbox g l)

/-- A mailbox response with no items. -/
def mboxRefuse (f : Fuses) (d : Dev) (g : Nat) (req : List Byte) (st : Nat) : Dev :=
  mboxReply d g (respFrame f d req (frameFlags req &&& 0x18) st 0 [])

/-! ## Service (R483, R484, R489, R492) -/

/-- The bytes of a response item. -/
def respItem (i : WItem) (flags st : Nat) (v : List Byte) : List Byte :=
  leBytes 2 i.idx ++ leBytes 1 i.sub ++ leBytes 1 flags ++ leBytes 2 st ++ leBytes 2 v.length ++ leBytes 4 i.off ++ v ++
    zeros ((v.length + 3) / 4 * 4 - v.length)

/-- The bytes of a response that its items may take (R493). -/
def respRoom (w : WdpIn) : Nat := (if w.src < 4096 then 1536 else if w.src = 4096 then 1452 else 2048) - 32 - (if w.key.isEmpty then 0 else 16)

/-- The principal of a frame (R482). -/
def framePrin (w : WdpIn) : Nat := if w.src < 4096 then w.src else if w.key.isEmpty then untagged else mgmtPrin

/-- The items of a READ frame in order: the state and the response's items.  `room` is what is left of the frame. -/
def readItems (f : Fuses) (p : Nat) : List WItem → Nat → Dev → Dev × List Byte
  | [], _, d => (d, [])
  | i :: t, room, d =>
    let (d, st, v) := readItem f d p i.idx i.sub i.off i.len ((room - 12 - 12 * t.length) / 4 * 4) (bit i.flags 0)
    let b := respItem i 0 st v
    let r := readItems f p t (room - b.length) d
    (r.1, b ++ r.2)

/-- What the items of a WRITE frame come to: the state, the response's items, the report's entries, and whether a COMMIT was
invoked. -/
structure WriteOut where
  dev : Dev
  body : List Byte := []
  entries : List ReportEntry := []
  committed : Bool := false
  deriving DecidableEq, Repr

/-- The items of a WRITE frame in order; `es` holds what the surroundings answer to each. -/
def writeItems (f : Fuses) (w : Writer) (src : Nat) (addr : Option Nat) : List WItem → List Outside → Nat → Dev → WriteOut
  | [], _, _, d => { dev := d }
  | i :: t, es, room, d =>
    let o := anyItem f d w src i.idx i.sub i.off i.data (if bit i.flags 1 then addr else none) (es.headD {})
    let fit := decide (o.value.length ≤ (room - 12 - 12 * t.length) / 4 * 4)
    let b := respItem i (if o.entries.isEmpty then 0 else 16) (if fit then o.status else Status.responseSize) (if fit then o.value else [])
    let r := writeItems f w src addr t es.tail (room - b.length) o.dev
    { dev := r.dev, body := b ++ r.body, entries := o.entries ++ r.entries,
      committed := r.committed || (i.idx == 0xF000 && i.sub == 0 && o.status == 0) }

/-- The source served next, in rotation (R489). -/
def nextFrame (d : Dev) : Option WdpIn :=
  let q := d.host.queue.filter (fun w => decide (w.src ≤ 4097))
  let low := fun (l : List WdpIn) => l.foldl (fun b w => match b with | some x => if w.src < x.src then some w else b | none => some w) none
  match low (q.filter (fun w => decide (w.src > d.host.lastSrc))) with
  | some w => some w
  | none => low q

/-- A frame leaves its queue for service. -/
def takeFrame (d : Dev) (w : WdpIn) : Dev :=
  { d with host := { d.host with queue := d.host.queue.erase w, lastSrc := w.src } }

/-- The sender's entry keeps the two most recent responses (R496). -/
def cacheResponse (d : Dev) (w : WdpIn) (r : List Byte) : Dev :=
  let put := fun (s : Sender) => if s.id = frameSid w.bytes then { s with cache := ((frameSeq w.bytes, w.bytes, r) :: s.cache).take 2 } else s
  { d with host := { d.host with senders := d.host.senders.map put } }

/-- The response to a served frame goes back the way the frame came. -/
def respondTo (f : Fuses) (d : Dev) (w : WdpIn) (n : Nat) (body : List Byte) : Dev :=
  if w.src < 4096 then mboxReply d w.src (respFrame f d w.bytes (frameFlags w.bytes) 0 n body)
  else
    let r := respFrame f d w.bytes (frameFlags w.bytes) 0 n body
    sealSend f (if w.key.isEmpty then d else cacheResponse d w (sealFrame w.key r)) w.addr w.key r

/-- A mailbox frame whose page was reset meanwhile is served no more. -/
def stillWanted (d : Dev) (w : WdpIn) : Bool := decide (w.src ≥ 4096) || (d.ctx w.src).mboxState == 1

/-- WDP_READ (R483, R489): the next frame in rotation, when it is a READ. -/
def wdpRead (f : Fuses) (d : Dev) : Dev :=
  match nextFrame d with
  | none => d
  | some w =>
    match frameOp w.bytes, requestItems w.bytes with
    | 1, some is =>
      let d := takeFrame d w
      if stillWanted d w = false then d
      else
        let (d, b) := readItems f (framePrin w) is (respRoom w) d
        respondTo f d w is.length b
    | _, _ => d

/-- Who a WRITE frame writes as. -/
def writerOf (w : WdpIn) : Writer := { prin := framePrin w, seq := frameSeq w.bytes, key1 := frameKey w.bytes == 1 }

/-- The items of a WRITE frame are served and the principal's report replaced; a COMMIT invoked in the frame completes after
it and leaves its own (R485). -/
def serveWrite (f : Fuses) (d : Dev) (w : WdpIn) (is : List WItem) (es : List Outside) : WriteOut :=
  let p := framePrin w
  let o := writeItems f (writerOf w) w.src (if w.src < 4096 then none else some w.addr) is es (respRoom w) d
  if o.committed then o
  else { o with dev := o.dev.setPrin p { o.dev.prin p with report := { seq := frameSeq w.bytes, status := 0, entries := o.entries } } }

/-- WDP_WRITE (R484, R489): the next frame in rotation, when it is a WRITE. -/
def wdpWrite (es : List Outside) (f : Fuses) (d : Dev) : Dev :=
  match nextFrame d with
  | none => d
  | some w =>
    match frameOp w.bytes, requestItems w.bytes with
    | 2, some is =>
      let d := takeFrame d w
      if stillWanted d w = false then d
      else
        let o := serveWrite f d w is es
        respondTo f o.dev w is.length o.body
    | _, _ => d

/-! ## The sender table (R496) -/

/-- Ten seconds of the model's cycles: an entry is idle after them. -/
abbrev idleCycles : Nat := 10000000 * usCycles

/-- The sender's entry idle longest, when one is idle. -/
def idlest (d : Dev) : Option Sender :=
  (d.host.senders.filter (fun s => decide (s.last + idleCycles ≤ d.cyc))).foldl
    (fun b s => match b with | some x => if s.last < x.last then some s else b | none => some s) none

/-- An entry is retired: its SENDER_ID and highest SEQ go to the retired list, whose oldest pair raises SENDER_FLOOR where the
list is full. -/
def retireSender (d : Dev) (s : Sender) : Dev :=
  let l := d.host.retired
  let (l, d) := if l.length ≥ 4096 then (l.drop 1, d.setObj 0xE000 0x0B (max (ctr d 0xE000 0x0B) (l.headD (0, 0)).2)) else (l, d)
  { d with host := { d.host with senders := d.host.senders.erase s, retired := l ++ [(s.id, s.high)] } }

/-- An entry for a sender that has none; none where the table is full and no entry is idle.  Only a SEQ above its highest is
fresh. -/
def newSender (d : Dev) (sid addr : Nat) : Option Dev :=
  let room := if d.host.senders.length < 64 then some d else (idlest d).map (retireSender d)
  room.map (fun d =>
    let old := d.host.retired.find? (fun p => p.1 == sid)
    let high := match old with | some p => p.2 | none => ctr d 0xE000 0x0B
    let s : Sender := { id := sid, high := high, bitmap := 2 ^ 32 - 1, last := d.cyc, addr := addr, cache := [] }
    { d with host := { d.host with senders := d.host.senders ++ [s], retired := d.host.retired.filter (fun p => p.1 != sid) } })

/-- A SEQ is fresh: above the highest, or within 32 below it with its bit clear. -/
def Sender.fresh (s : Sender) (seq : Nat) : Bool :=
  decide (seq > s.high) || (decide (seq < s.high ∧ s.high ≤ seq + 32) && !s.bitmap.testBit (s.high - 1 - seq))

/-- A frame of a fresh SEQ is accepted. -/
def Sender.accept (s : Sender) (seq now addr : Nat) : Sender :=
  if seq > s.high then
    let n := seq - s.high
    { s with high := seq, bitmap := ((s.bitmap <<< n) ||| (1 <<< (n - 1))) % 2 ^ 32, last := now, addr := addr }
  else { s with bitmap := s.bitmap ||| (1 <<< (s.high - 1 - seq)), last := now, addr := addr }

/-! ## Receiving a frame (R495, R502) -/

/-- A frame joins its source's queue. -/
def queueFrame (d : Dev) (w : WdpIn) : Dev := { d with host := { d.host with queue := d.host.queue ++ [w] } }

/-- Steps 5 and 6 of R495 on a tagged request that is served here. -/
def admitFrame (f : Fuses) (d : Dev) (w : WdpIn) : Dev :=
  let sid := frameSid w.bytes
  let seq := frameSeq w.bytes
  let known := d.host.senders.any (fun s => s.id == sid)
  match (if known then some d else newSender d sid w.addr) with
  | none => refuseFrame f d w.addr w.bytes w.key Status.sendersFull
  | some d =>
    match d.host.senders.find? (fun s => s.id == sid) with
    | none => d
    | some s =>
      if s.fresh seq then
        let up := fun (x : Sender) => if x.id = sid then x.accept seq d.cyc w.addr else x
        queueFrame { d with host := { d.host with senders := d.host.senders.map up } } w
      else match s.cache.find? (fun c => c.1 == seq && c.2.1 == w.bytes) with
        | some c => sendTo f d w.addr c.2.2
        | none => d.bump 0xE000 0x13 64 1

/-- A frame for another device is forwarded one hop, or answered where it stops (R502). -/
def forwardFrame (f : Fuses) (d : Dev) (src addr : Nat) (l whole key : List Byte) : Dev :=
  let h := frameHops l
  if obj f d 0x4000 8 = 0 ∨ h ≤ 1 ∨ wdpReach f d (frameDst l) = false then
    if frameIsResp l then d else refuseFrame f d addr l key Status.unreachable
  else
    let came := if src = 4097 then some ((addr - torusBase) % 8) else none
    let out := whole.take 26 ++ leBytes 1 (h - 1) ++ whole.drop 27
    forward f ((d.bump 0xE000 0x19 64 1).bump 0xE000 0x11 64 1) (wdpPacket f d (frameDst l) out) came

/-- The frame is for this device (R502). -/
def frameHere (f : Fuses) (d : Dev) (l : List Byte) : Bool := frameNear l || !frameRemote l || frameDst l == devAddr f d

/-- Every item lies in the always-on set. -/
def allAlwaysOn (l : Option (List WItem)) : Bool :=
  match l with
  | some is => is.all (fun i => alwaysOn i.idx i.sub)
  | none => false

/-- The management cipher unit checks the tag of a frame (R399, R494, R495 step 3): the state, and the key of one that verifies.  A
check that ends with MISMATCH (R407) verifies nothing. -/
def verifyFrame (d : Dev) (l whole : List Byte) : Dev × Option (List Byte) :=
  let (e, bad) := mgmtStart d (frameKey l)
  match slotKey d (frameKey l) with
  | none => (e, none)
  | some k => (e, if !bad && decide (frameTag k l = whole.drop l.length) then some k else none)

/-- A response received (R495, R502): forwarded, or kept for the request it answers. -/
def arriveResp (f : Fuses) (d : Dev) (src addr : Nat) (l whole : List Byte) : Dev :=
  if frameHere f d l then queueFrame d { src := 4098, addr := addr, bytes := whole }
  else if frameTagged l then
    (match verifyFrame d l whole with
    | (d, some _) => forwardFrame f d src addr l whole []
    | (d, none) => d.bump 0xE000 0x12 64 1)
  else if field l 3 1 = 0 ∨ (frameOp l = 1 ∧ allAlwaysOn (parseItems true (field l 3 1) (l.drop 32))) then
    forwardFrame f d src addr l whole []
  else d.bump 0xE000 0x15 64 1

/-- A request received (R495, R502). -/
def arriveReq (f : Fuses) (d : Dev) (src addr : Nat) (l whole : List Byte) : Dev :=
  if frameTagged l = false then
    if frameOp l = 1 ∧ allAlwaysOn (requestItems l) then
      if frameHere f d l then queueFrame d { src := src, addr := addr, bytes := l } else forwardFrame f d src addr l whole []
    else refuseFrame f d addr l [] Status.authRequired
  else match verifyFrame d l whole with
    | (d, none) => d.bump 0xE000 0x12 64 1
    | (d, some k) =>
      if frameHere f d l = false then forwardFrame f d src addr l whole k
      else if frameBoot l ≠ ctr d 0xE000 2 then refuseFrame f (d.bump 0xE000 0x14 64 1) addr l k Status.bootStale
      else admitFrame f d { src := src, addr := addr, bytes := l, key := k }

/-- A receive queue of 16 is full (R490): what waits for service, for the management cipher unit, and on the management port for the
time of a discovery answer. -/
def rxFull (d : Dev) (src : Nat) : Bool :=
  decide ((d.host.queue.filter (fun w => w.src == src)).length + (d.host.heldIn.filter (fun w => w.1 == src)).length +
    (if src = 4096 then d.host.discovery.length else 0) ≥ 16)

/-- A frame arrives on the management port (4,096) or the torus (4,097); each receive queue holds 16 (R490). -/
def arriveFrame (f : Fuses) (d : Dev) (src addr : Nat) (whole : List Byte) : Dev :=
  let d := d.bump 0xE000 0x10 64 1
  let l := whole.take (frameLen whole)
  if rxFull d src then d.bump 0xE000 0x16 64 1
  else if headerOk whole = false ∨ lengthOk src whole = false ∨ (frameIsResp l = false ∧ requestOk l = false) then d.bump 0xE000 0x15 64 1
  else if frameTagged l ∧ mgmtFree d = false then { d with host := { d.host with heldIn := d.host.heldIn ++ [(src, addr, whole)] } }
  else if frameIsResp l then arriveResp f d src addr l whole
  else arriveReq f d src addr l whole

/-- A READ to ff02::1 (R499): without a tag and of the always-on set it waits for its time; nothing else is answered. -/
def arriveMulticast (d : Dev) (addr : Nat) (whole : List Byte) : Dev :=
  let d := d.bump 0xE000 0x10 64 1
  if rxFull d 4096 then d.bump 0xE000 0x16 64 1
  else if headerOk whole && lengthOk 4096 whole && requestOk whole && !frameTagged whole && frameOp whole == 1 &&
      allAlwaysOn (requestItems whole) then
    { d with host := { d.host with discovery := d.host.discovery ++ [(addr, whole)] } }
  else d.bump 0xE000 0x15 64 1

/-- Frames that waited for the management cipher unit are checked, and those that waited for their tag are sent, once its vault bus
is not frozen (R399, R515). -/
def wdpHeld (f : Fuses) (d : Dev) : Dev :=
  if mgmtFree d = false ∨ (d.host.heldIn.isEmpty ∧ d.host.sealing.isEmpty) then d
  else
    let (ins, outs) := (d.host.heldIn, d.host.sealing)
    let e : Dev := { d with host := { d.host with heldIn := [], sealing := [] } }
    let e := outs.foldl (fun d o => sealSend f d o.1 o.2.1 o.2.2) e
    ins.foldl (fun d w =>
      let l := w.2.2.take (frameLen w.2.2)
      if frameIsResp l then arriveResp f d w.1 w.2.1 l w.2.2 else arriveReq f d w.1 w.2.1 l w.2.2) e

/-- WDP_FRAME (R495, R499, R502): an Ethernet frame on the management port that carries a WDP frame to this module or to ff02::1, or
the oldest WDP packet of a torus port. -/
def wdpFrame (torus : Bool) (a : Nat) (bytes : List Byte) (f : Fuses) (d : Dev) : Dev :=
  if torus then
    match d.inbox.find? (fun q => q.1 == a && q.2.kind == 7) with
    | none => d
    | some q => arriveFrame f { d with inbox := d.inbox.erase q } 4097 (torusAddr a q.2.data) q.2.data
  else if mgmtUp d = false then d
  else match mgmtParse f d bytes with
    | none => d
    | some (addr, multicast, l) => if multicast then arriveMulticast d addr l else arriveFrame f d 4096 addr l

/-- DISCOVERY_REPLY (R499): (DEVICE_UID mod 32) ms have passed. -/
def discoveryReply (f : Fuses) (d : Dev) : Dev :=
  match d.host.discovery with
  | [] => d
  | x :: t =>
    let d : Dev := { d with host := { d.host with discovery := t } }
    let w : WdpIn := { src := 4096, addr := x.1, bytes := x.2 }
    match requestItems x.2 with
    | none => d
    | some is =>
      let (d, b) := readItems f untagged is (respRoom w) d
      respondTo f d w is.length b

/-! ## The mailbox (R459, R460, R501, R503) -/

/-- The device's own SENDER_ID (R494). -/
def ownSid (f : Fuses) (d : Dev) : Nat := 2 ^ 62 + ctr d 0xE000 2 % 2 ^ 30 * 2 ^ 32 + f.uid % 2 ^ 32

/-- The next SEQ of the device's own frames (R503, R593). -/
def takeSeq (d : Dev) : Option (Dev × Nat) :=
  d.host.ownSeq.map (fun s => ({ d with host := { d.host with ownSeq := if s ≥ 0xFFFFFFFF then none else some (s + 1) } }, s))

/-- A request of this device's own leaves; false where it has no way (R502, R503). -/
def sendOwn (f : Fuses) (d : Dev) (l : List Byte) : Dev × Bool :=
  let ok := if frameNear l then carriesMgmt f d (framePort l) else wdpReach f d (frameDst l)
  if ok = false then (d, false)
  else if frameNear l then
    (enqueue f (d.bump 0xE000 0x11 64 1) (framePort l) (wdpPacket f d (obj f d (pIdx (framePort l)) 4) l), true)
  else (forward f (d.bump 0xE000 0x11 64 1) (wdpPacket f d (frameDst l) l) none, true)

/-- The request of context 0 ends with a frame status. -/
def remoteFail (f : Fuses) (d : Dev) (req : List Byte) (st : Nat) : Dev :=
  mboxRefuse f { d with host := { d.host with remote := none } } 0 req st

/-- A header of a request of the device's own (R491, R503). -/
def ownHeader (f : Fuses) (d : Dev) (req : List Byte) (op flags n seq boot len : Nat) : List Byte :=
  leBytes 1 1 ++ leBytes 1 op ++ leBytes 1 flags ++ leBytes 1 n ++ leBytes 4 seq ++ leBytes 8 (ownSid f d) ++ leBytes 4 boot ++
    slice req 20 2 ++ leBytes 2 (devAddr f d) ++ zeros 2 ++ leBytes 1 64 ++ slice req 27 1 ++ leBytes 2 len ++ zeros 2

/-- The untagged READ of the target's BOOT (R503). -/
def bootRead (f : Fuses) (d : Dev) (req : List Byte) (stale : Bool) : Dev :=
  match takeSeq d with
  | none => remoteFail f d req Status.unreachable
  | some (d, s) =>
    let l := ownHeader f d req 1 (frameFlags req &&& 0x18) 1 s 0 12 ++ leBytes 2 0xE000 ++ leBytes 1 2 ++ zeros 9
    match sendOwn f d l with
    | (d, true) => { d with host := { d.host with remote := some { seq := s, frame := l, request := req, boot := true, stale := stale } } }
    | (d, false) => remoteFail f d req Status.unreachable

/-- The frame itself, tagged under slot 0 (R503); where its operation ends with MISMATCH (R407) there is none, and no response will
come. -/
def remoteSend (f : Fuses) (d : Dev) (r : RemoteReq) (boot : Nat) : Dev :=
  let (d, bad) := if (slotKey d 0).isSome then mgmtStart d 0 else (d, false)
  if bad then remoteFail f d r.request Status.unreachable
  else match slotKey d 0, takeSeq d with
  | none, _ => remoteFail f d r.request Status.noKey
  | _, none => remoteFail f d r.request Status.unreachable
  | some k, some (d, s) =>
    let q := r.request
    let h := ownHeader f d q (frameOp q) (frameFlags q &&& 0x18 ||| 2) (field q 3 1) s boot (field q 28 2)
    let l := sealFrame k (h ++ q.drop 32)
    match sendOwn f d l with
    | (d, true) => { d with host := { d.host with remote := some { seq := s, frame := l, request := q, boot := false, stale := r.stale } } }
    | (d, false) => remoteFail f d q Status.unreachable

/-- The response is put into the mailbox: without its tag, with the SEQ and SENDER_ID of the mailbox frame (R501, R503). -/
def placeResponse (f : Fuses) (d : Dev) (req l : List Byte) : Dev :=
  let d : Dev := { d with host := { d.host with remote := none } }
  if l.length > 1536 then mboxRefuse f d 0 req Status.responseSize
  else mboxReply d 0 (l.take 2 ++ leBytes 1 (frameFlags l &&& 0x19) ++ slice l 3 1 ++ slice req 4 12 ++ l.drop 16)

/-- The READ of a relay's LONG_HAUL, 1000h.07, leaves; a relay that cannot be reached is none (R476). -/
def relaySend (f : Fuses) (d : Dev) (r : RelayReq) : Dev :=
  let gone : Dev := { d with host := { d.host with relays := d.host.relays.erase r } }
  match takeSeq d with
  | none => completeHandle f gone r.handle Status.noRelay 0
  | some (e, s) =>
    let l := ownHeader f e (zeros 20 ++ leBytes 2 (bits r.arg 31 16) ++ zeros 10) 1 8 1 s 0 12 ++ leBytes 2 0x1000 ++ leBytes 1 7 ++ zeros 9
    match sendOwn f e l with
    | (e, true) =>
      { e with host := { e.host with relays := e.host.relays.map (fun x => if x = r then { r with seq := s, frame := l } else x) } }
    | (_, false) => completeHandle f gone r.handle Status.noRelay 0

/-- The READs of relays that have not been sent leave (R476). -/
def relaysGo (f : Fuses) (d : Dev) : Dev := (d.host.relays.filter (fun r => r.frame.isEmpty)).foldl (relaySend f) d

/-- A relay has answered (R476): a W device's LONG_HAUL reads 1. -/
def relayAnswer (f : Fuses) (d : Dev) (r : RelayReq) (l : List Byte) : Dev :=
  let d : Dev := { d with host := { d.host with relays := d.host.relays.erase r } }
  if frameStatus l = 0 ∧ field l 36 2 = 0 ∧ field l 38 2 = 1 ∧ field l 44 1 = 1 then jobRun f d r.handle r.ctx r.arg
  else completeHandle f d r.handle Status.noRelay 0

/-- 20 ms without a relay's answer (R496): its READ is sent again, three times at most. -/
def relayRetry (f : Fuses) (d : Dev) (r : RelayReq) : Dev :=
  let gone : Dev := { d with host := { d.host with relays := d.host.relays.erase r } }
  match sendOwn f d r.frame with
  | (e, true) =>
    if r.tries ≥ 3 then completeHandle f gone r.handle Status.noRelay 0
    else { e with host := { e.host with relays := e.host.relays.map (fun x => if x = r then { r with tries := r.tries + 1 } else x) } }
  | (_, false) => completeHandle f gone r.handle Status.noRelay 0

/-- WDP_RESPONSE (R495, R503): a response to a request of the device's own is verified and used; any other is dropped. -/
def wdpResponse (f : Fuses) (d : Dev) : Dev :=
  match (if mgmtFree d then d.host.queue.find? (fun w => w.src == 4098) else none) with
  | none => d
  | some w =>
    let d := { d with host := { d.host with queue := d.host.queue.erase w } }
    let l := w.bytes.take (frameLen w.bytes)
    match d.host.relays.find? (fun r => !r.frame.isEmpty && r.seq == frameSeq l && frameSid l == ownSid f d && !frameTagged l) with
    | some r => relayAnswer f d r l
    | none => match d.host.remote with
    | none => d.bump 0xE000 0x15 64 1
    | some r =>
      if frameSeq l ≠ r.seq ∨ frameSid l ≠ ownSid f d then d.bump 0xE000 0x15 64 1
      else
      let (d, key) := if frameTagged l && frameKey l == 0 then verifyFrame d l w.bytes else (d, none)
      if frameTagged l ∧ key.isNone then d.bump 0xE000 0x12 64 1
      else if frameTagged l = false ∧ r.boot = false ∧ frameStatus l ≠ Status.authRequired then d.bump 0xE000 0x12 64 1
      else if r.boot then
        if frameStatus l ≠ 0 then remoteFail f d r.request (frameStatus l) else remoteSend f d r (field l 44 4)
      else if frameStatus l = Status.bootStale ∧ r.stale = false then bootRead f d r.request true
      else placeResponse f d r.request l

/-- What the management protocol does by itself (R399, R476). -/
def wdpGo (f : Fuses) (d : Dev) : Dev := relaysGo f (wdpHeld f d)

/-- REMOTE_RETRY (R496, R503): 20 ms without a response. -/
def remoteRetry (f : Fuses) (d : Dev) : Dev :=
  match d.host.remote with
  | none => (d.host.relays.filter (fun r => !r.frame.isEmpty)).foldl (relayRetry f) d
  | some r =>
    if r.tries ≥ 3 then remoteFail f d r.request Status.unreachable
    else
      let (d, ok) := sendOwn f d r.frame
      if ok then { d with host := { d.host with remote := some { r with tries := r.tries + 1 } } }
      else remoteFail f d r.request Status.unreachable

/-- The mailbox of a page is live: on the active port, or context 0's on either; before READY, context 0's only (R454, R459,
R461, R557); after a failed fuse check the PCIe ports stay in reset (R38). -/
def mboxLive (f : Fuses) (d : Dev) (port g : Nat) : Bool :=
  !fuseBad f d &&
  (ready d || (g == 0 && ctr d 0xA000 0 != 0 && powered d)) && (port == obj f d 0xD000 0 || (g == 0 && decide (port < 2))) &&
    (match (d.ctx g).state with | .opened | .running | .error => true | _ => false)

/-- MBOX_GO (R459, R460, R493, R501): `v` is the value written and `req` what MBOX_REQ holds. -/
def mboxGo (port g v : Nat) (req : List Byte) (f : Fuses) (d : Dev) : Dev :=
  let x := d.ctx g
  if mboxLive f d port g = false then d
  else if x.mboxState = 1 ∨ v = 0 ∨ v > 2048 then d.bump (0x7000 + g) 0x12 32 1
  else
    let d := (d.bump 0xE000 0x10 64 1).setCtx g { x with mboxState := 1, mboxReq := slice req 0 2048 }
    let q := slice req 0 v
    let l := q.take (frameLen q)
    if frameLen q > v ∨ frameTagged q ∨ requestOk l = false then mboxRefuse f d g q Status.malformed
    else if frameRemote q ∨ frameNear q then
      if g ≠ 0 then mboxRefuse f d g q Status.pfOnly
      else if l.length > 2032 then mboxRefuse f d g q Status.malformed
      else bootRead f d l false
    else queueFrame d { src := g, addr := 0, bytes := l }

/-! ## NOTIFY (R504) -/

/-- The NOTIFY frame of a completed handle. -/
def notifyFrame (f : Fuses) (d : Dev) (h seq : Nat) : List Byte :=
  leBytes 1 1 ++ leBytes 1 3 ++ leBytes 1 2 ++ leBytes 1 1 ++ leBytes 4 seq ++ leBytes 8 (ownSid f d) ++ leBytes 4 (ctr d 0xE000 2) ++
    zeros 2 ++ leBytes 2 (devAddr f d) ++ zeros 4 ++ leBytes 2 28 ++ zeros 2 ++
    (leBytes 2 0xF000 ++ leBytes 1 0x11 ++ zeros 3 ++ leBytes 2 16 ++ zeros 4 ++ handleRecord d h)

/-- A NOTIFY frame is sent once, under slot 0; with slot 0 EMPTY or the device's SEQ used up none is sent (R504, R593). -/
def sendNotify (f : Fuses) (d : Dev) (h addr : Nat) : Dev :=
  match slotKey d 0, takeSeq d with
  | some k, some (d, s) => sealSend f d addr k (notifyFrame f d h s)
  | _, _ => d

/-- A completed handle that asks for a NOTIFY frame. -/
def HandleRec.owesNotify (r : HandleRec) : Bool := r.complete && r.notify.isSome

/-- Every completed handle that asked for a NOTIFY frame gets its one (R504). -/
def notifyAll (f : Fuses) (d : Dev) : Dev :=
  let due := d.handles.filter (fun p => p.2.owesNotify)
  let told : SMap HandleRec := d.handles.map (fun p => if p.2.owesNotify then (p.1, { p.2 with notify := none }) else p)
  due.foldl (fun d p => sendNotify f d p.1 (p.2.notify.getD 0)) { d with handles := told }

/-! ## The management port (R499, R500) -/

/-- PLCA_FALLBACK (R500): no BEACON has been seen. -/
def plcaFallback (f : Fuses) (d : Dev) : Dev :=
  if ctr d 0xE000 5 = 0 ∨ ctr d 0xE000 9 ≠ 1 then d
  else spendFree (event0 f ((d.setObj 0xE000 9 2).bump 0xE000 0x18 32 1) Status.plcaFallback (freeArg d)) true

/-- PLCA_RESTORED (R500): a BEACON is received. -/
def plcaRestored (f : Fuses) (d : Dev) : Dev :=
  if ctr d 0xE000 5 = 0 ∨ ctr d 0xE000 9 ≠ 2 then d
  else spendFree (event0 f (d.setObj 0xE000 9 1) Status.plcaRestored (freeArg d)) true

/-- NEIGHBOUR_SOLICITATION (R499): one for the link-local address is answered, to its source or, where that is unspecified, to
ff02::1. -/
def neighbourSolicitation (frame : List Byte) (f : Fuses) (d : Dev) : Dev :=
  if mgmtUp d = false then d
  else match solicitor f frame with
  | none => d
  | some (mac, src) =>
    if src.all (fun b => b == 0#8) then
      mgmtSend d (icmpFrame f (multicastMac allNodes) (linkLocal f) allNodes (neighbourAdvert f allNodes false))
    else mgmtSend d (icmpFrame f mac (linkLocal f) src (neighbourAdvert f src true))

/-- STANDBY_PERST (R454): PERST# of the port that is not active resets its link and configuration state only. -/
def standbyPerst (f : Fuses) (d : Dev) : Dev := d.setObj 0xD000 (3 + (1 - obj f d 0xD000 0)) 0

/-! ## CMC failover (R573, R575) -/

/-- The frame in service at the hang is lost after its first `n` items; a mailbox frame is answered with CMC_FAILOVER. -/
def loseFrame (f : Fuses) (d : Dev) (n : Nat) (es : List Outside) : Dev :=
  match nextFrame d with
  | none => d
  | some w =>
    let d := takeFrame d w
    let is := (requestItems w.bytes).getD []
    let d := if frameOp w.bytes = 2 then (writeItems f (writerOf w) w.src none (is.take n) es (respRoom w) d).dev
      else (readItems f (framePrin w) (is.take n) (respRoom w) d).1
    if w.src < 4096 then mboxRefuse f d w.src w.bytes Status.cmcFailover else d

/-- Commands that the CMC runs and that have not completed end with CMC_FAILOVER (R575; log entry 121): GROUP_FORM, IG_FORM,
JOB_START, FW_UPDATE, COMMIT and CTX_CLOSE, and withdrawals, tests and reinstatements.  A close or a withdrawal that has begun goes on
without its handle. -/
def failCmds (f : Fuses) (d : Dev) : Dev :=
  let gs := (d.groups.map (fun p => match p.2.forming with | some r => r.handles | none => [])).flatten
  let hs := gs ++ d.host.relays.map RelayReq.handle ++ d.host.fws.map FwReq.handle ++ d.host.commits.map CommitRun.handle ++
    d.host.closes.filterMap CloseRun.handle ++ ((d.igForm.map IgFormRec.handles).getD []) ++ d.recov.wd.filterMap WdReq.handle
  let d : Dev := { d with groups := d.groups.map (fun p => (p.1, { p.2 with forming := none })), igForm := none,
                          host := { d.host with relays := [], fws := [], commits := [],
                                                closes := d.host.closes.map (fun c => { c with handle := none }) },
                          recov := { d.recov with wd := d.recov.wd.map (fun w => { w with handle := none }) } }
  hs.foldl (fun d h => completeHandle f d h Status.cmcFailover 0) d

/-- The standby becomes active (R575). -/
def failOver (f : Fuses) (d : Dev) : Dev :=
  let d := (d.setObj 0xA050 7 (1 - ctr d 0xA050 7)).bump 0xA050 8 32 1
  let d : Dev := { d with recov := { d.recov with standbySends := false, standbyReady := false } }
  let d := match d.host.remote with
    | some r => remoteFail f d r.request Status.cmcFailover
    | none => d
  eventAllFree f (failCmds f d) Status.cmcFailover

/-- CMC_WATCHDOG (R573, R575): the watchdog of the active or the standby CMC bites; `hung` is how many items of a frame in
service had been served, none where no frame was. -/
def cmcWatchdog (standby : Bool) (hung : Option Nat) (es : List Outside) (pulse : Bool) (f : Fuses) (d : Dev) : Dev :=
  if standby then
    if d.recov.standbyStopped then d
    else eventAllFree f { d with recov := { d.recov with standbyReady := false, standbySends := false } } Status.standbyRestart
  else if d.recov.standbyReady then
    failOver f (match hung with | some n => loseFrame f d n es | none => d)
  else requestReset f d ⟨.warm, 5, ctr d 0xA050 7⟩ pulse

/-- STANDBY_RESTART (R573, R575): the CMC that was reset has loaded a copy of the same bank and is standby. -/
def standbyRestart (_f : Fuses) (d : Dev) : Dev :=
  if d.recov.standbyStopped then d else { d with recov := { d.recov with standbyReady := true } }

/-! ## Rows that read or write one object -/

/-- HANDLE_RECORD (R470): a read through a context's own page, or context 0's, frees a completed entry. -/
def handleRecordRow (prin g : Nat) (f : Fuses) (d : Dev) : Dev :=
  (readItem f d prin (0x7000 + g) 0x21 0 0 16 false).1

/-- MGMT_HANDLE_RECORD (R507). -/
def mgmtHandleRecord (f : Fuses) (d : Dev) : Dev := (readItem f d mgmtPrin 0xF000 0x11 0 0 16 false).1

end Sys2Proof.Machine
end

