-- ==== Sys2Proof/Machine/Turn.lean ====
section
/-! DEFINITION. How a row's effect becomes the block's next state, and what a cycle does by itself. -/

namespace Sys2Proof.Machine

/-- What the block does by itself once a command has had its effect, unit by unit. -/
def afterward (f : Fuses) (d : Dev) : Dev :=
  let d := beatsGo f (wdpGo f (vaultGo f (collGoAll f (collArrive (serveMemory f d)))))
  let d := fwsGo f (loadsGo f (igGo f (proofGo f d)))
  let d := unmapsGo f (closeGo f (commitGo f (bar2Go f d)))
  stopCheck f (pruneStalls f (autoWithdraw f d))

/-- What follows every command: what the block does by itself, and the NOTIFY frames of handles that completed (R504). -/
def finish (f : Fuses) (d : Dev) : Dev := notifyAll f (afterward f d)

/-- A row that acts whatever the device's state is. -/
def anyTime (g : Fuses → Dev → Dev) (s : State) : Host.Outcome State Fault Refusal :=
  .next { s with dev := finish s.fuses (g s.fuses s.dev) }

/-- A row of a unit that works only in a device that is READY (R549, R557); in another it changes nothing. -/
def whenReady (g : Fuses → Dev → Dev) (s : State) : Host.Outcome State Fault Refusal :=
  anyTime (fun f d => if ready d then g f d else d) s

/-! ## A cycle (R134, R442, R527, R528, R541) -/

/-- Which controller sets a tile's next G: the lowest value, power before thermal before supply (R528); the subindex of its
counter. -/
def gatedBy (f : Fuses) (d : Dev) (t : Nat) : Nat :=
  let g := nextG f d t
  if obj f d 0x2010 4 = g then 3 else if obj f d (0x2020 + t) 2 = g then 4 else 5

/-- A tile's cycle under the gate: a cycle held shut is counted, one that a canary holds for power (R527, R528, R535). -/
def gateCycle (d : Dev) (t : Nat) : Dev :=
  if SMap.get 0 d.gateShut t > d.cyc then d.bump (0x2020 + t) 3 64 1
  else if gateOpen d t then d else d.bump (0x2020 + t) (SMap.get (64, 3) d.power.gates t).2 64 1

/-- The next cycle of the gates' frame; G changes at the boundary only (R527). -/
def gateFrame (f : Fuses) (d : Dev) : Dev :=
  let k := (d.power.frame + 1) % 64
  let gates := if k = 0 then ((List.range 16).filter (fun t => nextG f d t ≠ 64)).map (fun t => (t, nextG f d t, gatedBy f d t))
    else d.power.gates
  { d with power := { d.power with frame := k, gates := gates } }

/-- A thermal trip's 10 ms have passed: the device enters reset (R532). -/
def tripCycle (f : Fuses) (d : Dev) : Dev :=
  match d.power.trip with
  | some (t, at_, pulse) =>
    if d.cyc + 1 ≥ at_ then requestReset f { d with power := { d.power with trip := none } } ⟨.cold, 7, t⟩ pulse else d
  | none => d

/-- The unit of a thread's next stroke takes it in this cycle (R123, R527): what its row asks beside the waits. -/
def unitTakes (f : Fuses) (d : Dev) (c : Nat) (t : Thr) : Bool :=
  let k := d.core c
  let w := k.word (k.th t).pc
  let gate := gateOpen d (f.tileOf c)
  match skClass w with
  | 0 => gate && mmaReady k (mkMma k w)
  | 1 => gate && vecTakes k t
  | 2 => gate && k.upd.isNone
  | 3 => moveTakes k t
  | 4 => if skOp w = 4 then !outstanding d c t else if skOp w = 5 then barrierPassed d (k.th t) else true
  | 6 => collTakes k
  | 7 => gate && (d.engine (codeEngine f c w)).accepts
  | _ => true

/-- A thread that may issue is RUN where its next stroke could issue in this cycle, else WAIT (R113); one that a CLAIM holds, or
that may not issue, stays as it is. -/
def settleThread (f : Fuses) (d : Dev) (c : Nat) (t : Thr) : Thread :=
  let k := d.core c
  let x := k.th t
  if x.ready then { x with state := if waitsHold k (k.word x.pc) && unitTakes f d c t then .run else .wait } else x

/-- A core's cycle: its threads in WAIT count it (R134), and its threads are RUN or WAIT by it (R113). -/
def waitCycle (f : Fuses) (d : Dev) (c : Nat) : Dev :=
  let k := d.core c
  let n := fun (x : TState) => match x with | .wait => 1 | _ => 0
  let e := d.setCore c { k with f := settleThread f d c .F, b := settleThread f d c .B }
  (e.bump (cIdx c) 0x1D 64 (n k.f.state)).bump (cIdx c) 0x1E 64 (n k.b.state)

/-- The banks of a tile that hold a full share of some activity (R222). -/
def fullBanks (f : Fuses) (d : Dev) (t : Nat) : List Nat :=
  (List.range 16).filter (fun k => (List.range 5).any (fun a =>
    decide (0 < qshare f d a ∧ qshare f d a ≤ shareUsed f d (16 * t + k) a)))

/-- A tile's cycle at its banks (R222, R520): a CORE cycle holds one MESH cycle and every third a second one, and each in which
a bank holds a full share counts (log entry 35). -/
def bankCycle (f : Fuses) (d : Dev) (t : Nat) : Dev :=
  if fullBanks f d t = [] then d else d.bump (0x3060 + t) 4 64 ((4 * (d.cyc + 1)) / 3 - (4 * d.cyc) / 3)

/-- A cycle of a device that is not in reset. -/
def tick (f : Fuses) (d : Dev) : Dev :=
  let d := mgmtCycle d
  if d.rst.cur.isSome then { d with cyc := d.cyc + 1 }
  else
    let d := if ready d then (d.cores.map Prod.fst).foldl (waitCycle f) ((List.range 16).foldl (fun d t => bankCycle f (gateCycle d t) t) ((List.range 6).foldl (portCycle f) d)) else d
    let d := if (d.cyc + 1) % (dayCycles / 24) = 0 then d.bump 0x2100 4 32 1 else d
    let d := tripCycle f (gateFrame f d)
    finish f { d with cyc := d.cyc + 1, time := if d.rst.cur.isSome then d.time else (d.time + 1) % 2 ^ 64 }

end Sys2Proof.Machine
end

