-- ==== Sys2Proof/Machine/ExecColl.lean ====
section
/-! DEFINITION. The meanings of the rows of the collectives and their protocol, one for each row. -/

namespace Sys2Proof.Machine

/-- ALLGATHER (R326). COLL ALLGATHER starts an all-gather on the group. -/
def execAllgather (c : Nat) (s : State) : Host.Outcome State Fault Refusal := whenReady (collRow 0 c) s

/-- REDUCESCATTER (R326). COLL REDUCESCATTER starts an exact reduce-scatter on the group. -/
def execReducescatter (c : Nat) (s : State) : Host.Outcome State Fault Refusal := whenReady (collRow 1 c) s

/-- ALLREDUCE (R326). COLL ALLREDUCE starts an exact all-reduce on the group. -/
def execAllreduce (c : Nat) (s : State) : Host.Outcome State Fault Refusal := whenReady (collRow 2 c) s

/-- ALLTOALL (R326). COLL ALLTOALL starts an all-to-all exchange of slots. -/
def execAlltoall (c : Nat) (s : State) : Host.Outcome State Fault Refusal := whenReady (collRow 3 c) s

/-- BROADCAST (R326). COLL BROADCAST starts a broadcast from ROOT. -/
def execBroadcast (c : Nat) (s : State) : Host.Outcome State Fault Refusal := whenReady (collRow 4 c) s

/-- COLL_BARRIER (R330). COLL BARRIER starts a two-pass barrier among present members. -/
def execCollBarrier (c : Nat) (s : State) : Host.Outcome State Fault Refusal := whenReady (collRow 5 c) s

/-- COLL_CHUNK_DONE (R331). An output chunk is finished and its chunk token is sent in the fixed order. -/
def execCollChunkDone (c : Nat) (s : State) : Host.Outcome State Fault Refusal := whenReady (collChunkDone c) s

/-- GROUP_FORM (R323). GROUP_FORM forms a committed collective group on every member device. -/
def execGroupForm (w : Writer) (group : Nat) (s : State) : Host.Outcome State Fault Refusal :=
  anyTime (cmdRow w 0x8002 0 group {}) s

/-- GROUP_DISSOLVE (R323). GROUP_DISSOLVE returns a group to STATE 0. -/
def execGroupDissolve (w : Writer) (group : Nat) (s : State) : Host.Outcome State Fault Refusal :=
  anyTime (cmdRow w 0x8002 1 group {}) s

/-- FORM_TIMEOUT (R323). GROUP_FORM ends with FORM_TIMEOUT when a member has not answered in 60 s. -/
def execFormTimeout (group : Nat) (s : State) : Host.Outcome State Fault Refusal := whenReady (formTimeout group) s

/-- COLL_DATA (R330). A collective DATA packet delivers partial sums or segments for a ring step. -/
def execCollData (core : Nat) (msg : List Byte) (s : State) : Host.Outcome State Fault Refusal :=
  whenReady (collData core msg) s

/-- COLL_ANCHOR (R333). An ANCHOR packet carries anchor or scale-phase records. -/
def execCollAnchor (core : Nat) (msg : List Byte) (s : State) : Host.Outcome State Fault Refusal :=
  whenReady (collAnchor core msg) s

/-- COLL_FORM (R323). A FORM message asks the device to form the named group with a descriptor digest. -/
def execCollForm (core : Nat) (msg : List Byte) (s : State) : Host.Outcome State Fault Refusal :=
  whenReady (collForm core msg) s

/-- SUSPECT (R340). A SUSPECT makes the coordinator probe the suspect member. -/
def execSuspect (core : Nat) (msg : List Byte) (s : State) : Host.Outcome State Fault Refusal :=
  whenReady (suspect core msg) s

/-- COLL_PROBE (R340). A PROBE is answered with a REPLY giving the suspect's state. -/
def execCollProbe (core : Nat) (msg : List Byte) (s : State) : Host.Outcome State Fault Refusal :=
  whenReady (collProbe core msg) s

/-- REPLY (R340). A REPLY of RUNNING or PENDING extends the proposer, DEAD excludes the suspect. -/
def execReply (core : Nat) (msg : List Byte) (s : State) : Host.Outcome State Fault Refusal :=
  whenReady (reply core msg) s

/-- EXTEND (R340). An EXTEND restarts the member's deadline timer. -/
def execExtend (core : Nat) (msg : List Byte) (s : State) : Host.Outcome State Fault Refusal :=
  whenReady (extend core msg) s

/-- COLL_COMMIT (R342). A newer COMMIT is adopted, restarting the collective or excluding the member. -/
def execCollCommit (core : Nat) (msg : List Byte) (s : State) : Host.Outcome State Fault Refusal :=
  whenReady (collCommit core msg) s

/-- ABANDON (R341). An ABANDON completes every running COLL stroke with COLL_ABANDONED. -/
def execAbandon (core : Nat) (msg : List Byte) (s : State) : Host.Outcome State Fault Refusal :=
  whenReady (abandon core msg) s

/-- SLOW (R346). A SLOW extends the receiver's timer on the sender by DEADLINE_US. -/
def execSlow (core : Nat) (msg : List Byte) (s : State) : Host.Outcome State Fault Refusal :=
  whenReady (slow core msg) s

/-- HOLD (R347). A HOLD suspends the group's deadline timers. -/
def execHold (core : Nat) (msg : List Byte) (s : State) : Host.Outcome State Fault Refusal :=
  whenReady (hold core msg) s

/-- RESUME (R347). A RESUME restarts the group's deadline timers from zero. -/
def execResume (core : Nat) (msg : List Byte) (s : State) : Host.Outcome State Fault Refusal :=
  whenReady (resume core msg) s

/-- COMMIT_REQ (R338). A COMMIT_REQ is answered with the latest COMMIT. -/
def execCommitReq (core : Nat) (msg : List Byte) (s : State) : Host.Outcome State Fault Refusal :=
  whenReady (commitReq core msg) s

/-- COLL_BARRIER_PASS (R330). A BARRIER arrival or release message is forwarded and completes the barrier at release.
-/
def execCollBarrierPass (core : Nat) (msg : List Byte) (s : State) : Host.Outcome State Fault Refusal :=
  whenReady (collBarrierPass core msg) s

/-- DEADLINE_EXPIRY (R339). A chunk deadline timer expires and the member sends SUSPECT. -/
def execDeadlineExpiry (core : Nat) (rank : Nat) (s : State) : Host.Outcome State Fault Refusal :=
  whenReady (deadlineExpiry core rank) s

/-- PROBE_WAIT_EXPIRY (R340). After 1 ms without REPLY the coordinator excludes the suspects and commits or abandons.
-/
def execProbeWaitExpiry (group : Nat) (s : State) : Host.Outcome State Fault Refusal :=
  whenReady (probeWaitExpiry group) s

/-- SUSPECT_RETRY_EXPIRY (R344). A member without EXTEND or COMMIT in 2 ms suspects the coordinator, abandoning after
three tries. -/
def execSuspectRetryExpiry (group : Nat) (s : State) : Host.Outcome State Fault Refusal :=
  whenReady (suspectRetryExpiry group) s

/-- SLOW_SEND (R346). A throttling device sends SLOW every DEADLINE_US / 2. -/
def execSlowSend (group : Nat) (s : State) : Host.Outcome State Fault Refusal := whenReady (slowSend group) s

/-- HOLD_LIMIT_EXPIRY (R347). A hold beyond HOLD_LIMIT_MS lapses and timers restart. -/
def execHoldLimitExpiry (group : Nat) (s : State) : Host.Outcome State Fault Refusal :=
  whenReady (holdLimitExpiry group) s

end Sys2Proof.Machine
end

