-- ==== Sys2Proof/Machine/ExecCore.lean ====
section
/-! DEFINITION. The meanings of the rows of the Hatch array, the vector unit and the update datapath, one for each row. -/

namespace Sys2Proof.Machine

/-- MMA (R84). An MMA stroke issues and feeds its K-steps into the named accumulator set. -/
def execMma (c : Nat) (u : Upset) (s : State) : Host.Outcome State Fault Refusal := whenReady (mmaRow c u) s

/-- MMA_SCAN (R83). The feeder scans a chunk's element or scale plane for lane exponents once the stroke's waits hold
and the previous MMA has issued. -/
def execMmaScan (c : Nat) (u : Upset) (s : State) : Host.Outcome State Fault Refusal := whenReady (mmaScan c u) s

/-- C_LOAD (R94). The initial value of an INIT C stroke is loaded through the drain path once that path and the set
are free. -/
def execCLoad (c : Nat) (u : Upset) (s : State) : Host.Outcome State Fault Refusal := whenReady (cLoad c u) s

/-- OPERANDS_FREE (R85). At c0 + S the MMA stroke's operand regions are freed and its common signal is sent. -/
def execOperandsFree (c : Nat) (s : State) : Host.Outcome State Fault Refusal := whenReady (operandsFree c) s

/-- DRAIN (R95). A LAST-marked set starts draining to the output format once its last accumulation is done and the
drain path is free. -/
def execDrain (c : Nat) (u : Upset) (s : State) : Host.Outcome State Fault Refusal := whenReady (drainStart c u) s

/-- DRAIN_DONE (R85). A drain ends, the set becomes free and the drain signal is sent. -/
def execDrainDone (c : Nat) (s : State) : Host.Outcome State Fault Refusal := whenReady (drainDone c) s

/-- EXPAND_DECODE (R253). An operand expander decodes a compressed chunk into a free expansion buffer. -/
def execExpandDecode (c : Nat) (opB : Bool) (u : Upset) (s : State) : Host.Outcome State Fault Refusal :=
  whenReady (expandDecode c opB u) s

/-- ADD (R148). VEC ADD writes a + b element-wise. -/
def execAdd (c : Nat) (t : Thr) (s : State) : Host.Outcome State Fault Refusal := whenReady (vecRow 0 c t) s

/-- SUB (R148). VEC SUB writes a − b element-wise. -/
def execSub (c : Nat) (t : Thr) (s : State) : Host.Outcome State Fault Refusal := whenReady (vecRow 1 c t) s

/-- MUL (R148). VEC MUL writes a × b element-wise. -/
def execMul (c : Nat) (t : Thr) (s : State) : Host.Outcome State Fault Refusal := whenReady (vecRow 2 c t) s

/-- FMA (R148). VEC FMA writes a × b + d with d read at D. -/
def execFma (c : Nat) (t : Thr) (s : State) : Host.Outcome State Fault Refusal := whenReady (vecRow 3 c t) s

/-- MAX (R172). VEC MAX writes the larger of a and b. -/
def execMax (c : Nat) (t : Thr) (s : State) : Host.Outcome State Fault Refusal := whenReady (vecRow 4 c t) s

/-- MIN (R172). VEC MIN writes the smaller of a and b. -/
def execMin (c : Nat) (t : Thr) (s : State) : Host.Outcome State Fault Refusal := whenReady (vecRow 5 c t) s

/-- ABS (R172). VEC ABS writes the absolute value of a. -/
def execAbs (c : Nat) (t : Thr) (s : State) : Host.Outcome State Fault Refusal := whenReady (vecRow 6 c t) s

/-- NEG (R172). VEC NEG writes −a. -/
def execNeg (c : Nat) (t : Thr) (s : State) : Host.Outcome State Fault Refusal := whenReady (vecRow 7 c t) s

/-- CVT (R170). VEC CVT converts a to the destination format with one rounding. -/
def execCvt (c : Nat) (t : Thr) (s : State) : Host.Outcome State Fault Refusal := whenReady (vecRow 8 c t) s

/-- ADDS (R148). VEC ADDS writes a + SCALAR. -/
def execAdds (c : Nat) (t : Thr) (s : State) : Host.Outcome State Fault Refusal := whenReady (vecRow 9 c t) s

/-- MULS (R148). VEC MULS writes a × SCALAR. -/
def execMuls (c : Nat) (t : Thr) (s : State) : Host.Outcome State Fault Refusal := whenReady (vecRow 0x0A c t) s

/-- AXPY (R148). VEC AXPY writes SCALAR × a + b. -/
def execAxpy (c : Nat) (t : Thr) (s : State) : Host.Outcome State Fault Refusal := whenReady (vecRow 0x0B c t) s

/-- EXP2 (R173). VEC EXP2 writes 2^a correctly rounded, flushing subnormal results. -/
def execExp2 (c : Nat) (t : Thr) (s : State) : Host.Outcome State Fault Refusal := whenReady (vecRow 0x10 c t) s

/-- LOG2 (R173). VEC LOG2 writes log2 a correctly rounded. -/
def execLog2 (c : Nat) (t : Thr) (s : State) : Host.Outcome State Fault Refusal := whenReady (vecRow 0x11 c t) s

/-- RCP (R173). VEC RCP writes 1 / a correctly rounded. -/
def execRcp (c : Nat) (t : Thr) (s : State) : Host.Outcome State Fault Refusal := whenReady (vecRow 0x12 c t) s

/-- RSQRT (R173). VEC RSQRT writes 1 / √a correctly rounded. -/
def execRsqrt (c : Nat) (t : Thr) (s : State) : Host.Outcome State Fault Refusal := whenReady (vecRow 0x13 c t) s

/-- RSUM (R175). VEC RSUM writes the exact sum of the source as one AP. -/
def execRsum (c : Nat) (t : Thr) (s : State) : Host.Outcome State Fault Refusal := whenReady (vecRow 0x18 c t) s

/-- RSUMSQ (R175). VEC RSUMSQ writes the exact sum of squares as one AP. -/
def execRsumsq (c : Nat) (t : Thr) (s : State) : Host.Outcome State Fault Refusal := whenReady (vecRow 0x19 c t) s

/-- RAMAX (R176). VEC RAMAX writes the largest magnitude of the source. -/
def execRamax (c : Nat) (t : Thr) (s : State) : Host.Outcome State Fault Refusal := whenReady (vecRow 0x1A c t) s

/-- APADD (R177). VEC APADD adds two AP planes element-wise by R62. -/
def execApadd (c : Nat) (t : Thr) (s : State) : Host.Outcome State Fault Refusal := whenReady (vecRow 0x1B c t) s

/-- CMPGT (R172). VEC CMPGT writes 1 where a > b and 0 otherwise. -/
def execCmpgt (c : Nat) (t : Thr) (s : State) : Host.Outcome State Fault Refusal := whenReady (vecRow 0x20 c t) s

/-- SEL (R172). VEC SEL writes a where d is nonzero and b otherwise. -/
def execSel (c : Nat) (t : Thr) (s : State) : Host.Outcome State Fault Refusal := whenReady (vecRow 0x21 c t) s

/-- VEC_START (R180). An accepted VEC stroke starts in the vector unit once the previous stroke has used its T cycles.
-/
def execVecStart (c : Nat) (u : Upset) (s : State) : Host.Outcome State Fault Refusal := whenReady (vecStart c u) s

/-- VEC_COMPLETE (R180). A VEC stroke completes, having written its results, and sends its signal. -/
def execVecComplete (v : VecPlace) (s : State) : Host.Outcome State Fault Refusal :=
  whenReady (vecComplete v.core v.place) s

/-- ADAMW_UPDATE (R276). UPD OP 0 runs the AdamW-style update over NSTRIPE stripes according to their tags. -/
def execAdamwUpdate (c : Nat) (u : Upset) (s : State) : Host.Outcome State Fault Refusal := whenReady (updRow 0 c u) s

/-- MOMENTUM_UPDATE (R277). UPD OP 1 runs the momentum update over NSTRIPE stripes according to their tags. -/
def execMomentumUpdate (c : Nat) (u : Upset) (s : State) : Host.Outcome State Fault Refusal :=
  whenReady (updRow 1 c u) s

/-- UPD_COMPLETE (R285). A UPD stroke completes after the last weight tag is written and sends its signal. -/
def execUpdComplete (c : Nat) (s : State) : Host.Outcome State Fault Refusal := whenReady (updComplete c) s

end Sys2Proof.Machine
end

