-- ==== Sys2Proof/Machine/ExecDict.lean ====
section
/-! DEFINITION. The meanings of the rows of the Dictionary, the management protocol and the arbiters, one for each row. -/

namespace Sys2Proof.Machine

/-- WDP_FRAME (R495). A WDP frame received on the management port or torus is checked, queued, forwarded or dropped.
-/
def execWdpFrame (torus : Bool) (port : Nat) (frame fcs : List Byte) (s : State) : Host.Outcome State Fault Refusal :=
  anyTime (wdpFrame torus port (frame ++ fcs)) s

/-- WDP_READ (R483). A served READ frame returns the requested values. -/
def execWdpRead (s : State) : Host.Outcome State Fault Refusal := anyTime wdpRead s

/-- WDP_WRITE (R484). A served WRITE frame writes, stages or invokes each item and replaces the write report. -/
def execWdpWrite (es : List Outside) (s : State) : Host.Outcome State Fault Refusal := anyTime (wdpWrite es) s

/-- WDP_RESPONSE (R503). A response to a device's own request is verified and placed in the mailbox. -/
def execWdpResponse (s : State) : Host.Outcome State Fault Refusal := anyTime wdpResponse s

/-- REMOTE_RETRY (R503). A remote request without a response is resent, up to three times. -/
def execRemoteRetry (s : State) : Host.Outcome State Fault Refusal := anyTime remoteRetry s

/-- REGISTER_WRITE (R484). A write to an object without a row of its own is clamped, staged or applied, or refused. -/
def execRegisterWrite (w : Writer) (idx : Nat) (sub : Nat) (off : Nat) (data : List Byte) (s : State) : Host.Outcome State Fault Refusal :=
  anyTime (registerWrite w idx sub off data) s

/-- COMMIT (R487). COMMIT checks and applies the principal's staged set at once. -/
def execCommit (w : Writer) (s : State) : Host.Outcome State Fault Refusal := anyTime (cmdRow w 0xF000 0 0 {}) s

/-- DISCARD (R486). Writing DISCARD empties the staged set. -/
def execDiscard (w : Writer) (v : Nat) (s : State) : Host.Outcome State Fault Refusal :=
  anyTime (plainRow w 0xF000 1 v) s

/-- KEY_PROMOTE (R498). KEY_PROMOTE moves slot 1's management key into slot 0. -/
def execKeyPromote (w : Writer) (s : State) : Host.Outcome State Fault Refusal := anyTime (keyPromoteRow w) s

/-- MGMT_HANDLE_RECORD (R507). A read of MGMT_HANDLE_RECORD returns and frees a completed MGMT handle. -/
def execMgmtHandleRecord (s : State) : Host.Outcome State Fault Refusal := anyTime mgmtHandleRecord s

/-- CLAIM_SET (R196). CLAIM_SET sets a run of claim counters. -/
def execClaimSet (w : Writer) (arg : Nat) (s : State) : Host.Outcome State Fault Refusal :=
  anyTime (cmdRow w 0x3140 0 arg {}) s

/-- STATE_CHECK (R288). STATE_CHECK checks the state plan and writes the shortfall report. -/
def execStateCheck (w : Writer) (s : State) : Host.Outcome State Fault Refusal := anyTime (cmdRow w 0x3190 1 0 {}) s

/-- COUNTER_CLEAR (R134). COUNTER_CLEAR clears a core's diagnostic counters. -/
def execCounterClear (w : Writer) (core : Nat) (s : State) : Host.Outcome State Fault Refusal :=
  anyTime (cmdRow w (perUnit 0xA100 128 core) 0x20 0 {}) s

/-- UPD_CLEAR (R287). UPD_CLEAR clears a core's update counters. -/
def execUpdClear (w : Writer) (core : Nat) (s : State) : Host.Outcome State Fault Refusal :=
  anyTime (cmdRow w (perUnit 0xA100 128 core) 0x28 0 {}) s

/-- DISCOVERY_REPLY (R499). A multicast discovery READ is answered after (DEVICE_UID mod 32) ms. -/
def execDiscoveryReply (s : State) : Host.Outcome State Fault Refusal := anyTime discoveryReply s

/-- PLCA_FALLBACK (R500). Without BEACON for the timeout the port falls back to CSMA/CD. -/
def execPlcaFallback (s : State) : Host.Outcome State Fault Refusal := anyTime plcaFallback s

/-- PLCA_RESTORED (R500). A received BEACON returns the port to PLCA. -/
def execPlcaRestored (s : State) : Host.Outcome State Fault Refusal := anyTime plcaRestored s

/-- FREEZE (R515). Writing FREEZE stops or resumes new grants of the selected arbiter. -/
def execFreeze (w : Writer) (v : Nat) (s : State) : Host.Outcome State Fault Refusal :=
  anyTime (plainRow w 0x8100 1 v) s

/-- ARB_STUCK (R516). A granted transfer outlasting RES_WDOG_MS is withdrawn and its unit reset. -/
def execArbStuck (arb : Nat) (req : Nat) (unit : Nat) (s : State) : Host.Outcome State Fault Refusal :=
  whenReady (arbStuck arb req unit) s

end Sys2Proof.Machine
end

