-- ==== Sys2Proof/Machine/ExecHost.lean ====
section
/-! DEFINITION. The meanings of the rows of the host interface and the contexts, one for each row. -/

namespace Sys2Proof.Machine

/-- PCIE_FAILOVER (R455). After 100 ms of a down active link the device moves to the other port. -/
def execPcieFailover (link0 : Nat) (link1 : Nat) (s : State) : Host.Outcome State Fault Refusal :=
  whenReady (pcieFailover link0 link1) s

/-- FAILOVER (R455). FAILOVER moves the device to the other PCIe port. -/
def execFailover (w : Writer) (s : State) : Host.Outcome State Fault Refusal := anyTime (cmdRow w 0xD000 2 0 {}) s

/-- FUNCTION_LEVEL_RESET (R457). An FLR of a VF or the PF closes its contexts. -/
def execFunctionLevelReset (fn : Nat) (s : State) : Host.Outcome State Fault Refusal :=
  whenReady (functionLevelReset fn) s

/-- CMD_DB (R469). A command doorbell write sets the pending producer index or is discarded. -/
def execCmdDb (port : Nat) (ctx : Nat) (v : Nat) (s : State) : Host.Outcome State Fault Refusal :=
  whenReady (cmdDb port ctx v) s

/-- EVT_DB (R472). An event doorbell write advances EVT_CONS and frees handle entries. -/
def execEvtDb (port : Nat) (ctx : Nat) (v : Nat) (s : State) : Host.Outcome State Fault Refusal :=
  whenReady (evtDb port ctx v) s

/-- MBOX_GO (R460). MBOX_GO starts service of the mailbox request frame. -/
def execMboxGo (port : Nat) (ctx : Nat) (v : Nat) (req : List Byte) (s : State) : Host.Outcome State Fault Refusal :=
  anyTime (mboxGo port ctx v req) s

/-- COMMAND_FETCH (R469). The command processor fetches up to 8 entries of one context in rotation. -/
def execCommandFetch (entries : List (List Byte)) (err : Bool) (s : State) : Host.Outcome State Fault Refusal :=
  whenReady (commandFetch entries err) s

/-- DICT (R467). A DICT command entry invokes a CMD object with its argument. -/
def execDict (ctx : Nat) (e : Outside) (s : State) : Host.Outcome State Fault Refusal := whenReady (dictRow ctx e) s

/-- LOAD_PROGRAM (R475). A LOAD command loads a core's images and checks their digests. -/
def execLoadProgram (ctx : Nat) (s : State) : Host.Outcome State Fault Refusal := whenReady (loadRow ctx) s

/-- STOP (R474). CORE STOP stops the named threads at their next stroke boundary. -/
def execCoreStop (ctx : Nat) (s : State) : Host.Outcome State Fault Refusal := whenReady (stopRow ctx) s

/-- CORE_RESUME (R474). CORE RESUME continues STOPPED threads. -/
def execCoreResume (ctx : Nat) (s : State) : Host.Outcome State Fault Refusal := whenReady (resumeRow ctx) s

/-- CORE_RELEASE (R474). CORE RELEASE starts cores loaded with HOLD. -/
def execCoreRelease (ctx : Nat) (s : State) : Host.Outcome State Fault Refusal := whenReady (releaseRow' ctx) s

/-- FLUSH (R474). CORE FLUSH flushes the named queues. -/
def execCoreFlush (ctx : Nat) (s : State) : Host.Outcome State Fault Refusal := whenReady (flushRow ctx) s

/-- CORE_RESET (R474). CORE RESET resets the named cores. -/
def execCoreReset (ctx : Nat) (s : State) : Host.Outcome State Fault Refusal := whenReady (coreResetRow ctx) s

/-- MAP (R464). MAP adds pages to the context's page tables. -/
def execMapPages (ctx : Nat) (s : State) : Host.Outcome State Fault Refusal := whenReady (mapRow ctx) s

/-- UNMAP (R465). UNMAP removes pages and waits for translated accesses to finish. -/
def execUnmapPages (ctx : Nat) (s : State) : Host.Outcome State Fault Refusal := whenReady (unmapRow ctx) s

/-- NOP_COMMAND (R467). A NOP command entry completes and does nothing. -/
def execNopCommand (ctx : Nat) (s : State) : Host.Outcome State Fault Refusal := whenReady (nopCommand ctx) s

/-- CTX_OPEN (R461). CTX_OPEN moves a context from FREE to OPEN. -/
def execCtxOpen (w : Writer) (ctx : Nat) (s : State) : Host.Outcome State Fault Refusal :=
  anyTime (cmdRow w (perUnit 0x7000 4096 ctx) 0x18 0 {}) s

/-- CTX_CLOSE (R477). CTX_CLOSE closes a context in its fixed order. -/
def execCtxClose (w : Writer) (ctx : Nat) (s : State) : Host.Outcome State Fault Refusal :=
  anyTime (cmdRow w (perUnit 0x7000 4096 ctx) 0x19 0 {}) s

/-- JOB_START (R476). JOB_START checks the job and makes the context RUNNING. -/
def execJobStart (w : Writer) (ctx : Nat) (arg : Nat) (s : State) : Host.Outcome State Fault Refusal :=
  anyTime (cmdRow w (perUnit 0x7000 4096 ctx) 0x1A arg {}) s

/-- JOB_END (R476). JOB_END returns the context to OPEN. -/
def execJobEnd (w : Writer) (ctx : Nat) (s : State) : Host.Outcome State Fault Refusal :=
  anyTime (cmdRow w (perUnit 0x7000 4096 ctx) 0x1B 0 {}) s

/-- HANDLE_SWEEP (R470). HANDLE_SWEEP frees every completed handle entry of the context. -/
def execHandleSweep (w : Writer) (ctx : Nat) (s : State) : Host.Outcome State Fault Refusal :=
  anyTime (cmdRow w (perUnit 0x7000 4096 ctx) 0x22 0 {}) s

/-- HANDLE_RECORD (R470). A read of HANDLE_RECORD returns the record and frees a completed entry. -/
def execHandleRecord (prin : Nat) (ctx : Nat) (s : State) : Host.Outcome State Fault Refusal :=
  anyTime (handleRecordRow prin ctx) s

/-- MSIX_MODERATION (R473). When INTR_US ends after events the MSI-X message is sent. -/
def execMsixModeration (ctx : Nat) (s : State) : Host.Outcome State Fault Refusal := whenReady (msixModeration ctx) s

/-- BAR2_READ (R466). A BAR2 read is translated through the window and completed. -/
def execBar2Read (port : Nat) (fn : Nat) (off : Nat) (len : Nat) (s : State) : Host.Outcome State Fault Refusal :=
  anyTime (bar2Read port fn off len) s

/-- BAR2_WRITE (R466). A BAR2 write is translated and written, or discarded with BAR2_UNMAPPED. -/
def execBar2Write (port : Nat) (fn : Nat) (off : Nat) (data : List Byte) (s : State) : Host.Outcome State Fault Refusal :=
  anyTime (bar2Write port fn off data) s

/-- BAR2_BASE (R466). Writing BAR2_BASE moves the function's BAR2 window. -/
def execBar2Base (w : Writer) (fn : Nat) (v : Nat) (s : State) : Host.Outcome State Fault Refusal :=
  anyTime (plainRow w (perUnit 0xD100 256 fn) 1 v) s

end Sys2Proof.Machine
end

