-- ==== Sys2Proof/Machine/ExecIg.lean ====
section
/-! DEFINITION. The meanings of the rows of the Intaglio engines and the long-haul ports, one for each row. -/

namespace Sys2Proof.Machine

/-- IG_FORM (R353). IG_FORM forms the round groups of every served holder. -/
def execIgForm (w : Writer) (e : Outside) (s : State) : Host.Outcome State Fault Refusal :=
  anyTime (cmdRow w 0x5000 0x18 0 e) s

/-- IG_FORM_TIMEOUT (R353). IG_FORM ends when a counterpart has not answered in 120 s. -/
def execIgFormTimeout (s : State) : Host.Outcome State Fault Refusal := whenReady igFormTimeout s

/-- IG_JOIN (R384). IG_JOIN sends JOIN for a holder not present. -/
def execIgJoin (w : Writer) (s : State) : Host.Outcome State Fault Refusal := anyTime (cmdRow w 0x5000 0x19 0 {}) s

/-- SEGMENT (R362). The engine takes a SEGMENT post and builds and sends the segment's datagrams. -/
def execSegment (holder : Nat) (s : State) : Host.Outcome State Fault Refusal := whenReady (segmentRow holder) s

/-- ROUND_END (R361). The engine takes a ROUND_END post and sends the round's END. -/
def execRoundEnd (holder : Nat) (s : State) : Host.Outcome State Fault Refusal := whenReady (roundEndRow holder) s

/-- RELEASE (R361). The engine takes a RELEASE post, freeing the slot set for later rounds. -/
def execRelease (holder : Nat) (s : State) : Host.Outcome State Fault Refusal := whenReady (releaseRow holder) s

/-- LH_EGRESS (R372). Long-haul egress sends one datagram, serving destinations in rotation. -/
def execLhEgress (port : Nat) (mismatch : Bool) (s : State) : Host.Outcome State Fault Refusal :=
  whenReady (lhEgress port mismatch) s

/-- IG_SEG (R375). A SEG datagram is decrypted and its slice stored in the intake. -/
def execIgSeg (port : Nat) (frame : List Byte) (s : State) : Host.Outcome State Fault Refusal :=
  whenReady (igSeg port frame) s

/-- IG_END (R367). An END part is received, acknowledged and checked. -/
def execIgEnd (port : Nat) (frame : List Byte) (s : State) : Host.Outcome State Fault Refusal :=
  whenReady (igEnd port frame) s

/-- IG_ACK (R373). An ACK releases retention of a segment or END part. -/
def execIgAck (port : Nat) (frame : List Byte) (s : State) : Host.Outcome State Fault Refusal :=
  whenReady (igAck port frame) s

/-- IG_NAK (R373). A NAK makes the sender resend or rebuild the missing datagrams. -/
def execIgNak (port : Nat) (frame : List Byte) (s : State) : Host.Outcome State Fault Refusal :=
  whenReady (igNak port frame) s

/-- IG_REPORT (R378). The coordinator receives a HAVE report for a round. -/
def execIgReport (port : Nat) (frame : List Byte) (s : State) : Host.Outcome State Fault Refusal :=
  whenReady (igReport port frame) s

/-- IG_ADMIT (R380). ADMIT makes the home engine log, zero slots, write the result and send the ADMIT token. -/
def execIgAdmit (port : Nat) (frame : List Byte) (s : State) : Host.Outcome State Fault Refusal :=
  whenReady (igAdmit port frame) s

/-- IG_COMMIT (R381). A membership COMMIT advances the epoch, adds a joiner, or abandons. -/
def execIgCommit (port : Nat) (frame : List Byte) (s : State) : Host.Outcome State Fault Refusal :=
  whenReady (igCommit port frame) s

/-- IG_KEEPALIVE (R366). A KEEPALIVE refreshes the liveness of a counterpart. -/
def execIgKeepalive (port : Nat) (frame : List Byte) (s : State) : Host.Outcome State Fault Refusal :=
  whenReady (igKeepalive port frame) s

/-- IG_STATE (R385). A STATE slice of the joiner's state stream is received. -/
def execIgState (port : Nat) (frame : List Byte) (s : State) : Host.Outcome State Fault Refusal :=
  whenReady (igState port frame) s

/-- JOIN (R384). The coordinator receives JOIN and enlarges the group at the next ADMIT. -/
def execJoin (port : Nat) (frame : List Byte) (s : State) : Host.Outcome State Fault Refusal :=
  whenReady (joinRow port frame) s

/-- SEGMENT_COMPLETE (R375). A complete segment's codebook is written, the plane decoded and the slot filled. -/
def execSegmentComplete (holder : Nat) (sender : Nat) (round : Nat) (seg : Nat) (s : State) : Host.Outcome State Fault Refusal :=
  whenReady (segmentComplete holder sender round seg) s

/-- STATE_STREAM_COMPLETE (R385). The joiner's anchor and momentum are written and JOIN_TOKEN sent. -/
def execStateStreamComplete (holder : Nat) (s : State) : Host.Outcome State Fault Refusal :=
  whenReady (stateStreamComplete holder) s

/-- NAK_WAIT_EXPIRY (R373). An incomplete group after NAK_WAIT_US is NAKed, and NAKs repeat. -/
def execNakWaitExpiry (holder : Nat) (sender : Nat) (round : Nat) (seg : Nat) (index : Nat) (state : Bool) (s : State) : Host.Outcome State Fault Refusal :=
  whenReady (nakWaitExpiry holder sender round seg index state) s

/-- END_RESEND (R366). An unacknowledged END part is resent every 10 × NAK_WAIT_US. -/
def execEndResend (holder : Nat) (sender : Nat) (round : Nat) (part : Nat) (s : State) : Host.Outcome State Fault Refusal :=
  whenReady (endResend holder sender round part) s

/-- REPORT_DEADLINE (R377). In tolerant mode a holder reports HAVE DEADLINE_MS after ROUND_END. -/
def execReportDeadline (holder : Nat) (round : Nat) (s : State) : Host.Outcome State Fault Refusal :=
  whenReady (reportDeadline holder round) s

/-- REPORT_RESEND (R377). A report is resent every 10 × NAK_WAIT_US until ADMIT arrives. -/
def execReportResend (holder : Nat) (round : Nat) (s : State) : Host.Outcome State Fault Refusal :=
  whenReady (reportResend holder round) s

/-- ADMIT_WAIT_EXPIRY (R378). The coordinator decides ADMIT when ADMIT_WAIT_MS passes after its deadline. -/
def execAdmitWaitExpiry (holder : Nat) (round : Nat) (s : State) : Host.Outcome State Fault Refusal :=
  whenReady (admitWaitExpiry holder round) s

/-- KEEPALIVE_SEND (R366). Every engine sends KEEPALIVE once per second per counterpart. -/
def execKeepaliveSend (s : State) : Host.Outcome State Fault Refusal := whenReady keepaliveSend s

/-- LIVENESS_EXPIRY (R381). A holder silent for LIVENESS_MS is removed, or a silent coordinator replaced. -/
def execLivenessExpiry (holder : Nat) (rank : Nat) (s : State) : Host.Outcome State Fault Refusal :=
  whenReady (livenessExpiry holder rank) s

/-- LH_PORT_DOWN (R386). A long-haul sub-link down moves the port's holders to the other engine. -/
def execLhPortDown (port : Nat) (s : State) : Host.Outcome State Fault Refusal := whenReady (lhPortDown port) s

/-- LH_PORT_UP (R386). A long-haul port comes UP and its holders return at the next ADMIT. -/
def execLhPortUp (port : Nat) (s : State) : Host.Outcome State Fault Refusal := whenReady (lhPortUp port) s

end Sys2Proof.Machine
end

