-- ==== Sys2Proof/Machine/ExecMem.lean ====
section
/-! DEFINITION. The meanings of the rows of the codec engines, the tile caches and external memory, one for each row. -/

namespace Sys2Proof.Machine

/-- BUILD (R236). CODE BUILD histograms a source and writes a codebook entry. -/
def execBuild (c : Nat) (s : State) : Host.Outcome State Fault Refusal := whenReady (codeRow 0 c) s

/-- ENCODE (R247). CODE ENCODE writes a coded plane against a codebook. -/
def execEncode (c : Nat) (s : State) : Host.Outcome State Fault Refusal := whenReady (codeRow 1 c) s

/-- DECODE (R258). CODE DECODE restores a coded plane, reporting damaged sectors. -/
def execDecode (c : Nat) (s : State) : Host.Outcome State Fault Refusal := whenReady (codeRow 2 c) s

/-- CODEC_OP_START (R254). A bulk codec engine starts its next held operation in arrival order. -/
def execCodecOpStart (tile : Nat) (e : Nat) (u : Upset) (s : State) : Host.Outcome State Fault Refusal :=
  whenReady (codecOpStart tile e u) s

/-- CODEC_OP_COMPLETE (R256). A codec operation writes its completion record and the stroke signals. -/
def execCodecOpComplete (tile : Nat) (e : Nat) (s : State) : Host.Outcome State Fault Refusal :=
  whenReady (codecOpComplete tile e) s

/-- TC_REQUEST (R221). A tile-cache bank serves one line access for a requester. -/
def execTcRequest (req : Requester) (act : Nat) (line : Nat) (wr : Option (Nat × List Byte)) (err : Nat) (s : State) :
    Host.Outcome State Fault Refusal :=
  whenReady (tcRequest req.num req.tile act line wr err) s

/-- TC_FILL_COMPLETE (R221). A fill from the stack completes and serves its waiting readers. -/
def execTcFillComplete (line : Nat) (ces : Nat) (ue : Bool) (s : State) : Host.Outcome State Fault Refusal :=
  whenReady (tcFillComplete line ces ue) s

/-- RETIRE_LIST_WRITE (R226). A retired granule is entered in the flash retirement list within 1 s. -/
def execRetireListWrite (s : State) : Host.Outcome State Fault Refusal := whenReady retireListWrite s

/-- RETIRE_GRANULE (R226). The driver retires a named granule. -/
def execRetireGranule (w : Writer) (granule : Nat) (s : State) : Host.Outcome State Fault Refusal :=
  anyTime (cmdRow w 0x3040 4 granule {}) s

/-- BURNISH_GRANULE (R225). The periodic burnish pass scrubs the next granule at its even rate. -/
def execBurnishGranule (stack : Nat) (ces : Nat) (ues : List Nat) (s : State) : Host.Outcome State Fault Refusal :=
  whenReady (burnishGranule stack ces ues) s

/-- BURNISH_NOW (R225). An extra burnish pass runs at once. -/
def execBurnishNow (w : Writer) (e : Outside) (s : State) : Host.Outcome State Fault Refusal :=
  anyTime (cmdRow w 0x3030 2 0 e) s

/-- MEM_CALIBRATION (R233). Every 100 ms each controller pauses up to 1 µs for calibration. -/
def execMemCalibration (s : State) : Host.Outcome State Fault Refusal := whenReady memCalibration s

/-- REFRESH (R233). A refresh interval takes the controller with the privileged grant. -/
def execRefresh (stack : Nat) (s : State) : Host.Outcome State Fault Refusal := whenReady (refresh stack) s

/-- CONTROLLER_READY (R231, R232). A reset controller finishes training and its check read and admits waiting requests. -/
def execControllerReady (stack : Nat) (ok : Bool) (s : State) : Host.Outcome State Fault Refusal :=
  whenReady (controllerRow stack ok) s

/-- COW_COPY (R419). A first write to a protected granule is held while the granule is copied to the COW buffer. -/
def execCowCopy (granule : Nat) (s : State) : Host.Outcome State Fault Refusal := whenReady (cowCopy granule) s

/-- COW_WRITE_ADMIT (R419). After the copy the held write is admitted. -/
def execCowWriteAdmit (s : State) : Host.Outcome State Fault Refusal := whenReady cowWriteAdmit s

end Sys2Proof.Machine
end

