-- ==== Sys2Proof/Machine/Ctrl.lean ====
section
/-! DEFINITION. The CTRL and SYS strokes (R158 to R162, R165). -/

namespace Sys2Proof.Machine

/-! ## CTRL -/

/-- A CTRL stroke of an operation. -/
def isCtrl (op w : Nat) : Bool := skClass w == 5 && skOp w == op

/-- The row LOOP (R159): with COUNT above 0 the level becomes active; otherwise control passes beyond END, the
enclosing levels that end there stepping. -/
def loopRow (c : Nat) (t : Thr) (f : Fuses) (d : Dev) : Dev :=
  strokeGo f d c t (isCtrl 0) (fun _ => true) (fun w =>
    let x := ((d.core c).th t).pc
    let (level, count, e) := (bits w 65 64, bits w 89 66, bits w 103 90)
    if count = 0 then issueAt f d c t w e (e + 1) id
    else issue f d c t w (fun d => d.modCore c (fun k =>
      let th := k.th t
      k.setTh t { th with lc := th.lc.set level 0, loops := ⟨level, x + 1, e, count⟩ :: th.loops })))

/-- The comparison of a SKIP (R158, R161). -/
def skipCmp (cmp v imm : Nat) : Bool :=
  if cmp = 0 then v == imm else if cmp = 1 then v != imm else if cmp = 2 then decide (v < imm) else decide (v ≥ imm)

/-- The condition of a SKIP, on the values issue sees in its cycle (R161). -/
def skipTaken (k : Core) (t : Thr) (w : Nat) : Bool :=
  let (src, i, cmp, imm) := (bits w 80 78, bits w 87 81, bits w 89 88, bits w 113 90)
  if src = 0 then skipCmp cmp (k.counter ⟨false, i⟩) imm
  else if src = 1 then skipCmp cmp (k.counter ⟨true, i⟩) imm
  else if src = 2 then skipCmp cmp (lcOf (k.th t).lc i) imm
  else if src = 3 then skipCmp cmp (if (k.th t).flags.toNat.testBit i then 1 else 0) imm
  else true

/-- The row SKIP (R161, R162): forward when the condition holds; CLR clears the flag it tests. -/
def skipRow (c : Nat) (t : Thr) (f : Fuses) (d : Dev) : Dev :=
  strokeGo f d c t (isCtrl 1) (fun _ => true) (fun w =>
    let k := d.core c
    let x := (k.th t).pc
    issueTo f d c t w (if skipTaken k t w then x + 1 + bits w 77 64 else x + 1) (fun d =>
      if bit w 114 then
        d.modCore c (fun k => let th := k.th t; k.setTh t { th with flags := th.flags.clear (2 ^ bits w 87 81) })
      else d))

/-- The row HALT (R158): the thread ends in HALT. -/
def haltRow (c : Nat) (t : Thr) (f : Fuses) (d : Dev) : Dev :=
  strokeRow f d c t (isCtrl 2) (fun _ => true)
    (fun _ d => d.modCore c (fun k => k.setTh t { k.th t with state := .halt, stopping := false }))

/-- The row NOP (R158). -/
def nopRow (c : Nat) (t : Thr) (f : Fuses) (d : Dev) : Dev :=
  strokeRow f d c t (isCtrl 3) (fun _ => true) (fun _ d => d)

/-! ## SYS -/

/-- A SYS stroke of an operation. -/
def isSys (op w : Nat) : Bool := skClass w == 8 && skOp w == op

/-- The core's diagnostic counters are cleared (R134). -/
def clearCounters (d : Dev) (c : Nat) : Dev := d.clearObjs (cIdx c) 0x10 0x1E

/-- The row CNTCLR (R165). -/
def cntclrRow (c : Nat) (t : Thr) (f : Fuses) (d : Dev) : Dev :=
  strokeRow f d c t (isSys 0) (fun _ => true) (fun _ d => clearCounters d c)

/-- The row TRACE (R165). -/
def traceRow (c : Nat) (t : Thr) (f : Fuses) (d : Dev) : Dev :=
  let x := ((d.core c).th t).pc
  strokeRow f d c t (isSys 1) (fun _ => true)
    (fun w d => d.modCore c (fun k => { k with trace := ⟨bits w 95 64, x, d.now⟩ :: k.trace }))

/-- The row SYS_FAULT (R165). -/
def sysFaultRow (c : Nat) (t : Thr) (f : Fuses) (d : Dev) : Dev :=
  let x := ((d.core c).th t).pc
  strokeRow f d c t (isSys 2) (fun _ => true)
    (fun w d => faultThread f d c t { status := Status.userFault, source := srcOf t, stroke := x, requested := bits w 79 64 })

/-- The row SYS_TIME (R165): TIME of the issue cycle goes to the Plate. -/
def sysTimeRow (c : Nat) (t : Thr) (f : Fuses) (d : Dev) : Dev :=
  let k := d.core c
  strokeRow f d c t (isSys 3) (fun _ => true)
    (fun w d => d.modCore c (fun k' => k'.patch ⟨(paddr (k.word (bits w 77 64)) (k.th t).lc).toNat, leBytes 8 d.now⟩))

/-- The row FLAGCLR (R165). -/
def flagclrRow (c : Nat) (t : Thr) (f : Fuses) (d : Dev) : Dev :=
  strokeRow f d c t (isSys 4) (fun _ => true)
    (fun w d => d.modCore c (fun k => let th := k.th t; k.setTh t { th with flags := th.flags.clear (bits w 67 64) }))

end Sys2Proof.Machine
end

