-- ==== Sys2Proof/Machine/ExecMove.lean ====
section
/-! DEFINITION. The meanings of the rows of the movers, the tokens, the claims, the queues and the control strokes, one for each row. -/

namespace Sys2Proof.Machine

/-- LOAD (R152). MOVE LOAD copies device memory into the core's Plate. -/
def execLoad (c : Nat) (t : Thr) (s : State) : Host.Outcome State Fault Refusal := whenReady (moveRow 0 c t) s

/-- STORE (R152). MOVE STORE copies the core's Plate to device memory. -/
def execStore (c : Nat) (t : Thr) (s : State) : Host.Outcome State Fault Refusal := whenReady (moveRow 1 c t) s

/-- COPY (R152). MOVE COPY copies within the core's Plate. -/
def execCopy (c : Nat) (t : Thr) (s : State) : Host.Outcome State Fault Refusal := whenReady (moveRow 2 c t) s

/-- PUT (R152). MOVE PUT copies Plate bytes into another core's Plate. -/
def execPut (c : Nat) (t : Thr) (s : State) : Host.Outcome State Fault Refusal := whenReady (moveRow 3 c t) s

/-- QSEND (R154). MOVE QSEND sends LEN words as one item to a target core's queue. -/
def execQsend (c : Nat) (t : Thr) (s : State) : Host.Outcome State Fault Refusal := whenReady (moveRow 4 c t) s

/-- QPOP (R128). MOVE QPOP copies the head deliverable item of a queue into a 512-byte Plate buffer. -/
def execQpop (c : Nat) (t : Thr) (s : State) : Host.Outcome State Fault Refusal := whenReady (moveRow 5 c t) s

/-- QFLUSH (R129). MOVE QFLUSH flushes one of the thread's queues. -/
def execQflush (c : Nat) (t : Thr) (s : State) : Host.Outcome State Fault Refusal := whenReady (moveRow 6 c t) s

/-- MOVE_START (R155). A mover channel starts its next queued MOVE transfer once the earlier one has completed. -/
def execMoveStart (c : Nat) (t : Thr) (u : Upset) (s : State) : Host.Outcome State Fault Refusal :=
  whenReady (moveStart c t u) s

/-- MOVE_COMPLETE (R617). A MOVE transfer completes once its writes are accepted, sending its signal and notification.
-/
def execMoveComplete (c : Nat) (t : Thr) (remote : Nat) (s : State) : Host.Outcome State Fault Refusal :=
  whenReady (moveComplete c t remote) s

/-- WAIT (R156). SYNC WAIT consumes its common waits and does nothing else. -/
def execWait (c : Nat) (t : Thr) (s : State) : Host.Outcome State Fault Refusal := whenReady (waitRow c t) s

/-- SET (R156). SYNC SET sets an owned counter to VALUE. -/
def execSet (c : Nat) (t : Thr) (s : State) : Host.Outcome State Fault Refusal := whenReady (setRow c t) s

/-- SEND (R156). SYNC SEND sends a token or credit message. -/
def execSend (c : Nat) (t : Thr) (s : State) : Host.Outcome State Fault Refusal := whenReady (sendRow c t) s

/-- CLAIM (R157). SYNC CLAIM sends a fetch-add to a claim counter and holds the thread until it returns. -/
def execClaim (c : Nat) (t : Thr) (s : State) : Host.Outcome State Fault Refusal := whenReady (claimRow c t) s

/-- FENCE (R156). SYNC FENCE waits until every earlier stroke of the thread has completed. -/
def execFence (c : Nat) (t : Thr) (s : State) : Host.Outcome State Fault Refusal := whenReady (fenceRow c t) s

/-- SYNC_BARRIER (R446). SYNC BARRIER waits for the next release of the registration barrier. -/
def execSyncBarrier (c : Nat) (t : Thr) (s : State) : Host.Outcome State Fault Refusal :=
  whenReady (syncBarrierRow c t) s

/-- CLAIM_SERVE (R197). The claim store serves one arriving claim by fetch-add, marking exhaustion or holding it. -/
def execClaimServe (tile : Nat) (s : State) : Host.Outcome State Fault Refusal := whenReady (claimServe tile) s

/-- CLAIM_RETURN (R157). A served claim's value returns to the thread, which writes the loop counter or sets
CLAIM_OUT. -/
def execClaimReturn (c : Nat) (t : Thr) (s : State) : Host.Outcome State Fault Refusal :=
  whenReady (claimReturn c t) s

/-- LOOP (R159). CTRL LOOP activates a loop level. -/
def execLoop (c : Nat) (t : Thr) (s : State) : Host.Outcome State Fault Refusal := whenReady (loopRow c t) s

/-- SKIP (R161). CTRL SKIP jumps forward when its comparison holds. -/
def execSkip (c : Nat) (t : Thr) (s : State) : Host.Outcome State Fault Refusal := whenReady (skipRow c t) s

/-- HALT (R158). CTRL HALT ends the thread in HALT. -/
def execHalt (c : Nat) (t : Thr) (s : State) : Host.Outcome State Fault Refusal := whenReady (haltRow c t) s

/-- NOP (R158). CTRL NOP does nothing. -/
def execNop (c : Nat) (t : Thr) (s : State) : Host.Outcome State Fault Refusal := whenReady (nopRow c t) s

/-- CNTCLR (R165). SYS CNTCLR clears the core's counters. -/
def execCntclr (c : Nat) (t : Thr) (s : State) : Host.Outcome State Fault Refusal := whenReady (cntclrRow c t) s

/-- TRACE (R165). SYS TRACE writes MARK, the stroke index and TIME to the trace buffer. -/
def execTrace (c : Nat) (t : Thr) (s : State) : Host.Outcome State Fault Refusal := whenReady (traceRow c t) s

/-- SYS_FAULT (R165). SYS FAULT makes the thread fault with USER_FAULT. -/
def execSysFault (c : Nat) (t : Thr) (s : State) : Host.Outcome State Fault Refusal := whenReady (sysFaultRow c t) s

/-- SYS_TIME (R165). SYS TIME writes the 64-bit TIME of its issue cycle to the Plate. -/
def execSysTime (c : Nat) (t : Thr) (s : State) : Host.Outcome State Fault Refusal := whenReady (sysTimeRow c t) s

/-- FLAGCLR (R165). SYS FLAGCLR clears the flags named in MASK. -/
def execFlagclr (c : Nat) (t : Thr) (s : State) : Host.Outcome State Fault Refusal := whenReady (flagclrRow c t) s

/-- TOKEN_CREDIT_MESSAGE (R116). A core's message port accepts one token or credit message and applies it to a
counter. -/
def execTokenCreditMessage (m : Nat) (s : State) : Host.Outcome State Fault Refusal :=
  whenReady (tokenCreditMessage m) s

/-- QUEUE_WORD_MESSAGE (R127). A core's queue port accepts one queue word, reserving an item on a header. -/
def execQueueWordMessage (m : Nat) (s : State) : Host.Outcome State Fault Refusal := whenReady (queueWordMessage m) s

/-- QUEUE_WORD_WRITE (R126). An accepted queue word is written into the ring through the Plate write port, committing
an item at its last word. -/
def execQueueWordWrite (c : Nat) (s : State) : Host.Outcome State Fault Refusal := whenReady (queueWordWrite c) s

end Sys2Proof.Machine
end

