-- ==== Sys2Proof/Machine/ExecPower.lean ====
section
/-! DEFINITION. The meanings of the rows of the clocks, the power management and ageing, one for each row. -/

namespace Sys2Proof.Machine

/-- RAIL_REPORT (R529). Every 10 µs the power report moves G_POWER. -/
def execRailReport (watts : Nat) (aux : Nat) (bus : Nat) (s : State) : Host.Outcome State Fault Refusal :=
  whenReady (railReport watts aux bus) s

/-- SENSOR_READ (R531). Every 100 µs tile temperatures set G_THERM and thermal events. -/
def execSensorRead (junction : List Int) (hbm : List Int) (pulse : Bool) (s : State) : Host.Outcome State Fault Refusal :=
  anyTime (sensorRead junction hbm pulse) s

/-- THERM_ALARM_RELEASE (R531). THERM_ALARM_N is released after 10 ms with every tile below 103 °C. -/
def execThermAlarmRelease (s : State) : Host.Outcome State Fault Refusal := anyTime thermAlarmRelease s

/-- SUPPLY_DROOP (R533). The busbar below 46 V sets G_SUPPLY to 16. -/
def execSupplyDroop (s : State) : Host.Outcome State Fault Refusal := whenReady supplyDroop s

/-- SUPPLY_RECOVER (R533). After 1 ms above 47 V G_SUPPLY returns to 64. -/
def execSupplyRecover (s : State) : Host.Outcome State Fault Refusal := whenReady supplyRecover s

/-- BUSBAR_HIGH (R614). A busbar above 58 V holds G_SUPPLY at 16 until 1 ms at or below 57.5 V. -/
def execBusbarHigh (above : Bool) (s : State) : Host.Outcome State Fault Refusal := whenReady (busbarHigh above) s

/-- CANARY (R535). A failing canary path shuts the gate, raises the rail or lowers ROOT. -/
def execCanary (core : Nat) (hold : Nat) (s : State) : Host.Outcome State Fault Refusal :=
  whenReady (canaryRow core hold) s

/-- SLEW_STEP (R522). During a slew ROOT moves one step every 20 µs. -/
def execSlewStep (s : State) : Host.Outcome State Fault Refusal := whenReady slewStepRow s

/-- ROOT_CAP (R522). Writing ROOT_CAP can start a slew. -/
def execRootCap (w : Writer) (v : Nat) (s : State) : Host.Outcome State Fault Refusal :=
  anyTime (plainRow w 0x2000 1 v) s

/-- POWER_LIMIT (R529). Writing POWER_LIMIT sets the power limit, clamped to the TDP and 3,000 W. -/
def execPowerLimit (w : Writer) (v : Nat) (s : State) : Host.Outcome State Fault Refusal :=
  anyTime (plainRow w 0x2010 0 v) s

/-- MONITOR_READ (R534). Every 1 s the ring oscillators are read. -/
def execMonitorRead (vals : List Nat) (s : State) : Host.Outcome State Fault Refusal := whenReady (monitorRead vals) s

/-- PLAN_NOW (R536). PLAN_NOW re-plans voltage margins. -/
def execPlanNow (w : Writer) (e : Outside) (s : State) : Host.Outcome State Fault Refusal :=
  anyTime (cmdRow w 0x2100 2 0 e) s

/-- AGE_PERIOD (R536). Every AGE_PERIOD_H hours a margin plan is made. -/
def execAgePeriod (need : List (List Nat)) (short : Nat) (s : State) : Host.Outcome State Fault Refusal :=
  whenReady (agePeriod need short) s

/-- MARGIN_APPLIED (R537). A waiting plan takes effect at a proof arm or after 1 s with no active thread. -/
def execMarginApplied (s : State) : Host.Outcome State Fault Refusal := whenReady marginApplied s

end Sys2Proof.Machine
end

