-- ==== Sys2Proof/Machine/ExecProof.lean ====
section
/-! DEFINITION. The meanings of the rows of the proofs and of the registration barrier, one for each row. -/

namespace Sys2Proof.Machine

/-- PROOF_START (R430). PROOF_START arms a proof. -/
def execProofStart (w : Writer) (arg : Nat) (s : State) : Host.Outcome State Fault Refusal :=
  anyTime (cmdRow w 0x9000 2 arg {}) s

/-- PROOF_ABORT (R431). PROOF_ABORT ends a proof. -/
def execProofAbort (w : Writer) (s : State) : Host.Outcome State Fault Refusal := anyTime (cmdRow w 0x9000 3 0 {}) s

/-- RESTORE (R429). RESTORE writes job state from a file-store proof or a counterproof. -/
def execRestore (w : Writer) (arg : Nat) (e : Outside) (s : State) : Host.Outcome State Fault Refusal :=
  anyTime (cmdRow w 0x9000 4 arg e) s

/-- BOUNDARY_CHECK (R418). After the arm the engine checks every snapshot tag against TARGET_STEP. -/
def execBoundaryCheck (s : State) : Host.Outcome State Fault Refusal := whenReady boundaryCheck s

/-- PLATE_NOTE (R420). After copying Plate regions the bulk movers send PLATE_NOTE tokens. -/
def execPlateNote (tile : Nat) (s : State) : Host.Outcome State Fault Refusal := whenReady (plateNote tile) s

/-- PROOF_DRAIN (R420). A bulk mover drains one granule to the sink or the neighbour. -/
def execProofDrain (tile : Nat) (err : Bool) (s : State) : Host.Outcome State Fault Refusal :=
  whenReady (proofDrain tile err) s

/-- PROOF_ACK (R423). A proof acknowledgement write advances the completed sink SEQ, then seals the manifest when all
are done. -/
def execProofAck (v : Nat) (s : State) : Host.Outcome State Fault Refusal := whenReady (proofAck v) s

/-- SINK_TIMEOUT (R424). No acknowledgement progress for SINK_TIMEOUT_MS ends the proof. -/
def execSinkTimeout (s : State) : Host.Outcome State Fault Refusal := whenReady sinkTimeout s

/-- CP_WRITE (R428). A counterproof write from a neighbour is accepted from CP_FROM or rejected. -/
def execCpWrite (s : State) : Host.Outcome State Fault Refusal := whenReady cpWrite s

/-- REG_ARM (R444). REG_ARM arms the registration barrier. -/
def execRegArm (w : Writer) (arg : Nat) (s : State) : Host.Outcome State Fault Refusal :=
  anyTime (cmdRow w 0xC000 1 arg {}) s

/-- REG_READY (R444). A REG_READY from a child is taken and readiness passed up or failed. -/
def execRegReady (port : Nat) (raw : List Byte) (s : State) : Host.Outcome State Fault Refusal :=
  whenReady (regReady port raw) s

/-- REG_WAVE (R445). A REG_WAVE aligns TIME and is forwarded to the children. -/
def execRegWave (port : Nat) (raw : List Byte) (s : State) : Host.Outcome State Fault Refusal :=
  whenReady (regWave port raw) s

/-- REG_RELEASED (R446). When TIME equals RELEASE the device releases and waiting BARRIER strokes issue. -/
def execRegReleased (s : State) : Host.Outcome State Fault Refusal := whenReady regReleased s

/-- REG_TIMEOUT (R444). A device that has not passed readiness within REG_TIMEOUT_MS fails the barrier. -/
def execRegTimeout (s : State) : Host.Outcome State Fault Refusal := whenReady regTimeout s

end Sys2Proof.Machine
end

