-- ==== Sys2Proof/Machine/ExecReset.lean ====
section
/-! DEFINITION. The meanings of the rows of resets, start-up, heartbeats and recovery, one for each row. -/

namespace Sys2Proof.Machine

/-- POWER_ON (R544). The auxiliary rise starts a power-on reset and the start-up sequence. -/
def execPowerOn (s : State) : Host.Outcome State Fault Refusal := anyTime powerOn s

/-- PERST (R544). PERST# of the active port takes a warm reset. -/
def execPerst (level : Bool) (pulse : Bool) (s : State) : Host.Outcome State Fault Refusal :=
  anyTime (perst level pulse) s

/-- RSTIN (R544). RSTIN_N asserted for 1 µs takes a warm reset. -/
def execRstin (level : Bool) (pulse : Bool) (s : State) : Host.Outcome State Fault Refusal :=
  anyTime (rstin level pulse) s

/-- DEVICE_RESET (R547). DEVICE_RESET takes a warm or cold reset 1 ms after its response. -/
def execDeviceReset (w : Writer) (kind : Nat) (pulse : Bool) (s : State) : Host.Outcome State Fault Refusal :=
  anyTime (deviceResetRow w kind pulse) s

/-- SUPPLY_FAULT (R533). A busbar below 44 V for 100 µs or a stage fault takes a cold reset. -/
def execSupplyFault (detail : Nat) (pulse : Bool) (s : State) : Host.Outcome State Fault Refusal :=
  anyTime (supplyFault detail pulse) s

/-- REFCLK_LOSS (R607). REFCLK absent or off by over 1,000 ppm for 10 µs takes a cold reset. -/
def execRefclkLoss (pulse : Bool) (s : State) : Host.Outcome State Fault Refusal := anyTime (refclkLoss pulse) s

/-- SUPPLY_RESTART (R546). After a supply fault the device starts once busbar and REFCLK have been good for 100 ms. -/
def execSupplyRestart (s : State) : Host.Outcome State Fault Refusal := anyTime supplyRestart s

/-- FLASH_PULSE_END (R549). A reset deferred by a flash pulse takes effect when the pulse ends. -/
def execFlashPulseEnd (us : Nat) (s : State) : Host.Outcome State Fault Refusal := anyTime (flashPulseEnd us) s

/-- RESET_RELEASE (R556). A held reset is released after 10 ms or when the reset pins are released. -/
def execResetRelease (s : State) : Host.Outcome State Fault Refusal := anyTime resetRelease s

/-- STARTUP (R555). The device runs its start-up sequence to READY or HALTED. -/
def execStartup (st : Startup) (s : State) : Host.Outcome State Fault Refusal := anyTime (startup st) s

/-- REFCLK_PRESENT (R607). Start-up waiting in step 4 continues when REFCLK appears. -/
def execRefclkPresent (st : Startup) (s : State) : Host.Outcome State Fault Refusal := anyTime (refclkPresent st) s

/-- FW_UPDATE (R560). FW_UPDATE writes and verifies an image in the idle bank. -/
def execFwUpdate (w : Writer) (arg : Nat) (e : Outside) (s : State) : Host.Outcome State Fault Refusal :=
  anyTime (cmdRow w 0xA020 8 arg e) s

/-- FW_SVN_RAISE (R560). FW_SVN_RAISE blows fuses to raise FW_SVN_MIN. -/
def execFwSvnRaise (w : Writer) (v : Nat) (s : State) : Host.Outcome State Fault Refusal :=
  anyTime (cmdRow w 0xA020 9 v {}) s

/-- HEARTBEAT_ADVANCE (R567). Every 5 ms HB_SEQ advances and heartbeats are sent. -/
def execHeartbeatAdvance (s : State) : Host.Outcome State Fault Refusal := whenReady heartbeatAdvance s

/-- HEARTBEAT (R568). A HEARTBEAT flit is checked and refreshes the port's miss count. -/
def execHeartbeat (port : Nat) (raw : List Byte) (s : State) : Host.Outcome State Fault Refusal :=
  whenReady (heartbeat port raw) s

/-- PEER_LOST (R568). A miss count reaching 4 takes the port DOWN with cause 3. -/
def execPeerLost (port : Nat) (s : State) : Host.Outcome State Fault Refusal := whenReady (peerLost port) s

/-- HB_RESET_SEND (R571). Every 100 ms of cause-3 DOWN a device sends HB_RESET, up to 10 times. -/
def execHbResetSend (port : Nat) (s : State) : Host.Outcome State Fault Refusal := whenReady (hbResetSend port) s

/-- HB_RESET (R572). A received HB_RESET with matching BOOT and stalled HB_SEQ takes a warm reset. -/
def execHbReset (port : Nat) (raw : List Byte) (quiet : Bool) (pulse : Bool) (s : State) : Host.Outcome State Fault Refusal :=
  whenReady (hbReset port raw quiet pulse) s

/-- ESCALATE (R572). A write to ESCALATE with matching BOOT and stalled HB_SEQ takes a warm reset. -/
def execEscalate (v : Nat) (quiet : Bool) (pulse : Bool) (s : State) : Host.Outcome State Fault Refusal :=
  anyTime (escalate v quiet pulse) s

/-- STANDBY_HEARTBEAT (R574). After 10 ms without advance the standby CMC advances HB_SEQ itself. -/
def execStandbyHeartbeat (s : State) : Host.Outcome State Fault Refusal := whenReady standbyHeartbeat s

/-- CMC_WATCHDOG (R573). A CMC watchdog bite fails over, resets the device, or reloads the standby. -/
def execCmcWatchdog (standby : Bool) (hung : Option Nat) (es : List Outside) (pulse : Bool) (s : State) : Host.Outcome State Fault Refusal :=
  anyTime (cmcWatchdog standby hung es pulse) s

/-- STANDBY_RESTART (R573). A reset CMC finishes reloading and becomes standby. -/
def execStandbyRestart (s : State) : Host.Outcome State Fault Refusal := anyTime standbyRestart s

/-- UNIT_STALLED (R565). A unit pending without progress for STALL_MS is reported and may be reset. -/
def execUnitStalled (unit : Nat) (s : State) : Host.Outcome State Fault Refusal := whenReady (unitStalled unit) s

/-- ENGINE_RESET (R580). ENGINE_RESET resets one unit after writing its dump. -/
def execEngineReset (w : Writer) (unit : Nat) (s : State) : Host.Outcome State Fault Refusal :=
  anyTime (cmdRow w 0xA030 0 unit {}) s

/-- ENGINE_RESET_COMPLETE (R580). A unit reset completes and its handle ends. -/
def execEngineResetComplete (unit : Nat) (s : State) : Host.Outcome State Fault Refusal :=
  whenReady (engineResetComplete unit) s

/-- CORE_WITHDRAW (R582). CORE_WITHDRAW resets and withdraws a core. -/
def execCoreWithdraw (w : Writer) (core : Nat) (s : State) : Host.Outcome State Fault Refusal :=
  anyTime (cmdRow w 0xA040 1 core {}) s

/-- CORE_TEST (R584). CORE_TEST runs the in-service test on a withdrawn core. -/
def execCoreTest (w : Writer) (core : Nat) (e : Outside) (s : State) : Host.Outcome State Fault Refusal :=
  anyTime (cmdRow w 0xA040 2 core e) s

/-- REINSTATE (R584). REINSTATE returns a tested withdrawn core to service. -/
def execReinstate (w : Writer) (core : Nat) (s : State) : Host.Outcome State Fault Refusal :=
  anyTime (cmdRow w 0xA040 3 core {}) s

/-- AUX_SUPPLY_LOSS (R544). P12V_AUX staying below 10.8 V for 1 ms starts a power-on reset, and the module switches
its 54 V domains off itself. -/
def execAuxSupplyLoss (s : State) : Host.Outcome State Fault Refusal := anyTime auxSupplyLoss s

/-- STANDBY_PERST (R454). PERST# of the standby PCIe port resets only that port's link and configuration state. -/
def execStandbyPerst (s : State) : Host.Outcome State Fault Refusal := anyTime standbyPerst s

/-- NEIGHBOUR_SOLICITATION (R499). A Neighbour Solicitation for the link-local address received on the management port
is answered. -/
def execNeighbourSolicitation (frame fcs : List Byte) (s : State) : Host.Outcome State Fault Refusal :=
  anyTime (neighbourSolicitation (frame ++ fcs)) s

/-- RING_DMA_TIMEOUT (R461). A ring fetch or event write with no completion within 50 ms puts the context in ERROR
with DMA_ERROR. -/
def execRingDmaTimeout (ctx : Nat) (s : State) : Host.Outcome State Fault Refusal := whenReady (ringDmaTimeout ctx) s

end Sys2Proof.Machine
end

