-- ==== Sys2Proof/Machine/ExecTorus.lean ====
section
/-! DEFINITION. The meanings of the rows of the torus, one for each row. -/

namespace Sys2Proof.Machine

/-- DATA_FLIT (R299). A receiving port accepts an in-order DATA flit with good FCRC or discards it. -/
def execDataFlit (port : Nat) (raw : List Byte) (s : State) : Host.Outcome State Fault Refusal :=
  whenReady (dataFlit port raw) s

/-- NULL_FLIT (R298). A NULL flit's ACK and credit return are taken. -/
def execNullFlit (port : Nat) (raw : List Byte) (s : State) : Host.Outcome State Fault Refusal :=
  whenReady (nullFlit port raw) s

/-- FLIT_NAK (R299). A CTRL NAK makes the sender resend from the named SEQ. -/
def execFlitNak (port : Nat) (raw : List Byte) (s : State) : Host.Outcome State Fault Refusal :=
  whenReady (flitNak port raw) s

/-- NAK_REPEAT (R299). A receiver still missing a flit after 4 µs sends a further NAK. -/
def execNakRepeat (port : Nat) (s : State) : Host.Outcome State Fault Refusal := whenReady (nakRepeat port) s

/-- REPLAY_LIMIT (R299). Eight resends of one SEQ or 100 µs without ACK progress takes the port down. -/
def execReplayLimit (port : Nat) (timeout : Bool) (s : State) : Host.Outcome State Fault Refusal :=
  whenReady (replayLimit port timeout) s

/-- FLIT_IDENT (R313). An IDENT flit is checked against this device's site, partition and coordinates. -/
def execFlitIdent (port : Nat) (raw : List Byte) (s : State) : Host.Outcome State Fault Refusal :=
  whenReady (flitIdent port raw) s

/-- FLIT_PROBE (R314). A PROBE flit is answered with an ECHO. -/
def execFlitProbe (port : Nat) (raw : List Byte) (t2 : Nat) (t3 : Nat) (s : State) : Host.Outcome State Fault Refusal :=
  whenReady (flitProbe port raw t2 t3) s

/-- FLIT_ECHO (R314). An ECHO flit gives one hop-delay estimate. -/
def execFlitEcho (port : Nat) (raw : List Byte) (t4 : Nat) (s : State) : Host.Outcome State Fault Refusal :=
  whenReady (flitEchoRow port raw t4) s

/-- LANE_REQ (R311). A LANE_REQ asks to replace a failed lane or narrow the port and is answered. -/
def execLaneReq (port : Nat) (raw : List Byte) (s : State) : Host.Outcome State Fault Refusal :=
  whenReady (laneReq port raw) s

/-- LANE_ACK (R311). A LANE_ACK confirms a lane replacement. -/
def execLaneAck (port : Nat) (raw : List Byte) (s : State) : Host.Outcome State Fault Refusal :=
  whenReady (laneAck port raw) s

/-- LANE_SWITCH (R311). Both sides switch lanes at the named codeword boundary. -/
def execLaneSwitch (port : Nat) (s : State) : Host.Outcome State Fault Refusal := whenReady (laneSwitch port) s

/-- LANE_SER_WINDOW (R311). At each 1 s window a lane whose symbol error ratio exceeds SPARE_SER is requested for
replacement. -/
def execLaneSerWindow (port : Nat) (errs : List Nat) (corr : Nat) (uncorr : Nat) (s : State) : Host.Outcome State Fault Refusal :=
  whenReady (laneSerWindow port errs corr uncorr) s

/-- FLIT_DOWN (R309). A received CTRL DOWN takes the port down. -/
def execFlitDown (port : Nat) (raw : List Byte) (s : State) : Host.Outcome State Fault Refusal :=
  whenReady (flitDown port raw) s

/-- LOSS_OF_SIGNAL (R309). Loss of signal or FEC alignment on active lanes takes the port down or triggers sparing. -/
def execLossOfSignal (port : Nat) (lanes : Nat) (align : Bool) (s : State) : Host.Outcome State Fault Refusal :=
  whenReady (lossOfSignal port lanes align) s

/-- PORT_ENABLE (R309). Writing PORT_ENABLE 0 takes the port down with cause 5, and 1 lets it train. -/
def execPortEnable (w : Writer) (port : Nat) (v : Nat) (s : State) : Host.Outcome State Fault Refusal :=
  anyTime (plainRow w (perUnit 0x4010 6 port) 7 v) s

/-- PORT_RESET (R313). PORT_RESET takes the torus port down and retrains it. -/
def execPortReset (w : Writer) (port : Nat) (s : State) : Host.Outcome State Fault Refusal :=
  anyTime (cmdRow w (perUnit 0x4010 6 port) 8 0 {}) s

/-- TRAIN_ATTEMPT (R310). A torus port starts a training attempt, 1 s after the previous failed one. -/
def execTrainAttempt (port : Nat) (good : Nat) (s : State) : Host.Outcome State Fault Refusal :=
  whenReady (trainAttempt port good) s

/-- TRAIN_COMPLETE (R313). A training attempt ends, bringing the port UP, RESTORED or MISWIRED, or failing. -/
def execTrainComplete (port : Nat) (s : State) : Host.Outcome State Fault Refusal := whenReady (trainComplete port) s

/-- RING_STATUS (R307). A ring status packet records a link as down or up and is forwarded once. -/
def execRingStatus (port : Nat) (s : State) : Host.Outcome State Fault Refusal := whenReady (ringStatusRow port) s

/-- ROUTE_QUIET_EXPIRY (R307). ROUTE_QUIET after its record a device starts routing around or back over the link. -/
def execRouteQuietExpiry (axis : Nat) (link : Nat) (s : State) : Host.Outcome State Fault Refusal :=
  whenReady (routeQuietExpiry axis link) s

/-- ROUTE_RESTORE (R308). ROUTE_RESTORE marks a RESTORED link up for routing. -/
def execRouteRestore (w : Writer) (s : State) : Host.Outcome State Fault Refusal := anyTime (cmdRow w 0x4020 0 0 {}) s

/-- TORUS_PACKET (R301). A packet's SOP flit is received and the packet is delivered or routed onward. -/
def execTorusPacket (port : Nat) (s : State) : Host.Outcome State Fault Refusal := whenReady (torusPacket port) s

end Sys2Proof.Machine
end

