-- ==== Sys2Proof/Machine/ExecVault.lean ====
section
/-! DEFINITION. The meanings of the rows of the key vault and the cipher units, one for each row. -/

namespace Sys2Proof.Machine

/-- KEY_LOAD (R397). KEY_LOAD checks and unwraps a blob into a slot. -/
def execKeyLoad (w : Writer) (blob : List Byte) (s : State) : Host.Outcome State Fault Refusal :=
  anyTime (blobRow w 0x6000 1 blob {}) s

/-- KEY_ERASE (R398). KEY_ERASE erases one slot and aborts operations using it. -/
def execKeyErase (w : Writer) (slot : Nat) (s : State) : Host.Outcome State Fault Refusal :=
  anyTime (cmdRow w 0x6000 2 slot {}) s

/-- ERASE_ALL (R398). ERASE_ALL erases every slot. -/
def execEraseAll (w : Writer) (s : State) : Host.Outcome State Fault Refusal := anyTime (cmdRow w 0x6000 3 0 {}) s

/-- SELFTEST (R410). SELFTEST takes a cipher unit out of service and tests it. -/
def execSelftest (w : Writer) (unit : Nat) (s : State) : Host.Outcome State Fault Refusal :=
  anyTime (cmdRow w 0x6000 0x0D unit {}) s

/-- SELFTEST_COMPLETE (R410). A vault self-test ends, entering SERVICE or ALARMED. -/
def execSelftestComplete (pass : Bool) (s : State) : Host.Outcome State Fault Refusal :=
  anyTime (selftestComplete pass) s

/-- SEAL (R403). A SEAL descriptor encrypts and tags a payload. -/
def execCipherSeal (ctx : Nat) (s : State) : Host.Outcome State Fault Refusal := whenReady (sealRow ctx) s

/-- OPEN (R403). An OPEN descriptor decrypts and checks a payload. -/
def execCipherOpen (ctx : Nat) (s : State) : Host.Outcome State Fault Refusal := whenReady (openRow ctx) s

/-- CIPHER_START (R405). A cipher operation takes a free context and copies its key on the vault bus. -/
def execCipherStart (engine : Nat) (s : State) : Host.Outcome State Fault Refusal := whenReady (cipherStart engine) s

/-- CIPHER_COMPLETE (R406). A cipher operation completes, writing its tag or zero-filling on failure. -/
def execCipherComplete (handle : Nat) (mismatch : Bool) (s : State) : Host.Outcome State Fault Refusal :=
  whenReady (cipherComplete handle mismatch) s

/-- VAULT_ALARM (R409). A glitch, clock or temperature alarm erases every slot and starts a self-test. -/
def execVaultAlarm (cause : Nat) (stays : Bool) (s : State) : Host.Outcome State Fault Refusal :=
  anyTime (vaultAlarm cause stays) s

/-- ALARM_RECHECK (R409). An ALARMED vault rechecks its alarm sources every 100 ms. -/
def execAlarmRecheck (active : List Nat) (s : State) : Host.Outcome State Fault Refusal :=
  anyTime (alarmRecheck active) s

end Sys2Proof.Machine
end

