-- ==== Sys2Proof/Machine/Dispatch.lean ====
section
/-! DEFINITION. Each command and its meaning. -/

namespace Sys2Proof.Machine

def exec (i : Instr) (s : State) : Host.Outcome State Fault Refusal :=
  match i with
  | .mma c u => Sys2Proof.Machine.execMma c u s
  | .mmaScan c u => Sys2Proof.Machine.execMmaScan c u s
  | .cLoad c u => Sys2Proof.Machine.execCLoad c u s
  | .operandsFree c => Sys2Proof.Machine.execOperandsFree c s
  | .drain c u => Sys2Proof.Machine.execDrain c u s
  | .drainDone c => Sys2Proof.Machine.execDrainDone c s
  | .expandDecode c opB u => Sys2Proof.Machine.execExpandDecode c opB u s
  | .add c t => Sys2Proof.Machine.execAdd c t s
  | .sub c t => Sys2Proof.Machine.execSub c t s
  | .mul c t => Sys2Proof.Machine.execMul c t s
  | .fma c t => Sys2Proof.Machine.execFma c t s
  | .max c t => Sys2Proof.Machine.execMax c t s
  | .min c t => Sys2Proof.Machine.execMin c t s
  | .abs c t => Sys2Proof.Machine.execAbs c t s
  | .neg c t => Sys2Proof.Machine.execNeg c t s
  | .cvt c t => Sys2Proof.Machine.execCvt c t s
  | .adds c t => Sys2Proof.Machine.execAdds c t s
  | .muls c t => Sys2Proof.Machine.execMuls c t s
  | .axpy c t => Sys2Proof.Machine.execAxpy c t s
  | .exp2 c t => Sys2Proof.Machine.execExp2 c t s
  | .log2 c t => Sys2Proof.Machine.execLog2 c t s
  | .rcp c t => Sys2Proof.Machine.execRcp c t s
  | .rsqrt c t => Sys2Proof.Machine.execRsqrt c t s
  | .rsum c t => Sys2Proof.Machine.execRsum c t s
  | .rsumsq c t => Sys2Proof.Machine.execRsumsq c t s
  | .ramax c t => Sys2Proof.Machine.execRamax c t s
  | .apadd c t => Sys2Proof.Machine.execApadd c t s
  | .cmpgt c t => Sys2Proof.Machine.execCmpgt c t s
  | .sel c t => Sys2Proof.Machine.execSel c t s
  | .vecStart c u => Sys2Proof.Machine.execVecStart c u s
  | .vecComplete v => Sys2Proof.Machine.execVecComplete v s
  | .adamwUpdate c u => Sys2Proof.Machine.execAdamwUpdate c u s
  | .momentumUpdate c u => Sys2Proof.Machine.execMomentumUpdate c u s
  | .updComplete c => Sys2Proof.Machine.execUpdComplete c s
  | .load c t => Sys2Proof.Machine.execLoad c t s
  | .store c t => Sys2Proof.Machine.execStore c t s
  | .copy c t => Sys2Proof.Machine.execCopy c t s
  | .put c t => Sys2Proof.Machine.execPut c t s
  | .qsend c t => Sys2Proof.Machine.execQsend c t s
  | .qpop c t => Sys2Proof.Machine.execQpop c t s
  | .qflush c t => Sys2Proof.Machine.execQflush c t s
  | .moveStart c t u => Sys2Proof.Machine.execMoveStart c t u s
  | .moveComplete c t remote => Sys2Proof.Machine.execMoveComplete c t remote s
  | .wait c t => Sys2Proof.Machine.execWait c t s
  | .set c t => Sys2Proof.Machine.execSet c t s
  | .send c t => Sys2Proof.Machine.execSend c t s
  | .claim c t => Sys2Proof.Machine.execClaim c t s
  | .fence c t => Sys2Proof.Machine.execFence c t s
  | .syncBarrier c t => Sys2Proof.Machine.execSyncBarrier c t s
  | .claimServe tile => Sys2Proof.Machine.execClaimServe tile s
  | .claimReturn c t => Sys2Proof.Machine.execClaimReturn c t s
  | .loop c t => Sys2Proof.Machine.execLoop c t s
  | .skip c t => Sys2Proof.Machine.execSkip c t s
  | .halt c t => Sys2Proof.Machine.execHalt c t s
  | .nop c t => Sys2Proof.Machine.execNop c t s
  | .allgather c => Sys2Proof.Machine.execAllgather c s
  | .reducescatter c => Sys2Proof.Machine.execReducescatter c s
  | .allreduce c => Sys2Proof.Machine.execAllreduce c s
  | .alltoall c => Sys2Proof.Machine.execAlltoall c s
  | .broadcast c => Sys2Proof.Machine.execBroadcast c s
  | .collBarrier c => Sys2Proof.Machine.execCollBarrier c s
  | .collChunkDone c => Sys2Proof.Machine.execCollChunkDone c s
  | .build c => Sys2Proof.Machine.execBuild c s
  | .encode c => Sys2Proof.Machine.execEncode c s
  | .decode c => Sys2Proof.Machine.execDecode c s
  | .codecOpStart tile e u => Sys2Proof.Machine.execCodecOpStart tile e u s
  | .codecOpComplete tile e => Sys2Proof.Machine.execCodecOpComplete tile e s
  | .cntclr c t => Sys2Proof.Machine.execCntclr c t s
  | .trace c t => Sys2Proof.Machine.execTrace c t s
  | .sysFault c t => Sys2Proof.Machine.execSysFault c t s
  | .sysTime c t => Sys2Proof.Machine.execSysTime c t s
  | .flagclr c t => Sys2Proof.Machine.execFlagclr c t s
  | .tokenCreditMessage m => Sys2Proof.Machine.execTokenCreditMessage m s
  | .queueWordMessage m => Sys2Proof.Machine.execQueueWordMessage m s
  | .queueWordWrite c => Sys2Proof.Machine.execQueueWordWrite c s
  | .tcRequest req act line wr err => Sys2Proof.Machine.execTcRequest req act line wr err s
  | .tcFillComplete line ces ue => Sys2Proof.Machine.execTcFillComplete line ces ue s
  | .retireListWrite => Sys2Proof.Machine.execRetireListWrite s
  | .retireGranule w granule => Sys2Proof.Machine.execRetireGranule w granule s
  | .burnishGranule stack ces ues => Sys2Proof.Machine.execBurnishGranule stack ces ues s
  | .burnishNow w e => Sys2Proof.Machine.execBurnishNow w e s
  | .memCalibration => Sys2Proof.Machine.execMemCalibration s
  | .refresh stack => Sys2Proof.Machine.execRefresh stack s
  | .controllerReady stack ok => Sys2Proof.Machine.execControllerReady stack ok s
  | .cowCopy granule => Sys2Proof.Machine.execCowCopy granule s
  | .cowWriteAdmit => Sys2Proof.Machine.execCowWriteAdmit s
  | .dataFlit port raw => Sys2Proof.Machine.execDataFlit port raw s
  | .nullFlit port raw => Sys2Proof.Machine.execNullFlit port raw s
  | .flitNak port raw => Sys2Proof.Machine.execFlitNak port raw s
  | .nakRepeat port => Sys2Proof.Machine.execNakRepeat port s
  | .replayLimit port timeout => Sys2Proof.Machine.execReplayLimit port timeout s
  | .flitIdent port raw => Sys2Proof.Machine.execFlitIdent port raw s
  | .flitProbe port raw t2 t3 => Sys2Proof.Machine.execFlitProbe port raw t2 t3 s
  | .flitEcho port raw t4 => Sys2Proof.Machine.execFlitEcho port raw t4 s
  | .laneReq port raw => Sys2Proof.Machine.execLaneReq port raw s
  | .laneAck port raw => Sys2Proof.Machine.execLaneAck port raw s
  | .laneSwitch port => Sys2Proof.Machine.execLaneSwitch port s
  | .laneSerWindow port errs corr uncorr => Sys2Proof.Machine.execLaneSerWindow port errs corr uncorr s
  | .flitDown port raw => Sys2Proof.Machine.execFlitDown port raw s
  | .lossOfSignal port lanes align => Sys2Proof.Machine.execLossOfSignal port lanes align s
  | .portEnable w port v => Sys2Proof.Machine.execPortEnable w port v s
  | .portReset w port => Sys2Proof.Machine.execPortReset w port s
  | .trainAttempt port good => Sys2Proof.Machine.execTrainAttempt port good s
  | .trainComplete port => Sys2Proof.Machine.execTrainComplete port s
  | .ringStatus port => Sys2Proof.Machine.execRingStatus port s
  | .routeQuietExpiry axis link => Sys2Proof.Machine.execRouteQuietExpiry axis link s
  | .routeRestore w => Sys2Proof.Machine.execRouteRestore w s
  | .torusPacket port => Sys2Proof.Machine.execTorusPacket port s
  | .groupForm w group => Sys2Proof.Machine.execGroupForm w group s
  | .groupDissolve w group => Sys2Proof.Machine.execGroupDissolve w group s
  | .formTimeout group => Sys2Proof.Machine.execFormTimeout group s
  | .collData core msg => Sys2Proof.Machine.execCollData core msg s
  | .collAnchor core msg => Sys2Proof.Machine.execCollAnchor core msg s
  | .collForm core msg => Sys2Proof.Machine.execCollForm core msg s
  | .suspect core msg => Sys2Proof.Machine.execSuspect core msg s
  | .collProbe core msg => Sys2Proof.Machine.execCollProbe core msg s
  | .reply core msg => Sys2Proof.Machine.execReply core msg s
  | .extend core msg => Sys2Proof.Machine.execExtend core msg s
  | .collCommit core msg => Sys2Proof.Machine.execCollCommit core msg s
  | .abandon core msg => Sys2Proof.Machine.execAbandon core msg s
  | .slow core msg => Sys2Proof.Machine.execSlow core msg s
  | .hold core msg => Sys2Proof.Machine.execHold core msg s
  | .resume core msg => Sys2Proof.Machine.execResume core msg s
  | .commitReq core msg => Sys2Proof.Machine.execCommitReq core msg s
  | .collBarrierPass core msg => Sys2Proof.Machine.execCollBarrierPass core msg s
  | .deadlineExpiry core rank => Sys2Proof.Machine.execDeadlineExpiry core rank s
  | .probeWaitExpiry group => Sys2Proof.Machine.execProbeWaitExpiry group s
  | .suspectRetryExpiry group => Sys2Proof.Machine.execSuspectRetryExpiry group s
  | .slowSend group => Sys2Proof.Machine.execSlowSend group s
  | .holdLimitExpiry group => Sys2Proof.Machine.execHoldLimitExpiry group s
  | .igForm w e => Sys2Proof.Machine.execIgForm w e s
  | .igFormTimeout => Sys2Proof.Machine.execIgFormTimeout s
  | .igJoin w => Sys2Proof.Machine.execIgJoin w s
  | .segment holder => Sys2Proof.Machine.execSegment holder s
  | .roundEnd holder => Sys2Proof.Machine.execRoundEnd holder s
  | .release holder => Sys2Proof.Machine.execRelease holder s
  | .lhEgress port mismatch => Sys2Proof.Machine.execLhEgress port mismatch s
  | .igSeg port frame => Sys2Proof.Machine.execIgSeg port frame s
  | .igEnd port frame => Sys2Proof.Machine.execIgEnd port frame s
  | .igAck port frame => Sys2Proof.Machine.execIgAck port frame s
  | .igNak port frame => Sys2Proof.Machine.execIgNak port frame s
  | .igReport port frame => Sys2Proof.Machine.execIgReport port frame s
  | .igAdmit port frame => Sys2Proof.Machine.execIgAdmit port frame s
  | .igCommit port frame => Sys2Proof.Machine.execIgCommit port frame s
  | .igKeepalive port frame => Sys2Proof.Machine.execIgKeepalive port frame s
  | .igState port frame => Sys2Proof.Machine.execIgState port frame s
  | .join port frame => Sys2Proof.Machine.execJoin port frame s
  | .segmentComplete holder sender round seg => Sys2Proof.Machine.execSegmentComplete holder sender round seg s
  | .stateStreamComplete holder => Sys2Proof.Machine.execStateStreamComplete holder s
  | .nakWaitExpiry holder sender round seg index state => Sys2Proof.Machine.execNakWaitExpiry holder sender round seg index state s
  | .endResend holder sender round part => Sys2Proof.Machine.execEndResend holder sender round part s
  | .reportDeadline holder round => Sys2Proof.Machine.execReportDeadline holder round s
  | .reportResend holder round => Sys2Proof.Machine.execReportResend holder round s
  | .admitWaitExpiry holder round => Sys2Proof.Machine.execAdmitWaitExpiry holder round s
  | .keepaliveSend => Sys2Proof.Machine.execKeepaliveSend s
  | .livenessExpiry holder rank => Sys2Proof.Machine.execLivenessExpiry holder rank s
  | .lhPortDown port => Sys2Proof.Machine.execLhPortDown port s
  | .lhPortUp port => Sys2Proof.Machine.execLhPortUp port s
  | .keyLoad w blob => Sys2Proof.Machine.execKeyLoad w blob s
  | .keyErase w slot => Sys2Proof.Machine.execKeyErase w slot s
  | .eraseAll w => Sys2Proof.Machine.execEraseAll w s
  | .selftest w unit => Sys2Proof.Machine.execSelftest w unit s
  | .selftestComplete pass => Sys2Proof.Machine.execSelftestComplete pass s
  | .cipherSeal ctx => Sys2Proof.Machine.execCipherSeal ctx s
  | .cipherOpen ctx => Sys2Proof.Machine.execCipherOpen ctx s
  | .cipherStart engine => Sys2Proof.Machine.execCipherStart engine s
  | .cipherComplete handle mismatch => Sys2Proof.Machine.execCipherComplete handle mismatch s
  | .vaultAlarm cause stays => Sys2Proof.Machine.execVaultAlarm cause stays s
  | .alarmRecheck active => Sys2Proof.Machine.execAlarmRecheck active s
  | .proofStart w arg => Sys2Proof.Machine.execProofStart w arg s
  | .proofAbort w => Sys2Proof.Machine.execProofAbort w s
  | .restore w arg e => Sys2Proof.Machine.execRestore w arg e s
  | .boundaryCheck => Sys2Proof.Machine.execBoundaryCheck s
  | .plateNote tile => Sys2Proof.Machine.execPlateNote tile s
  | .proofDrain tile err => Sys2Proof.Machine.execProofDrain tile err s
  | .proofAck v => Sys2Proof.Machine.execProofAck v s
  | .sinkTimeout => Sys2Proof.Machine.execSinkTimeout s
  | .cpWrite => Sys2Proof.Machine.execCpWrite s
  | .regArm w arg => Sys2Proof.Machine.execRegArm w arg s
  | .regReady port raw => Sys2Proof.Machine.execRegReady port raw s
  | .regWave port raw => Sys2Proof.Machine.execRegWave port raw s
  | .regReleased => Sys2Proof.Machine.execRegReleased s
  | .regTimeout => Sys2Proof.Machine.execRegTimeout s
  | .pcieFailover link0 link1 => Sys2Proof.Machine.execPcieFailover link0 link1 s
  | .failover w => Sys2Proof.Machine.execFailover w s
  | .functionLevelReset fn => Sys2Proof.Machine.execFunctionLevelReset fn s
  | .cmdDb port ctx v => Sys2Proof.Machine.execCmdDb port ctx v s
  | .evtDb port ctx v => Sys2Proof.Machine.execEvtDb port ctx v s
  | .mboxGo port ctx v req => Sys2Proof.Machine.execMboxGo port ctx v req s
  | .commandFetch entries err => Sys2Proof.Machine.execCommandFetch entries err s
  | .dict ctx e => Sys2Proof.Machine.execDict ctx e s
  | .loadProgram ctx => Sys2Proof.Machine.execLoadProgram ctx s
  | .coreStop ctx => Sys2Proof.Machine.execCoreStop ctx s
  | .coreResume ctx => Sys2Proof.Machine.execCoreResume ctx s
  | .coreRelease ctx => Sys2Proof.Machine.execCoreRelease ctx s
  | .coreFlush ctx => Sys2Proof.Machine.execCoreFlush ctx s
  | .coreReset ctx => Sys2Proof.Machine.execCoreReset ctx s
  | .mapPages ctx => Sys2Proof.Machine.execMapPages ctx s
  | .unmapPages ctx => Sys2Proof.Machine.execUnmapPages ctx s
  | .nopCommand ctx => Sys2Proof.Machine.execNopCommand ctx s
  | .ctxOpen w ctx => Sys2Proof.Machine.execCtxOpen w ctx s
  | .ctxClose w ctx => Sys2Proof.Machine.execCtxClose w ctx s
  | .jobStart w ctx arg => Sys2Proof.Machine.execJobStart w ctx arg s
  | .jobEnd w ctx => Sys2Proof.Machine.execJobEnd w ctx s
  | .handleSweep w ctx => Sys2Proof.Machine.execHandleSweep w ctx s
  | .handleRecord prin ctx => Sys2Proof.Machine.execHandleRecord prin ctx s
  | .msixModeration ctx => Sys2Proof.Machine.execMsixModeration ctx s
  | .bar2Read port fn off len => Sys2Proof.Machine.execBar2Read port fn off len s
  | .bar2Write port fn off data => Sys2Proof.Machine.execBar2Write port fn off data s
  | .bar2Base w fn v => Sys2Proof.Machine.execBar2Base w fn v s
  | .wdpFrame torus port frame fcs => Sys2Proof.Machine.execWdpFrame torus port frame fcs s
  | .wdpRead => Sys2Proof.Machine.execWdpRead s
  | .wdpWrite es => Sys2Proof.Machine.execWdpWrite es s
  | .wdpResponse => Sys2Proof.Machine.execWdpResponse s
  | .remoteRetry => Sys2Proof.Machine.execRemoteRetry s
  | .registerWrite w idx sub off data => Sys2Proof.Machine.execRegisterWrite w idx sub off data s
  | .commit w => Sys2Proof.Machine.execCommit w s
  | .discard w v => Sys2Proof.Machine.execDiscard w v s
  | .keyPromote w => Sys2Proof.Machine.execKeyPromote w s
  | .mgmtHandleRecord => Sys2Proof.Machine.execMgmtHandleRecord s
  | .claimSet w arg => Sys2Proof.Machine.execClaimSet w arg s
  | .stateCheck w => Sys2Proof.Machine.execStateCheck w s
  | .counterClear w core => Sys2Proof.Machine.execCounterClear w core s
  | .updClear w core => Sys2Proof.Machine.execUpdClear w core s
  | .discoveryReply => Sys2Proof.Machine.execDiscoveryReply s
  | .plcaFallback => Sys2Proof.Machine.execPlcaFallback s
  | .plcaRestored => Sys2Proof.Machine.execPlcaRestored s
  | .freeze w v => Sys2Proof.Machine.execFreeze w v s
  | .arbStuck arb req unit => Sys2Proof.Machine.execArbStuck arb req unit s
  | .railReport watts aux bus => Sys2Proof.Machine.execRailReport watts aux bus s
  | .sensorRead junction hbm pulse => Sys2Proof.Machine.execSensorRead junction hbm pulse s
  | .thermAlarmRelease => Sys2Proof.Machine.execThermAlarmRelease s
  | .supplyDroop => Sys2Proof.Machine.execSupplyDroop s
  | .supplyRecover => Sys2Proof.Machine.execSupplyRecover s
  | .busbarHigh above => Sys2Proof.Machine.execBusbarHigh above s
  | .canary core hold => Sys2Proof.Machine.execCanary core hold s
  | .slewStep => Sys2Proof.Machine.execSlewStep s
  | .rootCap w v => Sys2Proof.Machine.execRootCap w v s
  | .powerLimit w v => Sys2Proof.Machine.execPowerLimit w v s
  | .monitorRead vals => Sys2Proof.Machine.execMonitorRead vals s
  | .planNow w e => Sys2Proof.Machine.execPlanNow w e s
  | .agePeriod need short => Sys2Proof.Machine.execAgePeriod need short s
  | .marginApplied => Sys2Proof.Machine.execMarginApplied s
  | .powerOn => Sys2Proof.Machine.execPowerOn s
  | .perst level pulse => Sys2Proof.Machine.execPerst level pulse s
  | .rstin level pulse => Sys2Proof.Machine.execRstin level pulse s
  | .deviceReset w kind pulse => Sys2Proof.Machine.execDeviceReset w kind pulse s
  | .supplyFault detail pulse => Sys2Proof.Machine.execSupplyFault detail pulse s
  | .refclkLoss pulse => Sys2Proof.Machine.execRefclkLoss pulse s
  | .supplyRestart => Sys2Proof.Machine.execSupplyRestart s
  | .flashPulseEnd us => Sys2Proof.Machine.execFlashPulseEnd us s
  | .resetRelease => Sys2Proof.Machine.execResetRelease s
  | .startup st => Sys2Proof.Machine.execStartup st s
  | .refclkPresent st => Sys2Proof.Machine.execRefclkPresent st s
  | .fwUpdate w arg e => Sys2Proof.Machine.execFwUpdate w arg e s
  | .fwSvnRaise w v => Sys2Proof.Machine.execFwSvnRaise w v s
  | .heartbeatAdvance => Sys2Proof.Machine.execHeartbeatAdvance s
  | .heartbeat port raw => Sys2Proof.Machine.execHeartbeat port raw s
  | .peerLost port => Sys2Proof.Machine.execPeerLost port s
  | .hbResetSend port => Sys2Proof.Machine.execHbResetSend port s
  | .hbReset port raw quiet pulse => Sys2Proof.Machine.execHbReset port raw quiet pulse s
  | .escalate v quiet pulse => Sys2Proof.Machine.execEscalate v quiet pulse s
  | .standbyHeartbeat => Sys2Proof.Machine.execStandbyHeartbeat s
  | .cmcWatchdog standby hung es pulse => Sys2Proof.Machine.execCmcWatchdog standby hung es pulse s
  | .standbyRestart => Sys2Proof.Machine.execStandbyRestart s
  | .unitStalled unit => Sys2Proof.Machine.execUnitStalled unit s
  | .engineReset w unit => Sys2Proof.Machine.execEngineReset w unit s
  | .engineResetComplete unit => Sys2Proof.Machine.execEngineResetComplete unit s
  | .coreWithdraw w core => Sys2Proof.Machine.execCoreWithdraw w core s
  | .coreTest w core e => Sys2Proof.Machine.execCoreTest w core e s
  | .reinstate w core => Sys2Proof.Machine.execReinstate w core s
  | .auxSupplyLoss => Sys2Proof.Machine.execAuxSupplyLoss s
  | .standbyPerst => Sys2Proof.Machine.execStandbyPerst s
  | .neighbourSolicitation frame fcs => Sys2Proof.Machine.execNeighbourSolicitation frame fcs s
  | .ringDmaTimeout ctx => Sys2Proof.Machine.execRingDmaTimeout ctx s

end Sys2Proof.Machine
end

