-- ==== Sys2Proof/Machine/Step.lean ====
section
/-! DEFINITION. The step: the oldest waiting command, or a cycle of the block's own. -/

namespace Sys2Proof.Machine

/-- One step: the command at the front of the queue, with the queue's rest; with an empty queue a cycle passes (log
entry 2). -/
def step (s : State) : Host.Outcome State Fault Refusal :=
  match s.pending with
  | [] => .next { s with dev := tick s.fuses s.dev }
  | c :: rest => exec c { s with pending := rest }

/-- The state with the command a word spells at the front of the queue. -/
def State.withFetchWord (s : State) (nbits w : Nat) : State :=
  match decodeTableWord nbits w with
  | some c => { s with pending := c :: s.pending }
  | none => s

end Sys2Proof.Machine
end

