-- ==== Sys2Proof/Safety.lean ====
section
/-! DEFINITION. A safe step and a safe run: the block answers a next state every time; and a block that owes nothing of its own. -/

namespace Sys2Proof.Machine

/-- The step answers a next state. -/
def Safe (s : State) : Prop := ∃ t, step s = .next t

/-- Every one of the next `n` steps answers a next state. -/
def SafeRun : Nat → State → Prop
  | 0, _ => True
  | n + 1, s => ∃ t, step s = .next t ∧ SafeRun n t

/-- The device memory owes nothing: no request waits at a bank, and no fill for its controller's port. -/
def quietMem (m : ExtMem) : Bool := m.banks.all (fun p => p.2.isEmpty) && m.fills.all (fun p => p.2.all TcFill.granted)

/-- The host interface owes nothing: no access, frame, load, commit, close or update waits. -/
def quietHost (h : HostIf) : Bool :=
  h.heldIn.isEmpty && h.sealing.isEmpty && h.relays.isEmpty && h.loads.isEmpty && h.fws.isEmpty && h.bar2.isEmpty &&
    h.commits.isEmpty && h.closes.isEmpty

/-- The watches owe nothing: no stop, no stalled unit, no heartbeat. -/
def quietRecov (r : Recov) : Bool :=
  r.stops.isEmpty && r.stalled.isEmpty && decide (r.failing = 0) && r.beatDue.isNone && r.beatsIn.isEmpty

/-- The proofs owe nothing: no command waits, nothing is restored, and no session is SEALING. -/
def quietProof (p : Proof) : Bool := p.waits.isEmpty && p.restores.isEmpty && decide (p.state ≠ 4)

/-- The Intaglio engines owe nothing: no group forms, no holder is in one, and no frame waits. -/
def quietIg (d : Dev) : Bool :=
  d.igForm.isNone && d.holders.all (fun p => p.2.state == .unformed) && d.lh.all (fun p => p.2.held.isEmpty)

/-- The tiles owe nothing: no collective packet is on the mesh or has a step due, no core has faulted of late, and no
response of the counterproof region waits. -/
def quietTiles (d : Dev) : Bool :=
  d.mesh.all (fun m => match m.body with | .coll _ _ => false | _ => true) &&
    d.cores.all (fun p => match p.2.coll with | some r => r.due == .nothing | none => true) &&
    d.coreFaults.isEmpty && d.inbox.all (fun q => !(q.2.kind == 4 && q.2.act == 2))

/-- The contexts owe nothing: no mapping is being removed, and no NOTIFY frame is due. -/
def quietCtxs (d : Dev) : Bool :=
  d.ctxs.all (fun p => p.2.maps.all (fun m => m.going.isNone)) && d.handles.all (fun p => !p.2.owesNotify)

/-- The block owes nothing of its own: what it does by itself when a command has had its effect changes nothing. -/
def quiet (d : Dev) : Bool :=
  quietMem d.mem && quietHost d.host && quietRecov d.recov && quietProof d.proof && quietIg d && quietTiles d && quietCtxs d &&
    d.vault.waits.isEmpty

end Sys2Proof.Machine
end

