-- ==== Sys2Proof/Certificates/Slice0/Obligations.lean ====
section
/-! DEFINITION. The statements for the provers, and the few words they share. -/

open Sys2Proof Sys2Proof.Machine

namespace Sys2Proof.Stmt

/-- The device is READY. -/
abbrev calm (s : State) : Prop := ready s.dev = true

/-- The state in which a command whose effect leaves `d` ends: the fuses and the queue as they were, and the device after what the
block then does by itself. -/
def after (s : State) (d : Dev) : State := { s with dev := finish s.fuses d }

/-- The command answers a next state: its effect leaves a device that is as `P` says, and where that device owes nothing of its
own it is the next state's. -/
abbrev Leads (i : Instr) (s : State) (P : Dev → Prop) : Prop :=
  ∃ d, exec i s = .next (after s d) ∧ P d ∧ (quiet d = true → exec i s = .next { s with dev := d })

/-- The thread's next stroke. -/
def word (s : State) (c : Nat) (t : Thr) : Nat := (s.dev.core c).word ((s.dev.core c).th t).pc

/-- The thread of a READY device has come to a stroke that `sel` knows, it was checked since the last UNMAP, and its waits
hold. -/
abbrev mayIssue (s : State) (c : Nat) (t : Thr) (sel : Nat → Bool) : Prop :=
  calm s ∧ strokeHere s.dev c t sel = true ∧ ((s.dev.core c).th t).recheck = false ∧
    waitsHold (s.dev.core c) (word s c t) = true

/-- ISSUE_F or ISSUE_B of a core. -/
def issueCount (d : Dev) (c : Nat) (t : Thr) : Nat := ctr d (cIdx c) (match t with | .F => 0x1B | .B => 0x1C)

/-- What no stroke of core `c` touches when it issues: device memory, the other cores, the claim counters. -/
abbrev apart (c : Nat) (d d' : Dev) : Prop :=
  d'.mem = d.mem ∧ d'.claims = d.claims ∧ ∀ c', c' ≠ c → d'.core c' = d.core c'

/-- The stroke at the thread's index has issued (R115, R123, R134, R159): control has passed on from the stroke at `e` to `nx`
or to the start of a loop that ends at `e`, the stroke is counted, and what lies apart is untouched. -/
abbrev issued (s : State) (c : Nat) (t : Thr) (e nx : Nat) (d' : Dev) : Prop :=
  ((d'.core c).th t).pc = (advanceThread ((s.dev.core c).th t) e nx).pc ∧
    issueCount d' c t = satAdd (2 ^ 64 - 1) (issueCount s.dev c t) 1 ∧ apart c s.dev d'

/-- The waits of the stroke have been consumed (R115). -/
abbrev consumed (s : State) (c : Nat) (t : Thr) (d' : Dev) : Prop :=
  (d'.core c).tokens = (consume (s.dev.core c) (word s c t)).tokens ∧
    (d'.core c).credits = (consume (s.dev.core c) (word s c t)).credits

/-- Index of the thread's next stroke. -/
def at_ (s : State) (c : Nat) (t : Thr) : Nat := ((s.dev.core c).th t).pc

end Sys2Proof.Stmt

open Sys2Proof.Stmt

/-! ## The block -/

/-- A step with a command in front is that command's meaning on the state with the queue's rest. -/
def Obligations.StepRunsFront : Prop :=
  ∀ (c : Instr) (rest : List Instr) (s : State), step { s with pending := c :: rest } = exec c { s with pending := rest }

/-- With an empty queue a cycle passes: in a device that is not in reset, and that no thermal trip is about to put there, TIME counts
it, and device memory and the Plates are as they were before what the block does by itself (R442; that a step is a cycle is the
model's choice, log entry 2). -/
def Obligations.EmptyQueueIsACycle : Prop :=
  ∀ s : State, s.pending = [] → s.dev.rst.cur = none → s.dev.power.trip = none →
    ∃ d, step s = .next (after s d) ∧ d.time = (s.dev.time + 1) % 2 ^ 64 ∧ d.cyc = s.dev.cyc + 1 ∧ d.mem = s.dev.mem ∧
      (∀ c, (d.core c).plate = (s.dev.core c).plate) ∧ (quiet d = true → step s = .next { s with dev := d })

/-! ## Number formats (chapter 03) -/

/-- Aligning an AP (R61): to a larger anchor its magnitude is shifted right by the distance d under its sign, to 0 where d is 128 or
more, and TRUNC is set when a nonzero bit is lost; to an anchor that is not larger it stays as it is. -/
def Obligations.AlignmentTruncatesTowardZero : Prop :=
  (∀ (a : AP) (e2 : Int), e2 ≤ a.e → a.align e2 = a) ∧
  (∀ (a : AP) (e2 : Int), a.e < e2 → -(2 ^ 127) ≤ a.w → a.w < 2 ^ 127 →
      let d := (e2 - a.e).toNat
      a.align e2 = { a with w := if d ≥ 128 then 0 else a.w.sign * ((a.w.natAbs >>> d : Nat) : Int), e := e2, trunc := a.trunc || decide (¬ (2 ^ d ∣ a.w.natAbs)) })

/-- The floating-point formats (R48). -/
def Sys2Proof.Stmt.floats : List Fmt := [.f32, .f16, .b16, .f8e5, .f8e4, .f6e3, .f6e2, .f4]

/-- The sign of a zero result (R71), in every floating-point format, under every rounding code and noise value: a value that
rounds to zero keeps its sign; a zero read from a format keeps its sign in every other; a zero AP becomes +0; and what is written
as a NaN has the sign bit 0. -/
def Obligations.SignsOfZeroResults : Prop :=
  (∀ (f : Fmt) (rc : RC) (n16 m : Nat) (neg : Bool) (e : Int), f ∈ floats →
      (toFloat f rc n16 (.fin neg m e)).1 % f.signBit = 0 → (toFloat f rc n16 (.fin neg m e)).1 = withSign f neg 0) ∧
  (∀ (f g : Fmt) (rc : RC) (n16 : Nat) (neg : Bool), f ∈ floats → g ∈ floats →
      (toFloat g rc n16 (decodeFloat f (withSign f neg 0))).1 = withSign g neg 0) ∧
  (∀ (f : Fmt) (rc : RC) (n16 : Nat) (a : AP), f ∈ floats → a.isFinite = true → a.w = 0 → (toFloat f rc n16 a.toNum).1 = 0) ∧
  (∀ (f : Fmt) (rc : RC) (n16 : Nat) (x : Sys2Proof.Machine.Num), f ∈ floats → decodeFloat f (toFloat f rc n16 x).1 = .nan →
      (toFloat f rc n16 x).1 < f.signBit)

/-! ## Strokes (R115, R123, R134, R159) -/

/-- The VEC functions with the commands that stand for their issue (R146). -/
def Sys2Proof.Stmt.vecRows : List (Nat × (Nat → Thr → Instr)) :=
  [(0, .add), (1, .sub), (2, .mul), (3, .fma), (4, .max), (5, .min), (6, .abs), (7, .neg), (8, .cvt), (9, .adds), (0x0A, .muls),
   (0x0B, .axpy), (0x10, .exp2), (0x11, .log2), (0x12, .rcp), (0x13, .rsqrt), (0x18, .rsum), (0x19, .rsumsq), (0x1A, .ramax),
   (0x1B, .apadd), (0x20, .cmpgt), (0x21, .sel)]

/-- VEC strokes (R123, R124, R146, R169, R179, R180, R527): one that is ready, in an open gate, with room in the unit and no
contest, issues and joins the unit's queue as its youngest; the oldest accepted one takes the unit's cycles, and the one before it
goes on to its tail; a stroke of the tail that can end before those older than it, the oldest always, completes: its bytes are in
the Plate. -/
def Obligations.VecStrokesRun : Prop :=
  (∀ p ∈ vecRows, ∀ (c : Nat) (t : Thr) (s : State),
      mayIssue s c t (fun w => skClass w == 1 && skOp w == 0 && bits w 125 120 == p.1) →
      gateOpen s.dev (s.fuses.tileOf c) = true → (s.dev.core c).vec.accepts = true →
      vecContest (s.dev.core c) t = false → (mkVecOp (s.dev.core c) t (word s c t)).len ≠ 0 →
      Leads (p.2 c t) s (fun d' =>
        issued s c t (at_ s c t) (at_ s c t + 1) d' ∧ consumed s c t d' ∧
          (d'.core c).vec.queue = (s.dev.core c).vec.queue ++ [mkVecOp (s.dev.core c) t (word s c t)] ∧
          (d'.core c).vec.cur = (s.dev.core c).vec.cur ∧ (d'.core c).plate = (s.dev.core c).plate)) ∧
  (∀ (c : Nat) (s : State) (o : VecOp) (rest : List VecOp), calm s → (s.dev.core c).vec.queue = o :: rest →
      (s.dev.core c).badIn o.reads = none →
      Leads (.vecStart c {}) s (fun d' =>
        (d'.core c).vec.queue = rest ∧ (d'.core c).vec.cur.map VecRun.op = some o ∧
          (d'.core c).vec.tail = (s.dev.core c).vec.tail ++ (s.dev.core c).vec.cur.toList ∧
          (d'.core c).plate = (s.dev.core c).plate ∧ apart c s.dev d')) ∧
  (∀ (c : Nat) (s : State) (r : VecRun) (rest : List VecRun), (s.dev.core c).vec.tail = r :: rest →
      mayComplete ((s.dev.core c).vec.tail ++ (s.dev.core c).vec.cur.toList) 0 = true) ∧
  (∀ (c i : Nat) (s : State) (r : VecRun), calm s → (s.dev.core c).vec.tail[i]? = some r → r.op.sig = none →
      mayComplete ((s.dev.core c).vec.tail ++ (s.dev.core c).vec.cur.toList) i = true →
      Leads (.vecComplete ⟨c, i⟩) s (fun d' =>
        (d'.core c).vec.tail = (s.dev.core c).vec.tail.eraseIdx i ∧ (d'.core c).plate = ((s.dev.core c).patches r.patches).plate ∧
          (d'.core c).tokens = (s.dev.core c).tokens ∧ apart c s.dev d'))

/-- MMA strokes (R83 to R87, R94 to R96, R130, R252): one that meets the conditions of R84 issues and feeds its K-steps; the scan
of its chunk, the load of C and the decoding of a coded operand prepare it; once its operands have been read the chunk is in its set
and its signal is sent; the set drains, and the drain's end leaves the bytes in the Plate and the set at the zero AP. -/
def Obligations.MmaStrokesRun : Prop :=
  (∀ (c : Nat) (s : State), mayIssue s c .F (fun w => skClass w == 0 && skOp w == 0) →
      gateOpen s.dev (s.fuses.tileOf c) = true →
      let o := mkMma (s.dev.core c) (word s c .F)
      mmaReady (s.dev.core c) o = true → o.empty = false → (s.dev.core c).badIn o.feedRegions = none →
      Leads (.mma c {}) s (fun d' =>
        issued s c .F (at_ s c .F) (at_ s c .F + 1) d' ∧ consumed s c .F d' ∧
          (∃ r, (d'.core c).mma.feed = some r ∧ r.op = o ∧ r.expA = (s.dev.core c).mma.expA ∧ r.expB = (s.dev.core c).mma.expB ∧
            r.ea = (((s.dev.core c).mma.scan.map ScanRec.ea).getD []) ∧ r.eb = (((s.dev.core c).mma.scan.map ScanRec.eb).getD [])) ∧
          (d'.core c).mma.scan = none ∧ (d'.core c).mma.expA = none ∧ (d'.core c).mma.expB = none ∧
          (d'.core c).mma.waiting = (s.dev.core c).mma.waiting ++ (if o.last then [{ o.drain with feeding := true }] else []) ∧
          (d'.core c).mma.acc0 = (s.dev.core c).mma.acc0 ∧ (d'.core c).mma.acc1 = (s.dev.core c).mma.acc1 ∧
          (d'.core c).plate = (s.dev.core c).plate)) ∧
  (∀ (c : Nat) (s : State) (o : MmaOp), calm s → nextMma s.dev c = some o → o.empty = false → o.kc ≠ 0 →
      (s.dev.core c).mma.scan = none → (s.dev.core c).badIn o.scanRegions = none →
      Leads (.mmaScan c {}) s (fun d' =>
        (d'.core c).mma.scan = some { stroke := o.stroke
                                      ea := scanLanes (plateView s.dev c .feeder) o.af o.kc o.a o.as_
                                      eb := scanLanes (plateView s.dev c .feeder) o.bf o.kc o.b o.bs } ∧ apart c s.dev d')) ∧
  (∀ (c : Nat) (s : State) (o : MmaOp), calm s → nextMma s.dev c = some o → o.empty = false → o.kc = 0 → o.init = 1 →
      (s.dev.core c).mma.scan = none → (s.dev.core c).mma.waiting = [] → (s.dev.core c).mma.draining = none →
      (s.dev.core c).mma.feedsInto o.set = false → (s.dev.core c).badIn [(o.c, o.m * fmtBytes o.cf 128)] = none →
      Leads (.cLoad c {}) s (fun d' =>
        (d'.core c).mma.acc o.set = loadCells (plateView s.dev c .feeder) o ((s.dev.core c).mma.acc o.set) ∧
          ((d'.core c).mma.scan.map ScanRec.cDone) = some true ∧ apart c s.dev d')) ∧
  (∀ (c : Nat) (opB : Bool) (s : State) (o : MmaOp) (r : Expanded), calm s → nextMma s.dev c = some o → o.empty = false →
      o.kc ≠ 0 → (if opB then o.bcomp else o.acomp) = true →
      (if opB then (s.dev.core c).mma.expB else (s.dev.core c).mma.expA) = none →
      (let x := if opB then o.bf else o.af
       let a := if opB then o.b else o.a
       let n := o.kc * fmtBytes x 128 / 4096
       expandChunk (readBook s.fuses s.dev ((ctxOf s.dev c).getD 4096))
         (fun o' l => ((s.dev.core c).badWord (a + o') l).isSome) (expandPlane s.fuses s.dev c a n) n = r) →
      r.stop = none →
      (∀ b, r.book = some b → entryReady s.fuses s.dev { tile := s.fuses.tileOf c, act := 0, stamp := s.dev.stampNow }
        ((ctxOf s.dev c).getD 4096) b = true) →
      Leads (.expandDecode c opB {}) s (fun d' =>
        (if opB then (d'.core c).mma.expB else (d'.core c).mma.expA) = some r.bytes ∧
          ctr d' (0xB100 + c) 0 = satAdd (2 ^ 64 - 1) (ctr s.dev (0xB100 + c) 0) (r.bytes.length / 4096) ∧
          (d'.core c).plate = (s.dev.core c).plate)) ∧
  (∀ (c : Nat) (s : State) (r : FeedRec), calm s → (s.dev.core c).mma.feed = some r → r.op.sig = none →
      Leads (.operandsFree c) s (fun d' =>
        (d'.core c).mma.feed = none ∧
          (d'.core c).mma.acc r.op.set = mmaCells (feedView s.dev c r) r ((s.dev.core c).mma.acc r.op.set) ∧
          (d'.core c).mma.waiting = (s.dev.core c).mma.waiting.map (fun x =>
            if x.stroke = r.op.stroke ∧ x.set = r.op.set then { x with feeding := false } else x) ∧ apart c s.dev d')) ∧
  (∀ (c : Nat) (s : State) (r : DrainRec) (rest : List DrainRec), calm s → (s.dev.core c).mma.draining = none →
      (s.dev.core c).mma.waiting = r :: rest → r.feeding = false → (s.dev.core c).mma.poisoned r.set = false →
      Leads (.drain c {}) s (fun d' =>
        (d'.core c).mma.waiting = rest ∧
          (d'.core c).mma.draining = some (r, (drainAll s.fuses s.dev ((s.dev.core c).mma.acc r.set) r).1) ∧
          (d'.core c).plate = (s.dev.core c).plate ∧ apart c s.dev d')) ∧
  (∀ (c : Nat) (s : State) (r : DrainRec) (ps : List Patch), calm s → (s.dev.core c).mma.draining = some (r, ps) →
      (s.dev.core c).mma.poisoned r.set = false → r.dsig = none →
      Leads (.drainDone c) s (fun d' =>
        (d'.core c).mma.draining = none ∧ (d'.core c).mma.acc r.set = [] ∧
          (d'.core c).plate = ((s.dev.core c).patches ps).plate ∧ apart c s.dev d'))

/-- A UPD stroke in an open gate with the datapath free issues and takes the datapath (R149, R168); its end writes its stripes
to the Plate and frees the datapath (R285). -/
def Obligations.UpdStrokeRuns : Prop :=
  (∀ p ∈ ([(0, .adamwUpdate), (1, .momentumUpdate)] : List (Nat × (Nat → Upset → Instr))), ∀ (c : Nat) (s : State),
      mayIssue s c .F (fun w => skClass w == 2 && skOp w == p.1) → gateOpen s.dev (s.fuses.tileOf c) = true →
      (s.dev.core c).upd = none →
      Leads (p.2 c {}) s (fun d' =>
        issued s c .F (at_ s c .F) (at_ s c .F + 1) d' ∧ (d'.core c).upd.map UpdRun.stroke = some (at_ s c .F) ∧
          (d'.core c).updSpan = some (mkUpd (s.dev.core c) (word s c .F)).span ∧ (d'.core c).plate = (s.dev.core c).plate)) ∧
  (∀ (c : Nat) (s : State) (r : UpdRun), calm s → (s.dev.core c).upd = some r → r.sig = none →
      Leads (.updComplete c) s (fun d' =>
        (d'.core c).upd = none ∧ (d'.core c).plate = ((s.dev.core c).patches r.patches).plate ∧ apart c s.dev d'))

/-- The MOVE operations with the commands that stand for their issue (R152). -/
def Sys2Proof.Stmt.moveRows : List (Nat × (Nat → Thr → Instr)) :=
  [(0, .load), (1, .store), (2, .copy), (3, .put), (4, .qsend), (5, .qpop), (6, .qflush)]

/-- MOVE strokes (R105, R152, R155, R325, R617): one whose channel holds fewer than four issues and joins its thread's channel as
the youngest; a channel runs its oldest stroke; a LOAD reads device memory through the context's page tables, a STORE or COPY the
Plate; the end of a LOAD or COPY writes the Plate at DST. -/
def Obligations.MoveStrokesRun : Prop :=
  (∀ p ∈ moveRows, ∀ (c : Nat) (t : Thr) (s : State), mayIssue s c t (fun w => skClass w == 3 && skOp w == p.1) →
      ((s.dev.core c).mov t).length < 4 → (t = .B → (s.dev.core c).coll = none) →
      ((mkMove s.fuses s.dev (s.dev.core c) t (word s c t)).empty = false ∨ (s.dev.core c).mov t ≠ []) →
      Leads (p.2 c t) s (fun d' =>
        issued s c t (at_ s c t) (at_ s c t + 1) d' ∧ consumed s c t d' ∧
          (d'.core c).mov t = (s.dev.core c).mov t ++ [mkMove s.fuses s.dev (s.dev.core c) t (word s c t)] ∧
          (d'.core c).plate = (s.dev.core c).plate)) ∧
  (∀ (c : Nat) (t : Thr) (s : State) (m : MoveOp) (rest : List MoveOp) (rs : List (Nat × Nat)), calm s →
      (s.dev.core c).mov t = m :: rest → m.started = false → m.op = 0 → m.len ≠ 0 →
      heldRuns s.dev ((ctxOf s.dev c).getD 4096) false m.src m.len = some rs →
      rs.all (runReady s.fuses s.dev (moveWho s.fuses c m)) = true →
      Leads (.moveStart c t {}) s (fun d' =>
        ∃ m', (d'.core c).mov t = m' :: rest ∧ m'.started = true ∧ m'.data = runBytes s.dev rs ∧ m'.dst = m.dst)) ∧
  (∀ (c : Nat) (t : Thr) (s : State) (m : MoveOp) (rest : List MoveOp), calm s → (s.dev.core c).mov t = m :: rest →
      m.started = false → (m.op = 1 ∨ m.op = 2) → m.len ≠ 0 → m.tgt = none → (s.dev.core c).badWord m.src m.len = none →
      Leads (.moveStart c t {}) s (fun d' =>
        ∃ m', (d'.core c).mov t = m' :: rest ∧ m'.started = true ∧ m'.data = (moveSource s.dev c t m).1 ∧ apart c s.dev d')) ∧
  (∀ (c : Nat) (t : Thr) (s : State) (m : MoveOp) (rest : List MoveOp), calm s → (s.dev.core c).mov t = m :: rest →
      m.started = true → (m.op = 0 ∨ m.op = 2) → m.ue = none → m.tgt = none → m.sig = none → m.awaiting = 0 → m.result = 0 →
      Leads (.moveComplete c t 0) s (fun d' =>
        (d'.core c).mov t = rest ∧ (d'.core c).plate = writeBytes (s.dev.core c).plate m.dst m.data ∧ apart c s.dev d'))

/-- A claim (R157, R195, R197, R200): the stroke holds its thread and goes to the tile of its counter; the oldest claim of a
tile on a counter without a group takes the counter's value and adds to it, saturating; and the value that comes back goes to
LC[LEVEL] when it is below LIMIT, and otherwise sets CLAIM_OUT. -/
def Obligations.ClaimIsAFetchAndAdd : Prop :=
  (∀ (c : Nat) (t : Thr) (s : State), mayIssue s c t (isSync 3) →
      let p := claimPhys s.fuses s.dev ((ctxOf s.dev c).getD 4096) (bits (word s c t) 79 64)
      Leads (.claim c t) s (fun d' =>
        ((d'.core c).th t).claiming = true ∧ ((d'.core c).th t).pc = at_ s c t ∧ apart c s.dev d' ∧
          SMap.get [] d'.claimQ (p % 16) = SMap.get [] s.dev.claimQ (p % 16) ++
            [{ core := c, th := t, ctr := p, add := bits (word s c t) 95 80, limit := bits (word s c t) 121 98 }])) ∧
  (∀ (tile : Nat) (s : State) (r : ClaimReq) (rest : List ClaimReq), calm s → SMap.get [] s.dev.claimQ tile = r :: rest →
      (SMap.get {} s.dev.claims r.ctr).group = none → s.dev.proof.state ≠ 1 → r.lost = false →
      Leads (.claimServe tile) s (fun d' =>
        (SMap.get {} d'.claims r.ctr).value = satAdd (2 ^ 64 - 1) (SMap.get {} s.dev.claims r.ctr).value r.add ∧
          ((d'.core r.core).th r.th).claimRet = some (SMap.get {} s.dev.claims r.ctr).value ∧
          SMap.get [] d'.claimQ tile = rest ∧ d'.mem = s.dev.mem)) ∧
  (∀ (c : Nat) (t : Thr) (s : State) (v : Nat), calm s → ((s.dev.core c).th t).claimRet = some v →
      ((s.dev.core c).th t).claiming = true → ((s.dev.core c).th t).loops = [] →
      Leads (.claimReturn c t) s (fun d' =>
        ((d'.core c).th t).claiming = false ∧ ((d'.core c).th t).pc = at_ s c t + 1 ∧
          ((d'.core c).th t).flags.claimOut = decide (bits (word s c t) 121 98 ≤ v) ∧
          ((d'.core c).th t).lc = (if v < bits (word s c t) 121 98 then
            ((s.dev.core c).th t).lc.set (bits (word s c t) 97 96) v else ((s.dev.core c).th t).lc) ∧ apart c s.dev d'))

/-- The CTRL strokes (R158, R159, R161): a LOOP with a COUNT above 0 makes its level active with index 0, one with COUNT 0 passes
beyond its END, a SKIP passes over OFFSET strokes when its condition holds, HALT ends the thread, NOP does nothing. -/
def Obligations.CtrlStrokesPassControl : Prop :=
  (∀ (c : Nat) (t : Thr) (s : State), mayIssue s c t (isCtrl 0) →
      Leads (.loop c t) s (fun d' =>
        if bits (word s c t) 89 66 = 0 then issued s c t (bits (word s c t) 103 90) (bits (word s c t) 103 90 + 1) d'
        else issued s c t (at_ s c t) (at_ s c t + 1) d' ∧ ((d'.core c).th t).loops.head? =
          some ⟨bits (word s c t) 65 64, at_ s c t + 1, bits (word s c t) 103 90, bits (word s c t) 89 66⟩)) ∧
  (∀ (c : Nat) (t : Thr) (s : State), mayIssue s c t (isCtrl 1) →
      Leads (.skip c t) s (fun d' => issued s c t (at_ s c t)
        (if skipTaken (s.dev.core c) t (word s c t) then at_ s c t + 1 + bits (word s c t) 77 64 else at_ s c t + 1) d')) ∧
  (∀ (c : Nat) (t : Thr) (s : State), mayIssue s c t (isCtrl 2) →
      Leads (.halt c t) s (fun d' => issued s c t (at_ s c t) (at_ s c t + 1) d' ∧ consumed s c t d' ∧
        ((d'.core c).th t).state = .halt)) ∧
  (∀ (c : Nat) (t : Thr) (s : State), mayIssue s c t (isCtrl 3) →
      Leads (.nop c t) s (fun d' => issued s c t (at_ s c t) (at_ s c t + 1) d' ∧ consumed s c t d' ∧
        (d'.core c).plate = (s.dev.core c).plate))

/-- The SYS strokes (R165): CNTCLR leaves every diagnostic counter of the core at 0, TRACE records its MARK, its index and TIME, FAULT faults
its own thread with USER_FAULT and its code, TIME writes the 64-bit TIME of its issue to the Plate, and FLAGCLR clears the flags
of MASK. -/
def Obligations.SysStrokesAct : Prop :=
  (∀ (c : Nat) (t : Thr) (s : State), mayIssue s c t (isSys 0) →
      Leads (.cntclr c t) s (fun d' => (∀ k, 0x10 ≤ k → k ≤ 0x1E → ctr d' (cIdx c) k = 0) ∧ apart c s.dev d' ∧
        ((d'.core c).th t).pc = (advanceThread ((s.dev.core c).th t) (at_ s c t) (at_ s c t + 1)).pc)) ∧
  (∀ (c : Nat) (t : Thr) (s : State), mayIssue s c t (isSys 1) →
      Leads (.trace c t) s (fun d' => issued s c t (at_ s c t) (at_ s c t + 1) d' ∧
        (d'.core c).trace = ⟨bits (word s c t) 95 64, at_ s c t, s.dev.now⟩ :: (s.dev.core c).trace)) ∧
  (∀ (c : Nat) (t : Thr) (s : State), mayIssue s c t (isSys 2) →
      Leads (.sysFault c t) s (fun d' => issued s c t (at_ s c t) (at_ s c t + 1) d' ∧ ((d'.core c).th t).state = .fault ∧
        ((d'.core c).th t).status = Status.userFault ∧ ((d'.core c).th t).fault.requested = bits (word s c t) 79 64 ∧
        ((d'.core c).th t).fault.stroke = at_ s c t)) ∧
  (∀ (c : Nat) (t : Thr) (s : State), mayIssue s c t (isSys 3) →
      Leads (.sysTime c t) s (fun d' => issued s c t (at_ s c t) (at_ s c t + 1) d' ∧
        (d'.core c).plate = writeBytes (s.dev.core c).plate
          (paddr ((s.dev.core c).word (bits (word s c t) 77 64)) ((s.dev.core c).th t).lc).toNat (leBytes 8 s.dev.now))) ∧
  (∀ (c : Nat) (t : Thr) (s : State), mayIssue s c t (isSys 4) →
      Leads (.flagclr c t) s (fun d' => issued s c t (at_ s c t) (at_ s c t + 1) d' ∧
        ((d'.core c).th t).flags = ((s.dev.core c).th t).flags.clear (bits (word s c t) 67 64)))

/-- CODE strokes (R164, R254, R256): one in an open gate whose engine has room issues and joins the engine's queue; an engine
takes its oldest operation and, when it completes it, applies its outputs and signals. -/
def Obligations.CodeStrokesRun : Prop :=
  (∀ p ∈ ([(0, .build), (1, .encode), (2, .decode)] : List (Nat × (Nat → Instr))), ∀ (c : Nat) (s : State),
      mayIssue s c .F (fun w => skClass w == 7 && skOp w == p.1) → gateOpen s.dev (s.fuses.tileOf c) = true →
      (s.dev.engine (codeEngine s.fuses c (word s c .F))).accepts = true →
      Leads (p.2 c) s (fun d' =>
        issued s c .F (at_ s c .F) (at_ s c .F + 1) d' ∧ consumed s c .F d' ∧
          (d'.engine (codeEngine s.fuses c (word s c .F))).queue =
            (s.dev.engine (codeEngine s.fuses c (word s c .F))).queue ++
              [{ mkCodeOp (s.dev.core c) c (word s c .F) with stamp := s.dev.stampNow }])) ∧
  (∀ (tile e : Nat) (s : State) (o : CodeOp) (rest : List CodeOp), calm s → (s.dev.engine (2 * tile + e)).run = none →
      (s.dev.engine (2 * tile + e)).queue = o :: rest → s.dev.resets = [] → o.srcMem = false → o.seg = none →
      let r := runCode s.fuses s.dev ((ctxOf s.dev o.core).getD 4096) o
      r.books.all (entryReady s.fuses s.dev (engineWho tile e o.stamp) ((ctxOf s.dev o.core).getD 4096)) = true →
      Leads (.codecOpStart tile e {}) s (fun d' =>
        (d'.engine (2 * tile + e)).queue = rest ∧ (d'.engine (2 * tile + e)).run = some r.run)) ∧
  (∀ (tile e : Nat) (s : State) (r : CodeRun), calm s → (s.dev.engine (2 * tile + e)).run = some r → r.fault = 0 →
      r.outs.all (fun o => !o.mem) = true → r.op.sig = none → r.op.seg = none →
      Leads (.codecOpComplete tile e) s (fun d' =>
        (d'.engine (2 * tile + e)).run = none ∧ d'.mem = s.dev.mem ∧
          d'.core r.op.core = (r.outs.foldl (applyOut s.fuses (engineWho tile e r.op.stamp)) s.dev).core r.op.core))

/-- Messages at a core (R19, R116, R121, R126): a token or credit message that is the oldest of its flow and that the core takes
adds its amount to the counter it names; one that is not the oldest of its flow waits; a queue word's header reserves its item, and the word that waits for the write port is written into the ring. -/
def Obligations.MessagesReachACore : Prop :=
  (∀ (m : Nat) (s : State) (x : MeshMsg), calm s → meshHead s.dev (.token m) = some x →
      destRefuses s.fuses s.dev (bits m 30 24) (bits m 79 64) = false → bit m 31 = false →
      bits m 63 51 = 0 → bits m 127 109 = 0 → (bit m 23 = true → bits m 22 16 < 64) →
      let r : CtrRef := { credit := bit m 23, idx := bits m 22 16 }
      0 < (s.dev.core (bits m 30 24)).counter r + bits m 15 0 →
      (s.dev.core (bits m 30 24)).counter r + bits m 15 0 ≤ 0xFFFF →
      Leads (.tokenCreditMessage m) s (fun d' =>
        (d'.core (bits m 30 24)).counter r = (s.dev.core (bits m 30 24)).counter r + bits m 15 0 ∧
          d'.mesh = dropMesh x s.dev.mesh ∧ apart (bits m 30 24) s.dev d')) ∧
  (∀ (m : Nat) (s : State), calm s → meshHead s.dev (.token m) = none →
      Leads (.tokenCreditMessage m) s (fun d' => d' = s.dev)) ∧
  (∀ (m : Nat) (s : State) (y : MeshMsg), calm s → meshHead s.dev (.word m) = some y →
      let c := bits m 104 98
      let q := bits m 96 95
      let p := msgProducer m
      let x := (s.dev.core c).queue q
      destRefuses s.fuses s.dev c p.dev = false → bits m 127 108 = 0 → (s.dev.core c).qport = none →
      ((s.dev.core c).qcfgOf q).en = true → bit m 97 = true → bits m 6 0 ≠ 0 → bits m 6 0 ≤ 64 → bits m 15 7 = 0 →
      x.marks = [] → x.items = [] → bits m 6 0 ≤ ((s.dev.core c).qcfgOf q).size → (s.dev.core c).queues.length = 4 →
      p.dev ≠ devAddr s.fuses s.dev →
      Leads (.queueWordMessage m) s (fun d' =>
        ((d'.core c).queue q).items = [{ prod := p, start := x.wp, len := bits m 6 0, got := 1 }] ∧
          ((d'.core c).qport.map QWord.word) = some m ∧ d'.mesh = dropMesh y s.dev.mesh ∧ apart c s.dev d')) ∧
  (∀ (c : Nat) (s : State) (w : QWord), calm s → (s.dev.core c).qport = some w →
      ((s.dev.core c).queue w.queue).items = [] →
      Leads (.queueWordWrite c) s (fun d' =>
        (d'.core c).qport = none ∧ (d'.core c).plate = writeBytes (s.dev.core c).plate
          (((s.dev.core c).qcfgOf w.queue).base + 8 * w.pos) (leBytes 8 (w.word % 2 ^ 64)) ∧ apart c s.dev d'))

/-- SYNC strokes and waiting (R113, R115, R116, R119, R156, R446): a stroke whose waits do not hold leaves its thread in WAIT and
consumes nothing; WAIT and FENCE do nothing but wait, SET gives a counter its value, SEND puts a message for a core of this device
on the mesh, and BARRIER issues once REG_COUNT has moved on and remembers it. -/
def Obligations.SyncStrokesIssue : Prop :=
  (∀ (c : Nat) (t : Thr) (s : State), calm s → strokeHere s.dev c t (isCtrl 3) = true →
      ((s.dev.core c).th t).recheck = false → waitsHold (s.dev.core c) (word s c t) = false →
      Leads (.nop c t) s (fun d' =>
        ((d'.core c).th t).state = .wait ∧ ((d'.core c).th t).pc = at_ s c t ∧ (d'.core c).tokens = (s.dev.core c).tokens ∧
          (d'.core c).credits = (s.dev.core c).credits ∧ issueCount d' c t = issueCount s.dev c t ∧ apart c s.dev d')) ∧
  (∀ (c : Nat) (t : Thr) (s : State), mayIssue s c t (isSync 0) →
      Leads (.wait c t) s (fun d' => issued s c t (at_ s c t) (at_ s c t + 1) d' ∧ consumed s c t d' ∧
        (d'.core c).plate = (s.dev.core c).plate)) ∧
  (∀ (c : Nat) (t : Thr) (s : State), mayIssue s c t (isSync 4) → outstanding s.dev c t = false →
      Leads (.fence c t) s (fun d' => issued s c t (at_ s c t) (at_ s c t + 1) d' ∧ consumed s c t d' ∧
        (d'.core c).plate = (s.dev.core c).plate)) ∧
  (∀ (c : Nat) (t : Thr) (s : State), mayIssue s c t (isSync 1) → bits (word s c t) 79 64 ≠ 0 →
      Leads (.set c t) s (fun d' => issued s c t (at_ s c t) (at_ s c t + 1) d' ∧
        (d'.core c).counter { credit := bit (word s c t) 87, idx := bits (word s c t) 86 80 } = bits (word s c t) 79 64)) ∧
  (∀ (c : Nat) (t : Thr) (s : State), mayIssue s c t (isSync 2) → bit (word s c t) 95 = true →
      devAddr s.fuses s.dev < 65536 →
      Leads (.send c t) s (fun d' => issued s c t (at_ s c t) (at_ s c t + 1) d' ∧ consumed s c t d' ∧
        ∃ m, d'.mesh = s.dev.mesh ++ [m] ∧
          m.body = .token (tokenMsg (bits (word s c t) 79 64) { credit := bit (word s c t) 87, idx := bits (word s c t) 86 80 }
            (bits (word s c t) 94 88) (devAddr s.fuses s.dev) (srcOf t) (devAddr s.fuses s.dev) (s.fuses.tileOf c) c (unitThread t)
            (at_ s c t)))) ∧
  (∀ (c : Nat) (t : Thr) (s : State), mayIssue s c t (isSync 5) → ctr s.dev 0xC000 3 ≠ ((s.dev.core c).th t).mark →
      Leads (.syncBarrier c t) s (fun d' => issued s c t (at_ s c t) (at_ s c t + 1) d' ∧
        ((d'.core c).th t).mark = ctr s.dev 0xC000 3))

/-! ## Collectives (chapter 13) -/

/-- The COLL operations with the commands that stand for their issue (R163). -/
def Sys2Proof.Stmt.collRows : List (Nat × (Nat → Instr)) :=
  [(0, .allgather), (1, .reducescatter), (2, .allreduce), (3, .alltoall), (4, .broadcast), (5, .collBarrier)]

/-- COLL strokes (R163, R325, R326, R331): one of a B thread without a collective and with an idle mover, on a usable group,
issues and begins on the group, whose state becomes 2; one with COUNT 0 that is no BARRIER completes at once; the next chunk of a
running collective is finished once its output is complete, in the fixed order. -/
def Obligations.CollectivesRun : Prop :=
  (∀ p ∈ collRows, ∀ (c : Nat) (s : State), mayIssue s c .B (fun w => skClass w == 6 && skOp w == p.1) →
      (s.dev.core c).coll = none → (s.dev.core c).movB = [] →
      groupUsable s.fuses s.dev ((ctxOf s.dev c).getD 4096) (bits (word s c .B) 75 64) c = true →
      exec (p.2 c) s = .next (after s (issue s.fuses s.dev c .B (word s c .B) (fun d =>
        let g := bits (word s c .B) 75 64
        let r := mkColl (s.dev.core c) c s.dev.stampNow (d.group g) (word s c .B)
        let d := (d.modGroup g (fun x => { x with state := 2 })).setColl c r
        if p.1 ≠ 5 ∧ r.count = 0 then finishColl s.fuses d c r 0 else beginColl s.fuses d c)))) ∧
  (∀ (c : Nat) (s : State) (r : CollRun) (g : Ring) (e n : Nat), calm s → (s.dev.core c).coll = some r →
      ringOf s.fuses s.dev r.grp c = some g → r.data = true → r.op ≠ 5 →
      (outChunks (groupDesc s.fuses s.dev r.grp) r g)[r.next]? = some (e, n) →
      covers r.finished r.finished.length e (e + n) = true →
      r.next + 1 < (outChunks (groupDesc s.fuses s.dev r.grp) r g).length → r.chtok = none →
      Leads (.collChunkDone c) s (fun d' =>
        (d'.core c).coll = some { r with next := r.next + 1, sent := max r.sent (r.next + 1) } ∧
          (d'.core c).plate = (s.dev.core c).plate ∧ apart c s.dev d'))

/-- The group of a packet is formed here and in the packet's epoch (R338). -/
abbrev Sys2Proof.Stmt.inEpoch (s : State) (l : List Byte) : Prop :=
  groupLive s.dev (collHdr l).grp = true ∧ (collHdr l).epoch = (s.dev.group (collHdr l).grp).epoch

/-- The packet is at the collective logic, the oldest of its stream, and has this TYPE (R24, R348). -/
abbrev Sys2Proof.Stmt.atColl (s : State) (core typ : Nat) (l : List Byte) (pk : Nat × Packet) : Prop :=
  collAt s.dev core l = some pk ∧ (collHdr l).typ = typ

/-- The packet belongs to the collective that its core runs, which is not stopped (R348). -/
abbrev Sys2Proof.Stmt.forColl (s : State) (core : Nat) (l : List Byte) (r : CollRun) (q : Ring) : Prop :=
  (s.dev.core (collCore s.fuses s.dev core (collHdr l))).coll = some r ∧ r.grp = (collHdr l).grp ∧ r.paused = false ∧
    r.seq = (collHdr l).seq ∧ r.op = (collHdr l).op ∧ r.sum = (collHdr l).sum ∧
    ringOf s.fuses s.dev r.grp (collCore s.fuses s.dev core (collHdr l)) = some q

/-- The chunk of a DATA packet as a mark names it (R349). -/
def Sys2Proof.Stmt.markOf (s : State) (r : CollRun) (q : Ring) (h : CollHdr) (pos : Nat) : CollMark :=
  let at_ := partOf (groupDesc s.fuses s.dev r.grp) r q h.dir (rawPos r q h pos)
  { dir := h.dir, part := h.part, elem := (chunkAround r at_.2.1 at_.2.2 h.elem).1, src := if r.op = 3 then h.rank else 0 }

/-- The member's own partial sums for a packet of partial sums (R333 to R336). -/
def Sys2Proof.Stmt.addedSums (s : State) (c : Nat) (r : CollRun) (base : Nat) (h : CollHdr) (body : List Byte) : List WireEl :=
  let els := wireEls h.form body
  ((els.zip (ownSums r base h.elem (readPiece s.dev c r.src r.ifmt (base + h.elem) els.length))).map (fun q => q.1.add q.2))

/-- DATA packets of a running collective (R330, R333, R336, R348): one whose memory can be accessed is taken.  Raw elements of an
unmarked chunk are written where R326 puts them and count as finished; partial sums are added to the member's own, and the sums go
on to the successor, or at the part's owner count as finished; a packet for a core that runs no collective yet waits. -/
def Sys2Proof.Stmt.collDataIsTaken : Prop :=
  (∀ (core : Nat) (l : List Byte) (s : State) (r : CollRun) (q : Ring) (pos : Nat) (pk : Nat × Packet), calm s → inEpoch s l →
      atColl s core 0 l pk → forColl s core l r q → r.data = true → partPos q (collHdr l) = some pos → l.drop 32 ≠ [] →
      let h := collHdr l
      let c := collCore s.fuses s.dev core h
      let at_ := partOf (groupDesc s.fuses s.dev r.grp) r q h.dir (rawPos r q h pos)
      dataReady s.fuses s.dev c r q h pos (l.drop 32) = true → r.marks.contains (markOf s r q h pos) = false → h.form = 0 →
      Leads (.collData core l) s (fun d' =>
        d'.inbox = s.dev.inbox.erase pk ∧ (∀ c', c' ≠ c → d'.core c' = s.dev.core c') ∧
          ∃ r', (d'.core c).coll = some r' ∧ r'.data = true ∧
            r'.finished = r.finished ++ [(outAt r at_.1 h.elem, rawCount r.ofmt (l.drop 32).length (at_.2.2 - h.elem))])) ∧
  (∀ (core : Nat) (l : List Byte) (s : State) (r : CollRun) (q : Ring) (pos : Nat) (pk : Nat × Packet), calm s → inEpoch s l →
      atColl s core 0 l pk → forColl s core l r q → r.data = true → partPos q (collHdr l) = some pos → l.drop 32 ≠ [] →
      let h := collHdr l
      let c := collCore s.fuses s.dev core h
      let x := groupDesc s.fuses s.dev r.grp
      let at_ := partOf x r q h.dir pos
      let ch := chunkAround r at_.2.1 at_.2.2 h.elem
      dataReady s.fuses s.dev c r q h pos (l.drop 32) = true → r.marks.contains (markOf s r q h pos) = false →
      h.form ≠ 0 → r.reduces = true → h.form = r.form →
      piecePoison s.fuses s.dev c r.src r.ifmt (at_.1 + ch.1) ch.2 = false →
      (readPiece s.dev c r.src r.ifmt (at_.1 + h.elem) (wireEls h.form (l.drop 32)).length).ue = none →
      Leads (.collData core l) s (fun d' =>
        d'.inbox = s.dev.inbox.erase pk ∧ (∀ c', c' ≠ c → d'.core c' = s.dev.core c') ∧
          if pos = q.me then
            ∃ r', (d'.core c).coll = some r' ∧
              r'.finished = r.finished ++ [(outAt r at_.1 h.elem, (addedSums s c r at_.1 h (l.drop 32)).length)]
          else (d'.core c).coll = some r ∧ (d'.core c).plate = (s.dev.core c).plate ∧
            (x.axis = 0 → ∃ m, d'.mesh = s.dev.mesh ++ [m] ∧
              m.body = .coll (x.ids.getD (q.ranks.getD (q.succ h.dir) 0) 0)
                ((runHdr s.dev r q 0 h.dir h.form h.part h.elem).bytes ++
                  wireBytes h.form (addedSums s c r at_.1 h (l.drop 32)))))) ∧
  (∀ (core : Nat) (l : List Byte) (s : State) (pk : Nat × Packet), calm s → inEpoch s l → atColl s core 0 l pk →
      (s.dev.core (collCore s.fuses s.dev core (collHdr l))).coll = none →
      Leads (.collData core l) s (fun d' => d' = s.dev))

/-- ANCHOR and BARRIER packets of a running collective (R330, R333, R335): a record that comes back to a member is stored, one that
reaches the owner of its part is joined with the owner's own and stored, and any other is joined and passed on; the arrival of a
barrier goes round to the first member, whose stroke ends as it sends the release, and the release ends every other member's. -/
def Sys2Proof.Stmt.collAnchorsAndBarriersAreTaken : Prop :=
  (∀ (core : Nat) (l : List Byte) (s : State) (r : CollRun) (q : Ring) (pos : Nat) (pk : Nat × Packet), calm s → inEpoch s l →
      atColl s core 1 l pk → forColl s core l r q → r.data = false → r.hasPhase = true → r.due ≠ .start →
      partPos q (collHdr l) = some pos →
      let h := collHdr l
      let c := collCore s.fuses s.dev core h
      let base := (partOf (groupDesc s.fuses s.dev r.grp) r q h.dir pos).1
      let got := recsOf r (l.drop 32)
      let n := got.length * r.recUnit
      let p := readPiece s.dev c r.src r.ifmt (base + h.elem) n
      let all := if anchorGathers r q h pos then got else (got.zip (ownRecs r p)).map (fun x => x.1.join x.2)
      (anchorGathers r q h pos = true ∨ (pieceReady s.fuses s.dev c r.src false r.ifmt (base + h.elem) n = true ∧ p.ue = none)) →
      Leads (.collAnchor core l) s (fun d' =>
        d'.inbox = s.dev.inbox.erase pk ∧ d'.mem.bytes = s.dev.mem.bytes ∧
          ∃ r', (d'.core c).coll = some r' ∧
            if anchorGathers r q h pos = true ∨ pos = q.me then
              r'.recDone = r.recDone + all.length ∧
                r'.recs = (all.zipIdx).foldl (fun m x => m.put ((base + h.elem) / r.recUnit + x.2) x.1) r.recs
            else r'.recDone = r.recDone ∧ r'.recs = r.recs ∧ r'.seen = (h.dir, h.part, h.elem) :: r.seen)) ∧
  (∀ (core : Nat) (l : List Byte) (s : State) (r : CollRun) (q : Ring) (pk : Nat × Packet), calm s → inEpoch s l →
      atColl s core 13 l pk → forColl s core l r q → r.op = 5 →
      let h := collHdr l
      let c := collCore s.fuses s.dev core h
      Leads (.collBarrierPass core l) s (fun d' =>
        d'.inbox = s.dev.inbox.erase pk ∧ d'.mem = s.dev.mem ∧
          (d'.core c).coll = (if (h.arg = 0) = (q.me = 0) then none else some r)))

/-- Packets of a running collective (R326, R330, R333 to R336, R348): DATA packets, ANCHOR packets and BARRIER packets. -/
def Obligations.CollPacketsAreTaken : Prop := collDataIsTaken ∧ collAnchorsAndBarriersAreTaken

/-- Groups (R323, R338, R341, R342): a FORM that finds no formation under way waits to be answered, and a formation that runs out
of time ends with FORM_TIMEOUT for every GROUP_FORM that waits for it; a COMMIT of a newer epoch is adopted with its present set and counted in REFORMS, an ABANDON ends
the group here, and a COMMIT_REQ for a live group is answered with its COMMIT. -/
def Obligations.GroupsFormAndReform : Prop :=
  (∀ (core : Nat) (l : List Byte) (s : State) (pk : Nat × Packet), calm s → atColl s core 2 l pk →
      (s.dev.group (collHdr l).grp).forming = none → (s.dev.group (collHdr l).grp).state = 0 →
      ((groupDesc s.fuses s.dev (collHdr l).grp).valid = true → (collHdr l).sum = groupDigest s.fuses s.dev (collHdr l).grp) →
      Leads (.collForm core l) s (fun d' =>
        d'.group (collHdr l).grp = { s.dev.group (collHdr l).grp with
          asked := (collHdr l).rank :: (s.dev.group (collHdr l).grp).asked.filter (· ≠ (collHdr l).rank) } ∧
        d'.inbox = s.dev.inbox.erase pk ∧ d'.mem = s.dev.mem)) ∧
  (∀ (g : Nat) (s : State) (r : FormRec), calm s → (s.dev.group g).forming = some r →
      Leads (.formTimeout g) s (fun d' =>
        (d'.group g).forming = none ∧ (d'.group g).state = (s.dev.group g).state ∧
          ∀ i ∈ r.handles, ∀ h, SMap.find? s.dev.handles i = some h → h.complete = false →
            (SMap.find? d'.handles i).map HandleRec.status = some Status.formTimeout)) ∧
  (∀ (core : Nat) (l : List Byte) (s : State) (pk : Nat × Packet), calm s → atColl s core 7 l pk → groupLive s.dev (collHdr l).grp = true →
      newer16 (collHdr l).epoch (s.dev.group (collHdr l).grp).epoch = true → runners s.fuses s.dev (collHdr l).grp = [] →
      Leads (.collCommit core l) s (fun d' =>
        (d'.group (collHdr l).grp).epoch = (collHdr l).epoch ∧ (d'.group (collHdr l).grp).present = field l 32 32 ∧
          (d'.group (collHdr l).grp).reforms = satAdd 0xFFFFFFFF (s.dev.group (collHdr l).grp).reforms 1)) ∧
  (∀ (core : Nat) (l : List Byte) (s : State) (pk : Nat × Packet), calm s → atColl s core 8 l pk → inEpoch s l →
      runners s.fuses s.dev (collHdr l).grp = [] →
      Leads (.abandon core l) s (fun d' => (d'.group (collHdr l).grp).state = 5 ∧ (d'.group (collHdr l).grp).hold = false ∧
        d'.mem = s.dev.mem)) ∧
  (∀ (core : Nat) (l : List Byte) (s : State) (pk : Nat × Packet), calm s → atColl s core 12 l pk → groupLive s.dev (collHdr l).grp = true →
      let d := takeColl s.dev core l
      exec (.commitReq core l) s = .next (after s (sendCommit s.fuses d (collHdr l).grp
        (speaker s.fuses d (collHdr l).grp core) (collHdr l).rank)))

/-- Deadlines, suspects, probes and the timers of a group (R339, R340, R341, R344, R346, R347): a member whose deadline expires
suspects the sender; the coordinator notes the suspect and probes it; a probe is answered with the state of the cores; a DEAD reply
marks the suspect; when the probes run out the marked are excluded; a member that has tried three times abandons; EXTEND ends the
suspicion, SLOW counts and extends the timer on its sender at most SLOW_MAX times, HOLD stops the timers, RESUME and the end of
HOLD_LIMIT_MS start them again from zero, and a throttling device tells the members that wait on it. -/
def Obligations.DeadlinesAndTimers : Prop :=
  (∀ (c rank : Nat) (s : State) (r : CollRun) (q : Ring) (to' : Nat), calm s → (s.dev.core c).coll = some r →
      ringOf s.fuses s.dev r.grp c = some q → (s.dev.group r.grp).hold = false → r.paused = false →
      awaits s.fuses s.dev r q rank = true → coordinator s.fuses s.dev r.grp [rank] = some to' →
      Leads (.deadlineExpiry c rank) s (fun d' => (d'.group r.grp).suspects =
        (s.dev.group r.grp).suspects.filter (fun x => x.me != q.rank || x.rank != rank) ++
          [{ me := q.rank, rank := rank, sentTo := to' }] ∧ d'.cores = s.dev.cores)) ∧
  (∀ (core : Nat) (l : List Byte) (s : State) (pk : Nat × Packet), calm s → inEpoch s l → atColl s core 3 l pk →
      (presentRanks (groupDesc s.fuses s.dev (collHdr l).grp) (s.dev.group (collHdr l).grp)).contains (collHdr l).rank = true →
      (presentRanks (groupDesc s.fuses s.dev (collHdr l).grp) (s.dev.group (collHdr l).grp)).contains (collHdr l).arg = true →
      (s.dev.group (collHdr l).grp).probing = [] →
      Leads (.suspect core l) s (fun d' =>
        (d'.group (collHdr l).grp).probing = [{ rank := (collHdr l).arg, proposers := [(collHdr l).rank] }])) ∧
  (∀ (core : Nat) (l : List Byte) (s : State) (pk : Nat × Packet), calm s → inEpoch s l → atColl s core 4 l pk →
      let h := collHdr l
      let d := takeColl s.dev core l
      let x := groupDesc s.fuses d h.grp
      exec (.collProbe core l) s = .next (after s (collSend s.fuses d (ctlHdr s.fuses d h.grp 5
        (((if x.axis = 0 then [core] else x.coreList).map (collState s.fuses d h.grp)).foldl max 0)
        (speaker s.fuses d h.grp core)) h.rank []))) ∧
  (∀ (core : Nat) (l : List Byte) (s : State) (pk : Nat × Packet), calm s → atColl s core 4 l pk →
      groupLive s.dev (collHdr l).grp = true → (collHdr l).epoch ≠ (s.dev.group (collHdr l).grp).epoch →
      newer16 (collHdr l).epoch (s.dev.group (collHdr l).grp).epoch = false →
      Leads (.collProbe core l) s (fun d' =>
        (d'.group (collHdr l).grp).stale = satAdd (2 ^ 64 - 1) (s.dev.group (collHdr l).grp).stale 1 ∧
          d'.inbox = s.dev.inbox.erase pk ∧ d'.mesh = s.dev.mesh ∧ d'.ports = s.dev.ports)) ∧
  (∀ (core : Nat) (l : List Byte) (s : State) (p : ProbeRec) (pk : Nat × Packet), calm s → inEpoch s l → atColl s core 5 l pk →
      (s.dev.group (collHdr l).grp).forming = none →
      (s.dev.group (collHdr l).grp).probing.find? (fun p => p.rank == (collHdr l).rank) = some p → 2 ≤ (collHdr l).arg →
      Leads (.reply core l) s (fun d' => (d'.group (collHdr l).grp).probing =
        (s.dev.group (collHdr l).grp).probing.map (fun q => if q.rank = (collHdr l).rank then { q with dead := true } else q))) ∧
  (∀ (g : Nat) (s : State) (p : ProbeRec) (ps : List ProbeRec), calm s → (s.dev.group g).probing = p :: ps →
      exec (.probeWaitExpiry g) s = .next (after s (exclude s.fuses
        (s.dev.setGroup g { s.dev.group g with probing := [] }) g
        (((ownRanks s.fuses s.dev g).find? (fun r => (p :: ps).all (fun p => p.rank != r))).getD 0) (foundOut (p :: ps))))) ∧
  (∀ (g : Nat) (s : State) (r : SuspectRec) (rest : List SuspectRec), calm s → (s.dev.group g).suspects = r :: rest → 3 ≤ r.tries →
      runners s.fuses s.dev g = [] →
      Leads (.suspectRetryExpiry g) s (fun d' => (d'.group g).state = 5 ∧ (d'.group g).suspects = [])) ∧
  (∀ (core : Nat) (l : List Byte) (s : State) (pk : Nat × Packet), calm s → atColl s core 6 l pk → inEpoch s l →
      Leads (.extend core l) s (fun d' =>
        d'.group (collHdr l).grp = { s.dev.group (collHdr l).grp with
          suspects := (s.dev.group (collHdr l).grp).suspects.filter (fun x =>
            x.me != speaker s.fuses s.dev (collHdr l).grp core || x.sentTo != (collHdr l).rank) } ∧ d'.cores = s.dev.cores)) ∧
  (∀ (core : Nat) (l : List Byte) (s : State) (pk : Nat × Packet), calm s → atColl s core 9 l pk → inEpoch s l →
      Leads (.slow core l) s (fun d' =>
        (d'.group (collHdr l).grp).slowRx = satAdd 0xFFFFFFFF (s.dev.group (collHdr l).grp).slowRx 1 ∧
          SMap.get 0 (d'.group (collHdr l).grp).ext (collHdr l).rank =
            min (groupDesc s.fuses s.dev (collHdr l).grp).slowMax
              (SMap.get 0 (s.dev.group (collHdr l).grp).ext (collHdr l).rank + 1) ∧ d'.cores = s.dev.cores)) ∧
  (∀ (core : Nat) (l : List Byte) (s : State) (pk : Nat × Packet), calm s → atColl s core 10 l pk → inEpoch s l →
      Leads (.hold core l) s (fun d' =>
        d'.group (collHdr l).grp = { s.dev.group (collHdr l).grp with hold := true } ∧ d'.cores = s.dev.cores)) ∧
  (∀ (core : Nat) (l : List Byte) (s : State) (pk : Nat × Packet), calm s → atColl s core 11 l pk → inEpoch s l →
      Leads (.resume core l) s (fun d' =>
        d'.group (collHdr l).grp = { s.dev.group (collHdr l).grp with hold := false, ext := [] } ∧ d'.cores = s.dev.cores)) ∧
  (∀ (g : Nat) (s : State), calm s → (s.dev.group g).hold = true →
      Leads (.holdLimitExpiry g) s (fun d' =>
        d'.group g = { s.dev.group g with hold := false, ext := [] } ∧ d'.cores = s.dev.cores)) ∧
  (∀ (g c : Nat) (s : State) (q : Ring) (r : CollRun), calm s → throttling s.dev = true → groupLive s.dev g = true →
      (groupDesc s.fuses s.dev g).coreList = [c] → ringOf s.fuses s.dev g c = some q → (s.dev.core c).coll = some r → r.grp = g →
      exec (.slowSend g) s = .next (after s (((waitOnMe s.fuses s.dev r q).map (fun m => (q.rank, m))).eraseDups.foldl
        (fun d m => collSend s.fuses d (ctlHdr s.fuses d g 9 0 m.1) m.2 []) s.dev)))

/-! ## External memory (chapter 9) -/

/-- A line of device memory that a tile's access of an activity meets in its bank, in a block whose memory owes nothing: the bank
and the way to it take requests, and the activity's share has room. -/
abbrev Sys2Proof.Stmt.hits (s : State) (tile act line : Nat) : Prop :=
  calm s ∧ quietMem s.dev.mem = true ∧ act ≤ 4 ∧ lineExists s.fuses line = true ∧ resident s.fuses s.dev line = true ∧
    s.dev.frozen (bankArb s.fuses line) = false ∧ meshOpen s.dev (tile % 16) (homeTile s.fuses (256 * line)) = true ∧
    stackHeld s.fuses s.dev (bankKey s.fuses line) act < qshare s.fuses s.dev act

/-- Tile caches and controllers (R219, R221, R231, R419): a bank answers a read of a line it holds with the line's 256 bytes and
whether the line is poisoned, and merges a write into the bytes it names; every other byte of device memory is as before; a fill
that ends without an error answers the reader that waited for it; a controller whose check read matches is READY again; a
protected granule is copied into the COW buffer, where nothing but the copy is written; and the oldest write that it held goes
back to its bank. -/
def Obligations.TileCachesServe : Prop :=
  (∀ (req tile act line : Nat) (s : State), hits s tile act line →
      Leads (.tcRequest ⟨req, tile⟩ act line none 0) s (fun d' =>
        Out.lineReply req (readBytes s.dev.mem.bytes (256 * line) 256) (s.dev.mem.poison.contains line) ∈ d'.out ∧
          d'.mem.bytes = s.dev.mem.bytes)) ∧
  (∀ (req tile act line o : Nat) (l : List Byte) (s : State), hits s tile act line →
      o % 16 = 0 → l.length % 16 = 0 → 0 < l.length → o + l.length ≤ 256 → granuleHeld s.dev (line / 16) = false →
      s.dev.mem.cowHeld.any (fun q => q.1 == line) = false →
      Leads (.tcRequest ⟨req, tile⟩ act line (some (o, l)) 0) s (fun d' =>
        d'.mem.bytes = writeBytes s.dev.mem.bytes (256 * line + o) l ∧ d'.cores = s.dev.cores)) ∧
  (∀ (line req : Nat) (who : Who) (s : State), calm s → quietMem s.dev.mem = true →
      (fillsOf s.dev (bankKey s.fuses line)).find? (fun x => x.line == line && x.granted) =
        some { line := line, waiters := [{ req := req, who := who, write := none }], granted := true } →
      s.dev.mem.poison.contains line = false → s.dev.mem.hidden = [] →
      Leads (.tcFillComplete line 0 false) s (fun d' =>
        Out.lineReply req (readBytes s.dev.mem.bytes (256 * line) 256) false ∈ d'.out ∧ d'.mem.bytes = s.dev.mem.bytes)) ∧
  (∀ (i : Nat) (s : State), calm s → quietMem s.dev.mem = true → (stackOf s.fuses s.dev i).state = .retraining →
      (stackOf s.fuses s.dev i).waiting = [] → s.dev.resets = [] →
      Leads (.controllerReady i true) s (fun d' =>
        (stackOf s.fuses d' i).state = .ready ∧ d'.mem.bytes = s.dev.mem.bytes)) ∧
  (∀ (g : Nat) (s : State), calm s → granuleHeld s.dev g = true → s.dev.proof.cow.length < cowCapacity s.fuses s.dev →
      granPoisoned s.fuses s.dev g = false → runReady s.fuses s.dev (moverWho s.dev (homeTile s.fuses (4096 * g))) (4096 * g, 4096) = true →
      writeReady s.fuses s.dev (moverWho s.dev (homeTile s.fuses (4096 * g))) (4096 * cowSlot s.fuses s.dev, 4096) = true →
      (∀ k < 16, lineStack s.fuses s.dev (16 * cowSlot s.fuses s.dev + k) = .ready) →
      Leads (.cowCopy g) s (fun d' =>
        d'.proof.cow = s.dev.proof.cow ++ [(g, cowSlot s.fuses s.dev)] ∧ granuleHeld d' g = false ∧
          d'.mem.bytes = writeBytes s.dev.mem.bytes (4096 * cowSlot s.fuses s.dev) (readBytes s.dev.mem.bytes (4096 * g) 4096))) ∧
  (∀ (s : State) (q : Nat × TcWaiter), calm s →
      s.dev.mem.cowHeld.find? (fun q => !granuleHeld s.dev (q.1 / 16)) = some q →
      exec .cowWriteAdmit s = .next (after s (serveMemory s.fuses
        (({ s.dev with mem := { s.dev.mem with cowHeld := s.dev.mem.cowHeld.erase q } } : Dev).setBankQ (bankKey s.fuses q.1)
          (q :: bankQ s.dev (bankKey s.fuses q.1))))))

/-! ## The torus (chapter 12) -/

/-- A control flit that a port hears: the words its statements share. -/
abbrev Sys2Proof.Stmt.ctrlHeard (s : State) (p code : Nat) (raw : List Byte) (x : Flit) : Prop :=
  (s.dev.port p).hears = true ∧ flitOfBytes raw = some x ∧ x.typ = 1 ∧ field x.body 0 1 = code ∧
    (s.dev.port p).waiting = []

/-- Flits (R298, R299): the next DATA flit in order of a channel the port carries is
accepted, and the port expects the next SEQ; a NULL flit gives its ACK and
credits and nothing else; a NAK has the flits from its SEQ on sent again; a receiver that still misses its flit sends a further
NAK; and a port that has resent a flit eight times goes down with cause 2, and nothing stays to be resent. -/
def Obligations.FlitsAndReplay : Prop :=
  (∀ (p : Nat) (raw : List Byte) (s : State) (x : Flit), calm s → flitOfBytes raw = some x →
      carries s.fuses s.dev p x.vc = true → x.typ = 0 → x.seq = (s.dev.port p).expSeq → (s.dev.port p).waiting = [] →
      Leads (.dataFlit p raw) s (fun d' =>
        (d'.port p).expSeq = ((s.dev.port p).expSeq + 1) % 65536 ∧ (d'.port p).rx = (s.dev.port p).rx ++ [x] ∧
          (d'.port p).nakOut = false ∧ d'.mem = s.dev.mem ∧ d'.cores = s.dev.cores)) ∧
  (∀ (p : Nat) (raw : List Byte) (s : State) (x : Flit), calm s → (s.dev.port p).hears = true → flitOfBytes raw = some x →
      exec (.nullFlit p raw) s = .next (after s (pump (takeAck s.dev p x) p))) ∧
  (∀ (p : Nat) (raw : List Byte) (s : State) (x : Flit), calm s → ctrlHeard s p 1 raw x →
      let held := ((takeAck s.dev p x).port p).replay
      let before := fun (y : SentFlit) => decide (y.flit.seq ≠ field (x.body.drop 1) 0 2)
      held.dropWhile before ≠ [] →
      Leads (.flitNak p raw) s (fun d' =>
        (d'.port p).replay = held.takeWhile before ++ (held.dropWhile before).map (fun y => { y with resends := y.resends + 1 }) ∧
          ctr d' (pIdx p) 0x13 = satAdd (2 ^ 64 - 1) (ctr s.dev (pIdx p) 0x13) (held.dropWhile before).length ∧
          ∀ y ∈ held.dropWhile before, ∃ z, Out.flit p z ∈ d'.out ∧ z.seq = y.flit.seq ∧ z.body = y.flit.body)) ∧
  (∀ (p : Nat) (s : State), calm s → (s.dev.port p).hears = true → (s.dev.port p).nakOut = true →
      exec (.nakRepeat p) s = .next (after s (sendCtrl s.dev p 1 (leBytes 2 (s.dev.port p).expSeq)))) ∧
  (∀ (p : Nat) (s : State), calm s → (s.dev.port p).live = true →
      (s.dev.port p).replay.any (fun y => decide (8 ≤ y.resends)) = true →
      Leads (.replayLimit p false) s (fun d' =>
        (d'.port p).state = .down ∧ obj s.fuses d' (pIdx p) 6 = 2 ∧ (d'.port p).replay = [] ∧ d'.mem = s.dev.mem))

/-- Ports (R309, R310, R313, R314): one goes down with cause 4 when its neighbour says that it does, and with cause 1 when it loses
alignment; an attempt with enough lanes that train and have not failed uses the lanes R312 chooses of them, an IDENT that names the right neighbour starts the
measurement, and an attempt whose steps have passed leaves the port in service. -/
def Obligations.PortsGoDownAndTrain : Prop :=
  (∀ (p : Nat) (raw : List Byte) (s : State) (x : Flit), calm s → ctrlHeard s p 7 raw x → (s.dev.port p).live = true →
      Leads (.flitDown p raw) s (fun d' =>
        (d'.port p).state = .down ∧ obj s.fuses d' (pIdx p) 6 = 4 ∧ d'.mem = s.dev.mem)) ∧
  (∀ (p lanes : Nat) (s : State), calm s → (s.dev.port p).live = true →
      Leads (.lossOfSignal p lanes true) s (fun d' =>
        (d'.port p).state = .down ∧ obj s.fuses d' (pIdx p) 6 = 1 ∧ d'.mem = s.dev.mem)) ∧
  (∀ (p good : Nat) (s : State), calm s → p < 6 → (s.dev.port p).state = .down → (s.dev.port p).mgmtOnly = false →
      obj s.fuses s.dev (pIdx p) 7 ≠ 0 → hasRing s.fuses s.dev p = true →
      12 ≤ (bitList 26 (usableLanes s.fuses s.dev p good)).length →
      Leads (.trainAttempt p good) s (fun d' =>
        (d'.port p).state = .training ∧ (d'.port p).ident = false ∧ d'.mem = s.dev.mem ∧
          obj s.fuses d' (pIdx p) 1 = chooseLanes (s.dev.port p).narrow (usableLanes s.fuses s.dev p good) ∧
          obj s.fuses d' (pIdx p) 2 = 2 ^ 26 - 1 - usableLanes s.fuses s.dev p good ∧
          (d'.port p).narrow = ((s.dev.port p).narrow || decide ((bitList 26 (usableLanes s.fuses s.dev p good)).length < 24)))) ∧
  (∀ (p : Nat) (raw : List Byte) (s : State) (x : Flit), calm s → ctrlHeard s p 2 raw x → (s.dev.port p).state = .training →
      identOk s.fuses s.dev p (x.body.drop 1) = true →
      Leads (.flitIdent p raw) s (fun d' => (d'.port p).ident = true ∧ (d'.port p).measuring = true ∧
        (d'.port p).state = .training)) ∧
  (∀ (p : Nat) (s : State), calm s → (s.dev.port p).state = .training → (s.dev.port p).ident = true →
      (s.dev.port p).measuring = false → s.dev.resets = [] →
      Leads (.trainComplete p) s (fun d' => (d'.port p).live = true ∧ d'.mem = s.dev.mem))

/-- The hop delay and the lanes (R311, R312, R314, R317): a PROBE is answered with its first eight bytes and the two times, and an
ECHO before the 256th is one more estimate; a request to a port without one is confirmed at once, a confirmation marks the
request, the switch puts the spare in the failed lane's place, and a window in which no lane is above SPARE_SER only counts. -/
def Obligations.DelaysAndLanes : Prop :=
  (∀ (p t2 t3 : Nat) (raw : List Byte) (s : State) (x : Flit), calm s → ctrlHeard s p 3 raw x →
      exec (.flitProbe p raw t2 t3) s = .next (after s (sendCtrl (takeAck s.dev p x) p 4
        (slice (x.body.drop 1) 0 8 ++ leBytes 8 t2 ++ leBytes 8 t3)))) ∧
  (∀ (p t4 : Nat) (raw : List Byte) (s : State) (x : Flit), calm s → ctrlHeard s p 4 raw x → regState s.dev = 0 →
      (s.dev.port p).measuring = true → (s.dev.port p).estimates.length < 255 →
      Leads (.flitEcho p raw t4) s (fun d' =>
        (d'.port p).estimates = (s.dev.port p).estimates ++
          [((t4 : Int) - field (x.body.drop 1) 0 8) - ((field (x.body.drop 1) 16 8 : Int) - field (x.body.drop 1) 8 8)])) ∧
  (∀ (p : Nat) (raw : List Byte) (s : State) (x : Flit), calm s → ctrlHeard s p 5 raw x → (s.dev.port p).swaps = [] →
      Leads (.laneReq p raw) s (fun d' => (d'.port p).swaps =
        [{ failed := field (x.body.drop 1) 0 1, spare := field (x.body.drop 1) 1 1, narrow := field (x.body.drop 1) 2 1 == 1,
           switch := field (x.body.drop 1) 3 4, acked := true }])) ∧
  (∀ (p : Nat) (raw : List Byte) (s : State) (x : Flit), calm s → ctrlHeard s p 6 raw x →
      Leads (.laneAck p raw) s (fun d' => (d'.port p).swaps = (s.dev.port p).swaps.map (fun r =>
        if r.failed = field (x.body.drop 1) 0 1 ∧ r.spare = field (x.body.drop 1) 1 1 ∧ r.narrow = (field (x.body.drop 1) 2 1 == 1)
        then { r with acked := true } else r))) ∧
  (∀ (p : Nat) (s : State) (r : LaneSwap), calm s → (s.dev.port p).swaps = [r] → r.acked = true → r.narrow = false →
      (s.dev.port p).live = true →
      Leads (.laneSwitch p) s (fun d' => (d'.port p).swaps = [] ∧ (d'.port p).measuring = true ∧
        obj s.fuses d' (pIdx p) 1 = (obj s.fuses s.dev (pIdx p) 1 ||| 2 ^ r.spare) &&& (2 ^ 26 - 1 - 2 ^ r.failed) ∧
        obj s.fuses d' (pIdx p) 2 = obj s.fuses s.dev (pIdx p) 2 ||| 2 ^ r.failed)) ∧
  (∀ (p corr uncorr : Nat) (errs : List Nat) (s : State), calm s →
      (∀ e ∈ errs, e ≤ obj s.fuses s.dev (pIdx p) 9 * 21250) →
      Leads (.laneSerWindow p errs corr uncorr) s (fun d' =>
        ctr d' (pIdx p) 0x10 = (if corr = 0 then ctr s.dev (pIdx p) 0x10 else satAdd (2 ^ 64 - 1) (ctr s.dev (pIdx p) 0x10) corr) ∧
          d'.ports = s.dev.ports))

/-- The oldest whole packet of a port that need not wait, in its flits. -/
abbrev Sys2Proof.Stmt.packetCame (s : State) (p : Nat) (fs : List Flit) (k : Packet) : Prop :=
  calm s ∧ (wholePackets (s.dev.port p).rx).find? (fun fs => !flitsWait s.fuses s.dev p fs) = some fs ∧
    packetOf fs = some k ∧ packetOk k = true

/-- Packets and routes (R301, R304, R307, R308): of the whole packets of a port the oldest that need not wait is delivered where it
ends here, and goes on by its route where it does not; a memory write puts its bytes where its ADDR says and no others; a ring
status packet with news is recorded, and ROUTE_QUIET after a link came back its routes return. -/
def Obligations.PacketsAndRoutes : Prop :=
  (∀ (p : Nat) (s : State) (fs : List Flit) (k : Packet), packetCame s p fs k →
      exec (.torusPacket p) s = .next (after s (
        if isHere s.fuses s.dev k then
          deliverPacket s.fuses (s.dev.setPort p (freeFlits (s.dev.port p) fs)) p { k with stamp := s.dev.stampNow }
        else forward s.fuses (s.dev.setPort p (freeFlits (s.dev.port p) fs)) { k with stamp := s.dev.stampNow } (some p)))) ∧
  (∀ (p : Nat) (s : State) (fs : List Flit) (k : Packet), packetCame s p fs k → isHere s.fuses s.dev k = true → k.kind = 2 →
      k.act ≠ 2 → k.addr + k.data.length ≤ jobTop s.fuses s.dev →
      (∀ l ∈ linesOf k.addr k.data.length, lineStack s.fuses s.dev l = .ready) →
      Leads (.torusPacket p) s (fun d' =>
        d'.mem.bytes = writeBytes s.dev.mem.bytes k.addr k.data ∧ (d'.port p).rx = (freeFlits (s.dev.port p) fs).rx ∧
          d'.cores = s.dev.cores)) ∧
  (∀ (p : Nat) (s : State) (q : Nat × Packet), calm s →
      s.dev.inbox.find? (fun q => q.1 == p && q.2.kind == 8) = some q → field q.2.data 4 2 = 1 →
      linkKnown s.dev (field q.2.data 0 2) (field q.2.data 2 2) true = false →
      Leads (.ringStatus p) s (fun d' =>
        linkKnown d' (field q.2.data 0 2) (field q.2.data 2 2) true = true ∧ d'.inbox = s.dev.inbox.erase q)) ∧
  (∀ (a c : Nat) (s : State) (r : LinkRec), calm s →
      s.dev.links.find? (fun r => r.axis == a && r.at_ == c && !r.routed) = some r → r.down = false →
      exec (.routeQuietExpiry a c) s = .next (after s (quietEnd s.fuses s.dev a c)))

/-! ## Commands of CMD objects (R488) -/

/-- The handle the invocation takes (R470). -/
def Sys2Proof.Stmt.newHandle (s : State) (w : Writer) : Nat := (takeHandle s.dev (handleCtx w.prin) {}).2

/-- The argument bytes of a CMD object. -/
def Sys2Proof.Stmt.argOf (idx sub a : Nat) : List Byte := leBytes (((objRow idx sub).map Obj.len).getD 0) a

/-- The calm device takes the command: the checks of R488 pass, and the handle's sequence number fits its field. -/
abbrev Sys2Proof.Stmt.takesArg (s : State) (w : Writer) (idx sub : Nat) (arg : List Byte) : Prop :=
  calm s ∧ cmdCheck s.fuses s.dev w.prin idx sub 0 arg true = 0 ∧ newHandle s w / 2 ^ 20 = handleCtx w.prin

/-- The same with the argument as a number. -/
abbrev Sys2Proof.Stmt.takes (s : State) (w : Writer) (idx sub a : Nat) : Prop := takesArg s w idx sub (argOf idx sub a)

/-- A handle has completed with a status. -/
abbrev Sys2Proof.Stmt.handleEnds (d' : Dev) (h st : Nat) : Prop :=
  (SMap.find? d'.handles h).map (fun r => (r.complete, r.status)) = some (true, st)

/-- The command has completed with a status. -/
abbrev Sys2Proof.Stmt.ended (s : State) (w : Writer) (st : Nat) (d' : Dev) : Prop := handleEnds d' (newHandle s w) st

/-- The command goes on: its handle is held and not complete. -/
abbrev Sys2Proof.Stmt.goesOn (s : State) (w : Writer) (d' : Dev) : Prop :=
  (SMap.find? d'.handles (newHandle s w)).map HandleRec.complete = some false

/-- The device as the command finds it: the handle is taken and kept for the principal. -/
def Sys2Proof.Stmt.invoked (s : State) (w : Writer) (idx sub : Nat) : Dev :=
  keepHandle (takeHandle s.dev (handleCtx w.prin) {}).1 w.prin idx sub (newHandle s w)

/-- The principal's report after a frame of one item without an entry (R485). -/
def Sys2Proof.Stmt.reported (w : Writer) (d : Dev) : Dev :=
  d.setPrin w.prin { d.prin w.prin with report := { seq := w.seq, status := 0, entries := [] } }

/-- The commands without an argument that this statement names. -/
def Sys2Proof.Stmt.bareCmds : List (Nat × Nat × (Writer → Instr)) :=
  [(0x3190, 1, .stateCheck), (0x4020, 0, .routeRestore), (0x5000, 0x19, .igJoin), (0x6000, 3, .eraseAll), (0x9000, 3, .proofAbort),
   (0xD000, 2, .failover)]

/-- A write to a CMD object (R488): where a check refuses it no handle is taken and nothing but the writer's report changes;
where they pass, the handle it takes is the one the object then reads. -/
def Obligations.CommandsTakeHandles : Prop :=
  (∀ p ∈ bareCmds, ∀ (w : Writer) (s : State), calm s →
      cmdCheck s.fuses s.dev w.prin p.1 p.2.1 0 (argOf p.1 p.2.1 0) true ≠ 0 →
      Leads (p.2.2 w) s (fun d' => ∃ r, d' = s.dev.setPrin w.prin { s.dev.prin w.prin with report := r })) ∧
  (∀ p ∈ bareCmds, ∀ (w : Writer) (s : State), takes s w p.1 p.2.1 0 →
      Leads (p.2.2 w) s (fun d' =>
        SMap.find? (d'.prin w.prin).handles (ob p.1 p.2.1) = some (newHandle s w) ∧
          (SMap.find? d'.handles (newHandle s w)).isSome = true ∧
          (d'.prin w.prin).report = { seq := w.seq, status := 0, entries := [] }))

/-- GROUP_FORM and GROUP_DISSOLVE (R323, R343): while a stroke of the group runs they end with GROUP_BUSY; a group without a VALID
descriptor, or excluded and not given a new one, ends GROUP_FORM with GROUP_CONFIG; a group without another member device is formed
at once, and any other waits for the answers of its members, with every GROUP_FORM that came before; a dissolved group has STATE 0. -/
def Sys2Proof.Stmt.groupsByCommand : Prop :=
  (∀ (w : Writer) (g : Nat) (s : State), g < 4096 → takes s w 0x8002 0 g → groupRunning s.fuses s.dev g = true →
      Leads (.groupForm w g) s (fun d' => ended s w Status.groupBusy d' ∧ d'.groups = s.dev.groups)) ∧
  (∀ (w : Writer) (g : Nat) (s : State), g < 4096 → takes s w 0x8002 0 g → groupRunning s.fuses s.dev g = false →
      formBarred (groupDesc s.fuses s.dev g) (s.dev.group g) = true →
      Leads (.groupForm w g) s (fun d' => ended s w Status.groupConfig d' ∧ d'.groups = s.dev.groups)) ∧
  (∀ (w : Writer) (g : Nat) (s : State), g < 4096 → takes s w 0x8002 0 g → groupRunning s.fuses s.dev g = false →
      formBarred (groupDesc s.fuses s.dev g) (s.dev.group g) = false →
      ((groupDesc s.fuses s.dev g).axis = 0 ∨ otherRanks s.fuses s.dev g = []) →
      Leads (.groupForm w g) s (fun d' => d'.group g = formedGroup (groupDesc s.fuses s.dev g) ∧ ended s w 0 d' ∧
        d'.mem = s.dev.mem ∧ d'.cores = s.dev.cores)) ∧
  (∀ (w : Writer) (g : Nat) (s : State), g < 4096 → takes s w 0x8002 0 g → groupRunning s.fuses s.dev g = false →
      formBarred (groupDesc s.fuses s.dev g) (s.dev.group g) = false →
      (groupDesc s.fuses s.dev g).axis ≠ 0 → otherRanks s.fuses s.dev g ≠ [] →
      Leads (.groupForm w g) s (fun d' => goesOn s w d' ∧ (d'.group g).state = (s.dev.group g).state ∧
        (d'.group g).forming = some { handles := (((s.dev.group g).forming.map FormRec.handles).getD []) ++ [newHandle s w]
                                      left := otherRanks s.fuses s.dev g } ∧ d'.mem = s.dev.mem ∧ d'.cores = s.dev.cores)) ∧
  (∀ (w : Writer) (g : Nat) (s : State), g < 4096 → takes s w 0x8002 1 g →
      Leads (.groupDissolve w g) s (fun d' => d'.mem = s.dev.mem ∧ d'.cores = s.dev.cores ∧
        if groupRunning s.fuses s.dev g = true then ended s w Status.groupBusy d' ∧ d'.groups = s.dev.groups
        else ended s w 0 d' ∧ (d'.group g).state = 0 ∧ (d'.group g).suspects = [] ∧ (d'.group g).probing = [] ∧
          (d'.group g).hold = false ∧ (d'.group g).stale = (s.dev.group g).stale ∧ (d'.group g).reforms = (s.dev.group g).reforms))

/-- Ports by command (R308, R309, R312, R313, R317): PORT_RESET takes a port down, or leaves it disabled, forgets its failed lanes, and
ends with its training attempt, or at once where the port is not trained; one that finds the port being reset ends with that;
ROUTE_RESTORE puts every RESTORED port back into service and no other; PORT_ENABLE 0 disables a port and ends its reset, and any
other value lets it train. -/
def Sys2Proof.Stmt.portsByCommand : Prop :=
  (∀ (w : Writer) (p : Nat) (s : State), p < 6 → takes s w (0x4010 + p) 8 0 →
      s.dev.resets.any (fun r => r.unit == 0x5000 + p) = false →
      Leads (.portReset w p) s (fun d' =>
        (d'.port p).state = (if obj s.fuses s.dev (pIdx p) 7 = 0 then PortState.disabled else PortState.down) ∧
          (d'.port p).swaps = [] ∧ (d'.port p).narrow = false ∧ obj s.fuses d' (pIdx p) 2 = 0 ∧ d'.mem = s.dev.mem ∧
          if untrained s.fuses s.dev p = true then ended s w 0 d' ∧ d'.resets = s.dev.resets
          else goesOn s w d' ∧ ∃ r, d'.resets = s.dev.resets ++ [r] ∧ r.unit = 0x5000 + p ∧ r.handles = [newHandle s w])) ∧
  (∀ (w : Writer) (p : Nat) (s : State), p < 6 → takes s w (0x4010 + p) 8 0 →
      s.dev.resets.any (fun r => r.unit == 0x5000 + p) = true →
      Leads (.portReset w p) s (fun d' => goesOn s w d' ∧ d'.ports = s.dev.ports ∧ d'.mem = s.dev.mem ∧
        d'.resets = s.dev.resets.map (fun r => if r.unit = 0x5000 + p then { r with handles := r.handles ++ [newHandle s w] } else r))) ∧
  (∀ (w : Writer) (s : State), takes s w 0x4020 0 0 →
      Leads (.routeRestore w) s (fun d' => ended s w 0 d' ∧ d'.mem = s.dev.mem ∧ d'.cores = s.dev.cores ∧
        ∀ p, p < 6 → (d'.port p).state =
          (if (s.dev.port p).state = .restored then serviceState s.fuses s.dev p false else (s.dev.port p).state))) ∧
  (∀ (w : Writer) (p : Nat) (s : State), p < 6 → calm s → writeReach s.fuses s.dev w.prin (0x4010 + p) 7 = 0 →
      Leads (.portEnable w p 0) s (fun d' => (d'.port p).state = .disabled ∧ obj s.fuses d' (pIdx p) 7 = 0 ∧
        d'.resets = s.dev.resets.filter (fun r => r.unit != 0x5000 + p) ∧ d'.mem = s.dev.mem)) ∧
  (∀ (w : Writer) (p v : Nat) (s : State), p < 6 → 0 < v → v < 256 → calm s →
      writeReach s.fuses s.dev w.prin (0x4010 + p) 7 = 0 →
      Leads (.portEnable w p v) s (fun d' => obj s.fuses d' (pIdx p) 7 = 1 ∧ d'.ports = s.dev.ports ∧
        d'.resets = s.dev.resets ∧ d'.mem = s.dev.mem))

/-- Groups and ports by command (R308, R309, R312, R313, R317, R323, R343): GROUP_FORM and GROUP_DISSOLVE, and PORT_RESET,
ROUTE_RESTORE and PORT_ENABLE. -/
def Obligations.GroupsAndPortsByCommand : Prop := groupsByCommand ∧ portsByCommand

/-- Housekeeping (R225, R226, R233): the oldest granule that waits enters the flash list, and the periodic pass goes on to the
next granule; calibration and refresh change timing only; a granule is retired and the extra burnish pass runs by command. -/
def Obligations.MemoryHousekeeping : Prop :=
  (∀ (s : State) (g : Nat) (rest : List Nat), calm s → s.dev.mem.retiring = g :: rest →
      Leads .retireListWrite s (fun d' =>
        d'.mem.retiring = rest ∧ d'.mem.retired = s.dev.mem.retired ++ [g] ∧ d'.mem.bytes = s.dev.mem.bytes)) ∧
  (∀ (i : Nat) (s : State), calm s → (stackOf s.fuses s.dev i).state = .ready → stackFitted s.fuses i = true →
      obj s.fuses s.dev 0x3030 1 ≠ 0 → s.dev.frozen (0x1000 + 256 * (i / 2) + i % 2) = false →
      poisonedStack s.fuses s.dev = [] → ctr s.dev 0x3031 i + 1 < stackGranules →
      Leads (.burnishGranule i 0 []) s (fun d' =>
        ctr d' 0x3031 i = ctr s.dev 0x3031 i + 1 ∧ d'.mem = s.dev.mem)) ∧
  (∀ (i : Nat) (s : State), calm s → stackFitted s.fuses i = true → (stackOf s.fuses s.dev i).state = .ready →
      Leads (.refresh i) s (fun d' => d'.mem = s.dev.mem ∧ d'.cores = s.dev.cores ∧
        d'.arbs = (s.dev.grant (0x1000 + 256 * (i / 2) + i % 2) { kind := 7, priv := some 0, stamp := s.dev.stampNow }).arbs)) ∧
  (∀ (s : State), calm s →
      Leads .memCalibration s (fun d' => d'.mem = s.dev.mem ∧ d'.cores = s.dev.cores ∧ d'.objs = s.dev.objs)) ∧
  (∀ (w : Writer) (g : Nat) (s : State), g < 2 ^ 32 → takes s w 0x3040 4 g → isRetired s.dev g = false →
      s.dev.mem.retired.length + s.dev.mem.retiring.length < 16384 →
      Leads (.retireGranule w g) s (fun d' => d'.mem.retiring = s.dev.mem.retiring ++ [g] ∧ d'.mem.retired = s.dev.mem.retired ∧
        d'.mem.bytes = s.dev.mem.bytes ∧ ended s w 0 d')) ∧
  (∀ (w : Writer) (e : Outside) (s : State), takes s w 0x3030 2 0 →
      exec (.burnishNow w e) s = .next (after s (reported w
        (completeHandle s.fuses (burnishPass s.fuses (invoked s w 0x3030 2) e.ces e.ues) (newHandle s w) 0 0)))) ∧
  (∀ (w : Writer) (s : State), takes s w 0x3030 2 0 → poisonedStack s.fuses s.dev = [] →
      Leads (.burnishNow w {}) s (fun d' => d'.mem = s.dev.mem ∧ ended s w 0 d'))

/-- Neither vault bus is frozen, and no load or erase waits for them. -/
abbrev Sys2Proof.Stmt.busesFree (s : State) : Prop := slotsFree s.dev = true ∧ s.dev.vault.waits = []

/-- The vault (R397 to R399, R408 to R411, R515): a key that passes its checks fills its slot and no other, and while a bus is frozen
it waits; an erased slot is EMPTY and
the others stay; ERASE_ALL leaves no key; SELFTEST takes the vault to TEST; a passed self-test returns it to service and completes
the command that asked for it, a failed one leaves it ALARMED and its slots EMPTY; an alarm in service erases every key and takes it
to SELFTEST; and an ALARMED vault without an active source serves again. -/
def Obligations.VaultKeysAndStates : Prop :=
  (∀ (w : Writer) (b : List Byte) (s : State) (sl : Nat) (k : KeySlot), takesArg s w 0x6000 1 b → busesFree s →
      (keyLoadCheck s.fuses s.dev w.prin w.prin b).toOption = some (sl, k) →
      Leads (.keyLoad w b) s (fun d' => d'.vault.slots = s.dev.vault.slots.put sl k ∧ d'.vault.state = s.dev.vault.state ∧
        ended s w 0 d')) ∧
  (∀ (w : Writer) (b : List Byte) (s : State) (sl : Nat) (k : KeySlot), takesArg s w 0x6000 1 b → slotsFree s.dev = false →
      (keyLoadCheck s.fuses s.dev w.prin w.prin b).toOption = some (sl, k) →
      Leads (.keyLoad w b) s (fun d' => d'.vault.slots = s.dev.vault.slots ∧ goesOn s w d' ∧
        ∃ c, d'.vault.waits = s.dev.vault.waits ++ [c] ∧ c.handle = newHandle s w ∧ c.blob = b)) ∧
  (∀ (w : Writer) (sl : Nat) (s : State), sl < 256 → takes s w 0x6000 2 sl → busesFree s →
      slotGranted s.fuses s.dev w.prin w.prin sl = true →
      (∀ o ∈ s.dev.vault.ops, o.run.isSome = true → o.slot ≠ sl) →
      Leads (.keyErase w sl) s (fun d' => SMap.find? d'.vault.slots sl = none ∧
        (∀ k, k ≠ sl → SMap.find? d'.vault.slots k = SMap.find? s.dev.vault.slots k) ∧ d'.mem = s.dev.mem ∧ ended s w 0 d')) ∧
  (∀ (w : Writer) (sl : Nat) (s : State), sl < 256 → takes s w 0x6000 2 sl →
      slotGranted s.fuses s.dev w.prin w.prin sl = false →
      Leads (.keyErase w sl) s (fun d' => d'.vault = s.dev.vault ∧ ended s w Status.slotGrant d')) ∧
  (∀ (w : Writer) (s : State), takes s w 0x6000 3 0 → busesFree s → (w.prin = 0 ∨ (w.prin = mgmtPrin ∧ w.key1 = false)) →
      (∀ o ∈ s.dev.vault.ops, o.run.isNone = true) →
      Leads (.eraseAll w) s (fun d' => d'.vault.slots = [] ∧ d'.mem = s.dev.mem ∧ ended s w 0 d')) ∧
  (∀ (w : Writer) (u : Nat) (s : State), u ≤ 2 → takes s w 0x6000 0x0D u → (s.fuses.longHaul = true ∨ u = 2) →
      Leads (.selftest w u) s (fun d' => d'.vault.state = .test ∧
        d'.vault.testing = s.dev.vault.testing ++ [(u, some (newHandle s w))] ∧ goesOn s w d')) ∧
  (∀ (u h : Nat) (s : State) (r : HandleRec), s.dev.vault.state = .test →
      s.dev.vault.testing = [(u, some h)] → s.dev.vault.sources = [] → SMap.find? s.dev.handles h = some r → r.complete = false →
      Leads (.selftestComplete true) s (fun d' => d'.vault.state = .service ∧ d'.vault.testing = [] ∧ handleEnds d' h 0)) ∧
  (∀ (s : State), s.dev.vault.state = .selftest ∨ s.dev.vault.state = .recovery →
      Leads (.selftestComplete false) s (fun d' => d'.vault.state = .alarmed ∧ d'.vault.slots = [])) ∧
  (∀ (cause : Nat) (stays : Bool) (s : State), s.dev.vault.state = .service → 1 ≤ cause → cause ≤ 3 →
      Leads (.vaultAlarm cause stays) s (fun d' => d'.vault.state = .selftest ∧ d'.vault.slots = [] ∧
        obj s.fuses d' 0x6000 0x0A = cause)) ∧
  (∀ (s : State), s.dev.vault.state = .alarmed → s.dev.vault.passed = true →
      Leads (.alarmRecheck []) s (fun d' => d'.vault.state = .service ∧ d'.vault.sources = []))

/-- The entry at the head of a context's command ring can start (R467, R468). -/
abbrev Sys2Proof.Stmt.heads (s : State) (g : Nat) (e : FetchedCmd) (sel : List Byte → Bool) : Prop :=
  calm s ∧ (s.dev.ctx g).live = true ∧ (s.dev.ctx g).fetched = [e] ∧ sel e.bytes = true ∧
    (entryFence e.bytes = false ∨ fenceOk s.dev g = true)

/-- The device without that entry. -/
def Sys2Proof.Stmt.popped (s : State) (g : Nat) : Dev := s.dev.setCtx g { s.dev.ctx g with fetched := [] }

/-- The entry's handle is held and not complete. -/
abbrev Sys2Proof.Stmt.heldOpen (s : State) (h : Nat) : Prop := (SMap.find? s.dev.handles h).map HandleRec.complete = some false

/-- Sealing and opening (R403 to R407): a good descriptor joins the operations; its start copies the key and computes the output
and the tag; its completion writes them, compares the tag of an OPEN, and completes the handle. -/
def Obligations.CipherOperations : Prop :=
  (∀ p ∈ ([(0, .cipherSeal), (1, .cipherOpen)] : List (Nat × (Nat → Instr))), ∀ (g : Nat) (s : State) (e : FetchedCmd),
      heads s g e (fun b => entryKind b == 2 && field b 66 1 == p.1) → cipherCheck s.fuses s.dev g (e.bytes.drop 64) = 0 →
      Leads (p.2 g) s (fun d' => ∃ o, d'.vault.ops = s.dev.vault.ops ++ [o] ∧ o.handle = e.handle ∧ o.ctx = g ∧ o.run = none ∧
        o.openOp = (p.1 == 1) ∧ o.slot = field (e.bytes.drop 64) 4 1 ∧ o.iv = slice (e.bytes.drop 64) 8 12 ∧
        (d'.ctx g).fetched = [] ∧ d'.mem = s.dev.mem)) ∧
  (∀ (n : Nat) (s : State) (o : CipherOp) (key : List Byte), calm s → s.dev.vault.ops = [o] → o.engine = n → o.run = none →
      cipherFree s.dev n = true → s.dev.frozen (0x7000 + 0xF00 * n) = false → slotKey s.dev o.slot = some key →
      s.dev.vault.clash = false → (o.aad ++ o.src ++ o.tag).all (runReady s.fuses s.dev (cipherWho o)) = true →
      poisonedIn s.fuses s.dev (o.aad ++ o.src ++ o.tag) = [] →
      runsMeet o.src o.dst = false → runsMeet o.aad o.dst = false → runsMeet o.tag o.dst = false →
      Leads (.cipherStart n) s (fun d' =>
        ∃ ls, d'.vault.ops = [{ o with run := some (gcmCrypt key o.iv (runBytes s.dev o.src),
            gcmTag key o.iv (runBytes s.dev o.aad)
              (if o.openOp then runBytes s.dev o.src else gcmCrypt key o.iv (runBytes s.dev o.src)), ls), bad := false }])) ∧
  (∀ (h : Nat) (s : State) (o : CipherOp) (out tag : List Byte) (ls : List Nat), calm s → s.dev.vault.ops = [o] →
      o.handle = h → o.run = some (out, tag, ls) → o.bad = false → o.openOp = false →
      (o.dst ++ o.tag).all (writeReady s.fuses s.dev (cipherWho o)) = true → heldOpen s h →
      Leads (.cipherComplete h false) s (fun d' => d'.vault.ops = [] ∧ handleEnds d' h 0 ∧
        d'.mem.bytes = (writeRuns s.fuses (writeRuns s.fuses s.dev (cipherWho o) o.dst out) (cipherWho o) o.tag tag).mem.bytes)) ∧
  (∀ (h : Nat) (s : State) (o : CipherOp) (out tag : List Byte) (ls : List Nat), calm s → s.dev.vault.ops = [o] →
      o.handle = h → o.run = some (out, tag, ls) → o.bad = false → o.openOp = true →
      o.dst.all (writeReady s.fuses s.dev (cipherWho o)) = true → heldOpen s h →
      Leads (.cipherComplete h false) s (fun d' => d'.vault.ops = [] ∧
        handleEnds d' h (if runBytes s.dev o.tag = tag then 0 else Status.tagFail) ∧
        (runBytes s.dev o.tag = tag → d'.mem.bytes = (writeRuns s.fuses s.dev (cipherWho o) o.dst out).mem.bytes)))

/-- Jobs, claims and counters (R134, R196, R287, R288, R476): JOB_START makes the context RUNNING, and where Intaglio needs a relay
it waits for the relay's identity, or ends with NO_RELAY where RELAY_DEV is not in its place; JOB_END returns it to OPEN,
STATE_CHECK answers the plan's status and its report, CLAIM_SET gives its counters their values; COUNTER_CLEAR leaves the core's
diagnostic counters at 0 and UPD_CLEAR those of its updates, and the other core counters and device memory stay. -/
def Obligations.JobsClaimsAndCounters : Prop :=
  (∀ (w : Writer) (g a : Nat) (s : State), g < 4096 → a < 2 ^ 128 → takes s w (0x7000 + g) 0x1A a →
      (s.dev.ctx g).state = .opened → (stateReport s.fuses (invoked s w (0x7000 + g) 0x1A) g).1 = 0 → jobCores s.fuses s.dev g = 0 →
      (bit a 1 = true → s.fuses.longHaul = true) →
      (bit a 0 = true → s.fuses.longHaul = true) →
      Leads (.jobStart w g a) s (fun d' => (d'.ctx g).state = .running ∧ (d'.ctx g).job = a ∧ ended s w 0 d' ∧
        d'.cores = s.dev.cores ∧ d'.mem = s.dev.mem)) ∧
  (∀ (w : Writer) (g a : Nat) (s : State), g < 4096 → a < 2 ^ 128 → takes s w (0x7000 + g) 0x1A a →
      (s.dev.ctx g).state = .opened → (stateReport s.fuses (invoked s w (0x7000 + g) 0x1A) g).1 = 0 → jobCores s.fuses s.dev g = 0 →
      bit a 1 = false → bit a 0 = true → s.fuses.longHaul = false →
      Leads (.jobStart w g a) s (fun d' => (d'.ctx g).state = .opened ∧ d'.cores = s.dev.cores ∧ d'.mem = s.dev.mem ∧
        if relayOk s.fuses s.dev (bits a 31 16) = true then
          goesOn s w d' ∧ d'.host.relays = s.dev.host.relays ++ [{ handle := newHandle s w, ctx := g, arg := a }]
        else ended s w Status.noRelay d')) ∧
  (∀ (w : Writer) (g : Nat) (s : State), g < 4096 → takes s w (0x7000 + g) 0x1B 0 → (s.dev.ctx g).state = .running →
      ctxBusy s.fuses s.dev g = false →
      Leads (.jobEnd w g) s (fun d' => (d'.ctx g).state = .opened ∧ ended s w 0 d' ∧ d'.cores = s.dev.cores ∧
        d'.mem = s.dev.mem)) ∧
  (∀ (w : Writer) (s : State), w.prin < 4096 → takes s w 0x3190 1 0 →
      Leads (.stateCheck w) s (fun d' => ended s w (stateReport s.fuses (invoked s w 0x3190 1) w.prin).1 d' ∧
        obj s.fuses d' (ctxIdx w.prin 0x3191) 0 = leNat (stateReport s.fuses (invoked s w 0x3190 1) w.prin).2 ∧ d'.mem = s.dev.mem)) ∧
  (∀ (w : Writer) (a : Nat) (s : State), w.prin < 4096 → a < 2 ^ 128 → takes s w 0x3140 0 a → bit a 39 = false →
      1 ≤ bits a 28 16 → bits a 28 16 ≤ 4096 → bits a 15 0 + bits a 28 16 ≤ obj s.fuses s.dev (0x7000 + w.prin) 0x0C →
      ctxBusy s.fuses s.dev w.prin = false →
      Leads (.claimSet w a) s (fun d' => ended s w 0 d' ∧ d'.mem = s.dev.mem ∧ ∀ i, i < bits a 28 16 →
        SMap.find? d'.claims (claimPhys s.fuses s.dev w.prin (bits a 15 0 + i)) =
          some { value := bits a 127 64, init := bits a 127 64, group := none })) ∧
  (∀ (w : Writer) (a : Nat) (s : State), w.prin < 4096 → a < 2 ^ 128 → takes s w 0x3140 0 a →
      (bits a 28 16 = 0 ∨ 4096 < bits a 28 16 ∨ obj s.fuses s.dev (0x7000 + w.prin) 0x0C < bits a 15 0 + bits a 28 16) →
      Leads (.claimSet w a) s (fun d' => ended s w Status.claimGrant d' ∧ d'.claims = s.dev.claims)) ∧
  (∀ (w : Writer) (c : Nat) (s : State), c < 128 → takes s w (0xA100 + c) 0x20 0 →
      Leads (.counterClear w c) s (fun d' => ended s w 0 d' ∧ (∀ k, 0x10 ≤ k → k ≤ 0x1E → ctr d' (cIdx c) k = 0) ∧
        (∀ k, 0x21 ≤ k → k ≤ 0x25 → ctr d' (cIdx c) k = ctr s.dev (cIdx c) k) ∧ d'.mem = s.dev.mem ∧ d'.cores = s.dev.cores)) ∧
  (∀ (w : Writer) (c : Nat) (s : State), c < 128 → takes s w (0xA100 + c) 0x28 0 →
      Leads (.updClear w c) s (fun d' => ended s w 0 d' ∧ (∀ k, 0x21 ≤ k → k ≤ 0x25 → ctr d' (cIdx c) k = 0) ∧
        (∀ k, 0x10 ≤ k → k ≤ 0x1E → ctr d' (cIdx c) k = ctr s.dev (cIdx c) k) ∧ d'.mem = s.dev.mem ∧ d'.cores = s.dev.cores))

/-! ## Command rings and the host interface (chapter 18) -/

/-- The rows of ring entries: which entries each knows and what each entry does (R403, R464, R467, R474, R475, R580). -/
def Sys2Proof.Stmt.ringRows :
    List ((Nat → Instr) × (List Byte → Bool) × (Fuses → Dev → Nat → Nat → List Byte → Dev)) :=
  [(.loadProgram, (fun b => entryKind b == 3), fun f d h g b => loadCmd f d h g (field b 64 8) (bit (field b 72 1) 0)),
   (.coreStop, isCore 0, fun f d h g b => Machine.coreStop f d h g (field b 80 16)),
   (.coreResume, isCore 1, fun f d h g b => Machine.coreResume f d h g (field b 80 16)),
   (.coreRelease, isCore 2, fun f d h g b => Machine.coreRelease f d h g (field b 80 16)),
   (.coreFlush, isCore 3, fun f d h g b => Machine.coreFlush f d h g (field b 80 16) (field b 65 1)),
   (.coreReset, isCore 4, fun f d h g b => coreResetCmd f d h g (field b 80 16)),
   (.mapPages, (fun b => entryKind b == 5), fun f d h g b => mapCmd f d h g (field b 64 8) (field b 72 8) (field b 80 8) (field b 88 1)),
   (.unmapPages, (fun b => entryKind b == 6), fun f d h g b => unmapCmd f d h g (field b 64 8) (field b 72 8)),
   (.nopCommand, (fun b => entryKind b == 7), fun f d h _ _ => completeHandle f d h 0 0)]

/-- The mapping that a MAP entry asks for (R464). -/
def Sys2Proof.Stmt.mappingOf (b : List Byte) : Mapping :=
  { caddr := field b 64 8, daddr := field b 72 8, len := field b 80 8,
    write := bit (field b 88 1) 0, large := bit (field b 88 1) 1 }

/-- Device memory without a poisoned line and with no stack out of order. -/
abbrev Sys2Proof.Stmt.sound (s : State) : Prop := s.dev.mem.poison = [] ∧ s.dev.mem.hidden = [] ∧ s.dev.mem.hbm = []

/-- MAP, UNMAP and LOAD (R109, R464, R465, R467, R475): a range that passes the checks joins the context's mappings, and a mapped
range leaves them, or stays until the accesses that were translated through it have completed; a LOAD with HOLD whose descriptor and images pass every check fills the stroke store and the counter files and
waits for RELEASE; a NOP entry completes and does nothing else. -/
def Obligations.MapsAndLoads : Prop :=
  (∀ (g : Nat) (s : State) (e : FetchedCmd), heads s g e (fun b => entryKind b == 5) → heldOpen s e.handle →
      mapCheck s.fuses (popped s g) g (field e.bytes 64 8) (field e.bytes 72 8) (field e.bytes 80 8) (field e.bytes 88 1) = 0 →
      Leads (.mapPages g) s (fun d' => handleEnds d' e.handle 0 ∧ d'.cores = s.dev.cores ∧ d'.mem = s.dev.mem ∧
        (d'.ctx g).maps = (s.dev.ctx g).maps ++ [mappingOf e.bytes])) ∧
  (∀ (g : Nat) (s : State) (e : FetchedCmd), heads s g e (fun b => entryKind b == 6) → heldOpen s e.handle →
      entryForm e.bytes = true → (ctxRuns s.dev g false (field e.bytes 64 8) (field e.bytes 72 8)).isSome = true →
      cutsLarge (s.dev.ctx g).maps (field e.bytes 64 8) (field e.bytes 72 8) = false → (∀ m ∈ (s.dev.ctx g).maps, m.going = none) →
      (∀ m ∈ (s.dev.ctx g).maps, ∀ p ∈ partMap m (field e.bytes 64 8) (field e.bytes 72 8) e.handle,
        mapTouched s.fuses s.dev g p = false) →
      Leads (.unmapPages g) s (fun d' => handleEnds d' e.handle 0 ∧ d'.cores = s.dev.cores ∧ d'.mem.bytes = s.dev.mem.bytes ∧
        (d'.ctx g).maps = ((s.dev.ctx g).maps.map (fun m => cutMap m (field e.bytes 64 8) (field e.bytes 72 8))).flatten)) ∧
  (∀ (g : Nat) (s : State) (e : FetchedCmd), heads s g e (fun b => entryKind b == 6) → heldOpen s e.handle →
      ctxRuns s.dev g false (field e.bytes 64 8) (field e.bytes 72 8) = none →
      Leads (.unmapPages g) s (fun d' => handleEnds d' e.handle Status.unmapRange ∧ (d'.ctx g).maps = (s.dev.ctx g).maps)) ∧
  (∀ (g : Nat) (s : State) (e : FetchedCmd) (m p : Mapping), heads s g e (fun b => entryKind b == 6) → heldOpen s e.handle →
      (ctxRuns s.dev g false (field e.bytes 64 8) (field e.bytes 72 8)).isSome = true →
      cutsLarge (s.dev.ctx g).maps (field e.bytes 64 8) (field e.bytes 72 8) = false →
      m ∈ (s.dev.ctx g).maps → m.going = none → p ∈ partMap m (field e.bytes 64 8) (field e.bytes 72 8) e.handle →
      mapTouched s.fuses s.dev g p = true →
      Leads (.unmapPages g) s (fun d' => heldOpen { s with dev := d' } e.handle ∧ p ∈ (d'.ctx g).maps ∧ d'.mem.bytes = s.dev.mem.bytes)) ∧
  (∀ (g : Nat) (s : State) (e : FetchedCmd) (rs rf rb : List (Nat × Nat)), heads s g e (fun b => entryKind b == 3) →
      heldOpen s e.handle → bit (field e.bytes 72 1) 0 = true → ctxRuns s.dev g false (field e.bytes 64 8) 512 = some rs →
      sound s → s.dev.host.loads = [] →
      loadReady s.fuses s.dev { handle := e.handle, ctx := g, desc := field e.bytes 64 8, hold := true } = true →
      let l := runBytes s.dev rs
      let c := field l 2 1
      loadCheck s.fuses s.dev g l = 0 → imageRuns s.dev g l .F = some rf → imageRuns s.dev g l .B = some rb →
      (field l 4 2 ≠ 0 → sha256 (runBytes s.dev rf) = slice l 24 32) → (field l 6 2 ≠ 0 → sha256 (runBytes s.dev rb) = slice l 56 32) →
      Leads (.loadProgram g) s (fun d' => handleEnds d' e.handle 0 ∧ d'.mem.bytes = s.dev.mem.bytes ∧
        (d'.core c).store = storeOf 0 (pieces 16 (field l 4 2) (runBytes s.dev rf) ++ pieces 16 (field l 6 2) (runBytes s.dev rb)) ∧
        (d'.core c).fLen = field l 4 2 ∧ (d'.core c).bLen = field l 6 2 ∧ (d'.core c).held = true ∧
        (d'.core c).tokens = countersOf l 128 128 ∧ (d'.core c).credits = countersOf l 384 64 ∧
        (d'.core c).f.pc = 0 ∧ (d'.core c).b.pc = field l 4 2 ∧ (d'.core c).plate = (s.dev.core c).plate)) ∧
  (∀ (g : Nat) (s : State) (e : FetchedCmd), heads s g e (fun b => entryKind b == 7) → heldOpen s e.handle →
      Leads (.nopCommand g) s (fun d' => handleEnds d' e.handle 0 ∧ (d'.ctx g).fetched = [] ∧ d'.cores = s.dev.cores ∧
        d'.mem = s.dev.mem))

/-- CORE commands on one core (R110, R114, R129, R474, R580): STOP stops both threads between strokes and completes; RESUME takes
a STOPPED thread on; RELEASE ends the hold; FLUSH empties a queue; RESET leaves the core's counters at 0 and goes on. -/
def Obligations.CoreCommandsAct : Prop :=
  (∀ (g c : Nat) (s : State) (e : FetchedCmd), heads s g e (isCore 0) → heldOpen s e.handle → c < 128 →
      field e.bytes 80 16 = 2 ^ c → coresRefused s.fuses s.dev g (2 ^ c) = 0 → (s.dev.core c).coll = none →
      (s.dev.core c).f.state = .run → (s.dev.core c).b.state = .wait → (s.dev.core c).f.claiming = false →
      (s.dev.core c).b.claiming = false →
      Leads (.coreStop g) s (fun d' => handleEnds d' e.handle 0 ∧ (d'.core c).f.state = .stopped ∧ (d'.core c).b.state = .stopped ∧
        (d'.core c).f.pc = (s.dev.core c).f.pc ∧ apart c s.dev d')) ∧
  (∀ (g c : Nat) (s : State) (e : FetchedCmd), heads s g e (isCore 1) → heldOpen s e.handle → c < 128 →
      field e.bytes 80 16 = 2 ^ c → coresRefused s.fuses s.dev g (2 ^ c) = 0 → (s.dev.core c).coll = none →
      (s.dev.core c).f.state = .stopped → (s.dev.core c).b.state = .idle → (s.dev.core c).f.pc < ((s.dev.core c).image .F).2 →
      checkStroke s.fuses (popped s g) c .F = none →
      Leads (.coreResume g) s (fun d' => handleEnds d' e.handle 0 ∧ (d'.core c).f.state = .run ∧
        (d'.core c).f.pc = (s.dev.core c).f.pc ∧ (d'.core c).b = (s.dev.core c).b ∧ apart c s.dev d')) ∧
  (∀ (g c : Nat) (s : State) (e : FetchedCmd), heads s g e (isCore 2) → heldOpen s e.handle → c < 128 →
      field e.bytes 80 16 = 2 ^ c → coresRefused s.fuses s.dev g (2 ^ c) = 0 → (s.dev.core c).held = true →
      (s.dev.core c).f.state = .idle → 0 < (s.dev.core c).fLen → (s.dev.core c).f.pc < (s.dev.core c).fLen → (s.dev.core c).bLen = 0 →
      checkStroke s.fuses ((popped s g).modCore c (fun k => { k with held := false })) c .F = none →
      Leads (.coreRelease g) s (fun d' => handleEnds d' e.handle 0 ∧ (d'.core c).held = false ∧ (d'.core c).f.state = .run ∧
        (d'.core c).b = (s.dev.core c).b ∧ apart c s.dev d')) ∧
  (∀ (g c q : Nat) (s : State) (e : FetchedCmd), heads s g e (isCore 3) → heldOpen s e.handle → c < 128 → q < 4 →
      field e.bytes 80 16 = 2 ^ c → field e.bytes 65 1 = 2 ^ q → coresRefused s.fuses s.dev g (2 ^ c) = 0 →
      ((s.dev.core c).th (queueOwner q)).state = .idle → (s.dev.core c).queues.length = 4 →
      Leads (.coreFlush g) s (fun d' => handleEnds d' e.handle 0 ∧ ((d'.core c).queue q).items = [] ∧
        ((d'.core c).queue q).rp = 0 ∧ ((d'.core c).queue q).wp = 0 ∧ apart c s.dev d')) ∧
  (∀ (g c : Nat) (s : State) (e : FetchedCmd), heads s g e (isCore 4) → heldOpen s e.handle → c < 128 →
      field e.bytes 80 16 = 2 ^ c → coresRefused s.fuses s.dev g (2 ^ c) = 0 → s.dev.resets = [] → s.dev.codecs = [] →
      (s.dev.core c).movF = [] → (s.dev.core c).movB = [] → (s.dev.core c).upd = none → dumpReady s.fuses s.dev = true →
      Leads (.coreReset g) s (fun d' => (d'.core c).tokens = [] ∧ (d'.core c).credits = [] ∧ (d'.core c).store = [] ∧
        (d'.core c).plate = [] ∧ d'.resets.map ResetRun.unit = [coreUnit c] ∧ d'.resets.map ResetRun.handles = [[e.handle]] ∧
        (SMap.find? d'.handles e.handle).map HandleRec.complete = some false))

/-- The command rings (R467, R468, R488): the entry at the head of a ring starts once its FENCE holds, and leaves the ring; one
whose FENCE does not hold stays; a DICT entry invokes its CMD object for its context, here KEY_ERASE of a granted slot, which no
ring can ask of the slots 0 to 3 (R395). -/
def Obligations.RingEntriesStart : Prop :=
  (∀ p ∈ ringRows, ∀ (g : Nat) (s : State) (e : FetchedCmd), heads s g e p.2.1 →
      exec (p.1 g) s = .next (after s (p.2.2 s.fuses (popped s g) e.handle g e.bytes))) ∧
  (∀ p ∈ ringRows, ∀ (g : Nat) (s : State) (e : FetchedCmd), calm s → (s.dev.ctx g).fetched = [e] →
      entryFence e.bytes = true → fenceOk s.dev g = false → Leads (p.1 g) s (fun d' => d' = s.dev)) ∧
  (∀ (g : Nat) (x : Outside) (s : State) (e : FetchedCmd) (o : Obj), heads s g e (fun b => entryKind b == 1) →
      objRow (field e.bytes 8 2) (field e.bytes 10 1) = some o → o.acc = .cmd → o.len ≤ 64 →
      zeroAt e.bytes (64 + o.len) (64 - o.len) = true →
      cmdCheck s.fuses (popped s g) g (field e.bytes 8 2) (field e.bytes 10 1) 0 (slice e.bytes 64 o.len) false = 0 →
      exec (.dict g x) s = .next (after s (cmdRun s.fuses
        (keepHandle (popped s g) g (field e.bytes 8 2) (field e.bytes 10 1) e.handle) { prin := g } ringSrc e.handle
        (field e.bytes 8 2) (field e.bytes 10 1) (slice e.bytes 64 o.len) x))) ∧
  (∀ (g : Nat) (s : State) (e : FetchedCmd), heads s g e (fun b => entryKind b == 1) → heldOpen s e.handle →
      objRow (field e.bytes 8 2) (field e.bytes 10 1) = none →
      Leads (.dict g {}) s (fun d' => handleEnds d' e.handle Status.noObject ∧ d'.cores = s.dev.cores ∧ d'.mem = s.dev.mem)) ∧
  (∀ (g : Nat) (s : State) (e : FetchedCmd), heads s g e (fun b => entryKind b == 1) → heldOpen s e.handle →
      field e.bytes 8 2 = 0x6000 → field e.bytes 10 1 = 2 → zeroAt e.bytes 65 63 = true →
      cmdCheck s.fuses (popped s g) g 0x6000 2 0 (slice e.bytes 64 1) false = 0 → busesFree s → s.dev.vault.ops = [] →
      Leads (.dict g {}) s (fun d' =>
        if slotGranted s.fuses s.dev g ringSrc (field e.bytes 64 1) = true then
          SMap.find? d'.vault.slots (field e.bytes 64 1) = none ∧ handleEnds d' e.handle 0
        else d'.vault = s.dev.vault ∧ handleEnds d' e.handle Status.slotGrant)) ∧
  (∀ (f : Fuses) (d : Dev) (g sl : Nat), sl < 4 → g < 4096 → slotGranted f d g ringSrc sl = false)

/-- The command processor (R469): a fetch of one good entry takes a handle and advances CMD_CONS; a read that fails puts the
context into ERROR, as a ring timeout does (R461). -/
def Obligations.CommandsAreFetched : Prop :=
  (∀ (b : List Byte) (g : Nat) (s : State), calm s → nextFetch s.fuses s.dev = some g → s.dev.frozen 0x8000 = false →
      ((s.dev.ctx g).cmdProd + 2 ^ 32 - (s.dev.ctx g).cmdCons) % 2 ^ 32 = 1 → (s.dev.ctx g).fetched = [] →
      entryForm (slice b 0 128) = true →
      Leads (.commandFetch [b] false) s (fun d' =>
        (d'.ctx g).cmdCons = ((s.dev.ctx g).cmdCons + 1) % 2 ^ 32 ∧
          (d'.ctx g).fetched = [⟨slice b 0 128, (takeHandle s.dev g {}).2⟩] ∧ d'.host.lastCtx = g ∧
          (SMap.find? d'.handles (takeHandle s.dev g {}).2).map HandleRec.complete = some false ∧ d'.mem = s.dev.mem)) ∧
  (∀ (l : List (List Byte)) (g : Nat) (s : State), calm s → nextFetch s.fuses s.dev = some g → s.dev.frozen 0x8000 = false →
      Leads (.commandFetch l true) s (fun d' => (d'.ctx g).state = .error ∧ (d'.ctx g).fetched = [])) ∧
  (∀ (g : Nat) (s : State), calm s → (s.dev.ctx g).live = true →
      Leads (.ringDmaTimeout g) s (fun d' => (d'.ctx g).state = .error ∧ (d'.ctx g).fetched = [] ∧ d'.mem = s.dev.mem))

/-- Doorbells, the mailbox, handle records and MSI-X (R460, R469, R470, R472, R473): CMD_DB with a number the ring can hold becomes
CMD_PROD, one beyond it leaves CMD_PROD; EVT_DB becomes EVT_CONS and frees the completed handles whose events it passes; MBOX_GO
with a good untagged local request puts it into the context's queue; the read of a completed handle record frees its entry; and a
message that is due is sent. -/
def Obligations.DoorbellsAndMailbox : Prop :=
  (∀ (port g v : Nat) (s : State), calm s → pageLive s.fuses s.dev port g = true → v < 2 ^ 32 →
      (v + 2 ^ 32 - (s.dev.ctx g).cmdCons) % 2 ^ 32 ≤ obj s.fuses s.dev (0x7000 + g) 4 →
      Leads (.cmdDb port g v) s (fun d' => d'.ctx g = { s.dev.ctx g with cmdProd := v } ∧ d'.handles = s.dev.handles)) ∧
  (∀ (port g v : Nat) (s : State), calm s → pageLive s.fuses s.dev port g = true → v < 2 ^ 32 →
      obj s.fuses s.dev (0x7000 + g) 4 < (v + 2 ^ 32 - (s.dev.ctx g).cmdCons) % 2 ^ 32 →
      Leads (.cmdDb port g v) s (fun d' => (d'.ctx g).cmdProd = (s.dev.ctx g).cmdProd)) ∧
  (∀ (port g v : Nat) (s : State), calm s → pageLive s.fuses s.dev port g = true →
      Leads (.evtDb port g v) s (fun d' => (d'.ctx g).evtCons = v % 2 ^ 32 ∧
        ∀ h r i, SMap.find? d'.handles h = some r → h / 2 ^ 20 = g → r.complete = true → r.event = some i →
          passed i (v % 2 ^ 32) = false)) ∧
  (∀ (port g v : Nat) (req : List Byte) (s : State), mboxLive s.fuses s.dev port g = true →
      (s.dev.ctx g).mboxState ≠ 1 → v ≠ 0 → v ≤ 2048 →
      let q := slice req 0 v
      frameLen q ≤ v → frameTagged q = false → requestOk (q.take (frameLen q)) = true → frameRemote q = false →
      frameNear q = false →
      Leads (.mboxGo port g v req) s (fun d' => (d'.ctx g).mboxState = 1 ∧
        d'.host.queue = s.dev.host.queue ++ [{ src := g, addr := 0, bytes := q.take (frameLen q) }])) ∧
  (∀ (prin g : Nat) (s : State) (r : HandleRec), calm s → g < 4096 → (prin = 0 ∨ prin = g) →
      SMap.find? s.dev.handles (obj s.fuses s.dev (0x7000 + g) 0x20) = some r → r.complete = true →
      Leads (.handleRecord prin g) s (fun d' => d'.handles = s.dev.handles.del (obj s.fuses s.dev (0x7000 + g) 0x20))) ∧
  (∀ (g : Nat) (s : State), calm s → (s.dev.ctx g).intrDue = true → obj s.fuses s.dev (0x7000 + g) 7 ≠ 0xFFFF →
      s.dev.frozen 0x8000 = false →
      Leads (.msixModeration g) s (fun d' => (d'.ctx g).intrDue = false ∧
        Out.msix (obj s.fuses s.dev (0x7000 + g) 1) (obj s.fuses s.dev (0x7000 + g) 7) ∈ d'.out))

/-- The life of a context (R457, R461, R465, R470, R477): CTX_OPEN opens a FREE context with a handle grant, CTX_CLOSE of one without
cores or keys frees it, or leaves it CLOSING while an access that was translated has not completed, and HANDLE_SWEEP frees every completed entry; a function level reset closes a VF's contexts in ascending
order, and with no other context the PF's leaves context 0's rings and mailbox as a device reset does. -/
def Obligations.ContextsOpenAndClose : Prop :=
  (∀ (w : Writer) (g : Nat) (s : State), g < 4096 → takes s w (0x7000 + g) 0x18 0 → (s.dev.ctx g).state = .free →
      obj s.fuses s.dev (0x7000 + g) 0x0D ≠ 0 →
      Leads (.ctxOpen w g) s (fun d' => (d'.ctx g).state = .opened ∧ (d'.ctx g).maps = (s.dev.ctx g).maps ∧ ended s w 0 d' ∧
        d'.mem = s.dev.mem)) ∧
  (∀ (w : Writer) (g : Nat) (s : State), g < 4096 → g ≠ 0 → takes s w (0x7000 + g) 0x19 0 → handleCtx w.prin ≠ g →
      ((s.dev.ctx g).state = .opened ∨ (s.dev.ctx g).state = .running ∨ (s.dev.ctx g).state = .error) →
      grantedCores s.fuses s.dev g = [] → keySlots s.fuses s.dev g = [] → s.dev.proof.ctx ≠ g →
      (∀ r ∈ s.dev.host.closes, r.ctx ≠ g) → (∀ o ∈ s.dev.vault.ops, o.ctx ≠ g) → SMap.find? s.dev.handles 0 = none →
      (∀ m ∈ (s.dev.ctx g).maps, mapTouched s.fuses s.dev g m = false) →
      Leads (.ctxClose w g) s (fun d' => d'.ctx g = {} ∧ ended s w 0 d' ∧ d'.mem.bytes = s.dev.mem.bytes ∧
        d'.cores = s.dev.cores ∧ ∀ g', g' ≠ g → (d'.ctx g').maps = (s.dev.ctx g').maps)) ∧
  (∀ (w : Writer) (g : Nat) (s : State) (m : Mapping), g < 4096 → g ≠ 0 → takes s w (0x7000 + g) 0x19 0 → handleCtx w.prin ≠ g →
      ((s.dev.ctx g).state = .opened ∨ (s.dev.ctx g).state = .running ∨ (s.dev.ctx g).state = .error) →
      grantedCores s.fuses s.dev g = [] → keySlots s.fuses s.dev g = [] → s.dev.proof.ctx ≠ g →
      (∀ r ∈ s.dev.host.closes, r.ctx ≠ g) → m ∈ (s.dev.ctx g).maps → s.dev.host.bar2.any (fun b =>
        b.runs.any (fun r => meets m.daddr m.len r.1 r.2)) = true →
      Leads (.ctxClose w g) s (fun d' => (d'.ctx g).state = .closing ∧ goesOn s w d' ∧ d'.cores = s.dev.cores)) ∧
  (∀ (w : Writer) (s : State), takes s w 0x7000 0x19 0 →
      Leads (.ctxClose w 0) s (fun d' => (d'.ctx 0).state = (s.dev.ctx 0).state ∧ ended s w Status.ctxState d')) ∧
  (∀ (w : Writer) (g : Nat) (s : State), g < 4096 → takes s w (0x7000 + g) 0x22 0 →
      Leads (.handleSweep w g) s (fun d' => ended s w 0 d' ∧
        ∀ h r, SMap.find? d'.handles h = some r → h / 2 ^ 20 = g → r.complete = true → h = newHandle s w)) ∧
  (∀ (fn : Nat) (s : State), calm s → fn ≠ 0 →
      exec (.functionLevelReset fn) s = .next (after s
        (((usedCtxs s.dev).filter (fun g => obj s.fuses s.dev (0x7000 + g) 1 == fn)).foldl (closeCtx s.fuses none) s.dev))) ∧
  (∀ (s : State), calm s → usedCtxs s.dev = [] →
      Leads (.functionLevelReset 0) s (fun d' => (d'.ctx 0).cmdCons = 0 ∧ (d'.ctx 0).cmdProd = 0 ∧ (d'.ctx 0).evtProd = 0 ∧
        (d'.ctx 0).evtCons = 0 ∧ (d'.ctx 0).mboxState = 0 ∧ (d'.ctx 0).state = (s.dev.ctx 0).state ∧
        obj s.fuses d' 0x7000 3 = 0 ∧ d'.mem = s.dev.mem))

/-- BAR2 and the PCIe ports (R454 to R456, R466): a mapped read is answered with its bytes, a mapped write writes them or waits
for the memory it writes, BAR2_BASE
is staged, a failover, asked for or not, moves the device to the other port, and a reset of the port not in use clears its
link. -/
def Obligations.Bar2AndPciePorts : Prop :=
  (∀ (port fn o n : Nat) (s : State) (rs : List (Nat × Nat)), calm s → port = obj s.fuses s.dev 0xD000 0 →
      bar2Runs s.fuses s.dev fn o n false = some rs → s.dev.host.bar2 = [] →
      rs.all (runReady s.fuses s.dev (hostWho s.fuses s.dev)) = true → s.dev.frozen 0x8000 = false →
      Leads (.bar2Read port fn o n) s (fun d' =>
        Out.bar2Reply (some (runBytes s.dev rs)) (!(poisonedIn s.fuses s.dev rs).isEmpty) ∈ d'.out ∧
          d'.mem.bytes = s.dev.mem.bytes)) ∧
  (∀ (port fn o : Nat) (l : List Byte) (s : State) (rs : List (Nat × Nat)), calm s → port = obj s.fuses s.dev 0xD000 0 →
      bar2Runs s.fuses s.dev fn o l.length true = some rs → s.dev.host.bar2 = [] →
      rs.all (writeReady s.fuses s.dev (hostWho s.fuses s.dev)) = true →
      Leads (.bar2Write port fn o l) s (fun d' => d'.mem = (writeRuns s.fuses s.dev (hostWho s.fuses s.dev) rs l).mem ∧
        d'.cores = s.dev.cores)) ∧
  (∀ (port fn o : Nat) (l : List Byte) (s : State) (rs : List (Nat × Nat)), calm s → port = obj s.fuses s.dev 0xD000 0 →
      bar2Runs s.fuses s.dev fn o l.length true = some rs → s.dev.host.bar2 = [] →
      rs.all (writeReady s.fuses s.dev (hostWho s.fuses s.dev)) = false →
      Leads (.bar2Write port fn o l) s (fun d' => d'.mem = s.dev.mem ∧
        d'.host.bar2 = [{ who := hostWho s.fuses s.dev, runs := rs, data := some l }])) ∧
  (∀ (w : Writer) (fn v : Nat) (s : State), calm s → fn < 256 → writeReach s.fuses s.dev w.prin (0xD100 + fn) 1 = 0 →
      v % 2 ^ 36 = 0 → v ≤ 2 ^ 48 - 2 ^ 36 → (s.dev.prin w.prin).staged = [] →
      Leads (.bar2Base w fn v) s (fun d' => (d'.prin w.prin).staged = [⟨0xD100 + fn, 1, v, 8⟩] ∧ d'.objs = s.dev.objs)) ∧
  (∀ (l0 l1 : Nat) (s : State), calm s → obj s.fuses s.dev 0xD000 1 = 1 → s.dev.proof.state = 0 → obj s.fuses s.dev 0xD000 0 ≤ 1 →
      (if obj s.fuses s.dev 0xD000 0 = 0 then l0 % 16 = 0 ∧ l1 % 16 = 2 else l1 % 16 = 0 ∧ l0 % 16 = 2) →
      Leads (.pcieFailover l0 l1) s (fun d' => obj s.fuses d' 0xD000 0 = 1 - obj s.fuses s.dev 0xD000 0 ∧ d'.mem = s.dev.mem ∧
        d'.cores = s.dev.cores)) ∧
  (∀ (w : Writer) (s : State), takes s w 0xD000 2 0 → otherUp s.fuses s.dev = true → s.dev.proof.state = 0 →
      Leads (.failover w) s (fun d' => obj s.fuses d' 0xD000 0 = 1 - obj s.fuses s.dev 0xD000 0 ∧ ended s w 0 d' ∧
        d'.mem = s.dev.mem)) ∧
  (∀ (w : Writer) (s : State), takes s w 0xD000 2 0 → otherUp s.fuses s.dev = false →
      Leads (.failover w) s (fun d' => obj s.fuses d' 0xD000 0 = obj s.fuses s.dev 0xD000 0 ∧
        ended s w Status.failoverRefused d')) ∧
  (∀ (s : State), Leads .standbyPerst s (fun d' =>
      obj s.fuses d' 0xD000 (3 + (1 - obj s.fuses s.dev 0xD000 0)) = 0 ∧ obj s.fuses d' 0xD000 0 = obj s.fuses s.dev 0xD000 0))

/-! ## Intaglio and the long-haul ports (chapters 14 and 15) -/

/-- The device as a FORM or JOIN command finds it. -/
def Sys2Proof.Stmt.igDev (s : State) (w : Writer) (sub : Nat) : Dev := invoked s w 0x5000 sub

/-- A datagram as it joins a holder's queue: with the holder's epoch and its injection stamp (R365, R513). -/
def Sys2Proof.Stmt.queued (s : State) (x : Nat) (g : Dgram) : Dgram :=
  { g with epoch := (s.dev.holder x).epoch, stamp := s.dev.stampNow }

/-- IG_FORM finds no job, no formation under way, and its peer table and IG blocks to be read. -/
abbrev Sys2Proof.Stmt.mayForm (s : State) (w : Writer) : Prop :=
  takes s w 0x5000 0x18 0 ∧ jobRunning (igDev s w 0x18) = false ∧ s.dev.igForm = none ∧
    runReady s.fuses s.dev { tile := 0, act := 3, stamp := s.dev.stampNow } (peerTable s.fuses s.dev) = true ∧
    (servedXs s.fuses s.dev).all (fun x => holdHave s.fuses s.dev x (blockRange s.fuses s.dev x)) = true

/-- The configuration is whole: the peer table, the IG blocks and this site (R351, R359, R390). -/
abbrev Sys2Proof.Stmt.igWhole (s : State) (w : Writer) : Prop :=
  igConfigOk s.fuses (igDev s w 0x18) (readPeers s.fuses (igDev s w 0x18)) = true ∧
    poisonedIn s.fuses s.dev [peerTable s.fuses s.dev] = []

/-- FORM has gone to every counterpart with this device's digest (R353). -/
abbrev Sys2Proof.Stmt.formsOut (s : State) (d' : Dev) : Prop :=
  ∀ c ∈ counterparts s.fuses s.dev, Out.form (c / 64) (c % 64) (igDigest s.fuses s.dev) ∈ d'.out

/-- Forming the round groups (R353, R384, R390): IG_FORM sends FORM to every counterpart and ends once each has answered with this
device's digest, at the first other digest with IG_MISMATCH, after 120 s with IG_FORM_TIMEOUT, and at once with IG_CONFIG where the
configuration is not whole; IG_JOIN sends JOIN for every holder that is not present. -/
def Obligations.RoundGroupsForm : Prop :=
  (∀ (w : Writer) (e : Outside) (s : State), mayForm s w → igWhole s w →
      (∀ a ∈ e.answers, a.2.2 = igDigest s.fuses s.dev) →
      (∀ c ∈ counterparts s.fuses s.dev, c ∈ e.answers.map (fun a => 64 * a.1 + a.2.1)) →
      Leads (.igForm w e) s (fun d' => ended s w 0 d' ∧ d'.igForm = none ∧ d'.mem.bytes = s.dev.mem.bytes ∧ formsOut s d' ∧
        ∀ x ∈ servedXs s.fuses s.dev, (d'.holder x).state = .formed ∧ (d'.holder x).round = obj s.fuses s.dev 0x5000 0x0B ∧
          (d'.holder x).epoch = obj s.fuses s.dev 0x5000 0x0C ∧ (d'.holder x).coord = 0 ∧
          (d'.holder x).present = 2 ^ igSize s.fuses s.dev - 1)) ∧
  (∀ (w : Writer) (s : State), mayForm s w → igWhole s w → counterparts s.fuses s.dev ≠ [] →
      Leads (.igForm w {}) s (fun d' => goesOn s w d' ∧ d'.igForm = some { handles := [newHandle s w], sent := true } ∧ formsOut s d' ∧
        d'.mem.bytes = s.dev.mem.bytes)) ∧
  (∀ (w : Writer) (e : Outside) (s : State), mayForm s w → igWhole s w →
      (∃ a ∈ e.answers, a.2.2 ≠ igDigest s.fuses s.dev ∧ 64 * a.1 + a.2.1 ∈ counterparts s.fuses s.dev) →
      Leads (.igForm w e) s (fun d' => ended s w Status.igMismatch d' ∧ d'.igForm = none ∧ d'.mem.bytes = s.dev.mem.bytes)) ∧
  (∀ (w : Writer) (e : Outside) (s : State), mayForm s w →
      igConfigOk s.fuses (igDev s w 0x18) (readPeers s.fuses (igDev s w 0x18)) = false →
      Leads (.igForm w e) s (fun d' => ended s w Status.igConfig d' ∧ d'.igForm = none ∧
        ∀ x, (d'.holder x).state = (s.dev.holder x).state ∧ (d'.holder x).present = (s.dev.holder x).present)) ∧
  (∀ (s : State) (r : IgFormRec) (h : Nat), calm s → s.dev.igForm = some r → r.handles = [h] → heldOpen s h →
      Leads .igFormTimeout s (fun d' => d'.igForm = none ∧ handleEnds d' h Status.igFormTimeout ∧
        d'.holders = s.dev.holders)) ∧
  (∀ (w : Writer) (s : State), takes s w 0x5000 0x19 0 →
      (igSites s.fuses s.dev).contains (siteOf s.fuses s.dev (devAddr s.fuses s.dev)) = true →
      (∀ c ∈ counterparts s.fuses s.dev, (SMap.find? s.dev.igPeers (256 * (c % 64) + c / 64)).isSome = true) →
      (∃ x ∈ servedXs s.fuses s.dev, (s.dev.holder x).present.testBit (ownRank s.fuses s.dev) = false) →
      Leads (.igJoin w) s (fun d' => goesOn s w d' ∧ d'.mem = s.dev.mem ∧ ∀ x ∈ servedXs s.fuses s.dev,
        (s.dev.holder x).present.testBit (ownRank s.fuses s.dev) = false → (s.dev.holder x).state ≠ .joining →
          (d'.holder x).state = .joining ∧ (d'.holder x).joinHandles = [newHandle s w] ∧
            (d'.holder x).queue = [queued s x { typ := 9, rank := (d'.holder x).coord, round := (s.dev.holder x).round }] ∧
            ((s.dev.holder x).state ≠ .unformed → (s.dev.holder x).coord ≠ ownRank s.fuses s.dev →
              (d'.holder x).coord = (s.dev.holder x).coord)))

/-- A valid post of a kind is next for the holder of a calm device, and the engine has all that it reads with it (R360, R376). -/
abbrev Sys2Proof.Stmt.posts (s : State) (x kind : Nat) (e : List Byte) : Prop :=
  calm s ∧ nextPost s.fuses s.dev x = some e ∧ postOk s.fuses s.dev x e = true ∧ field e 4 1 = kind ∧
    holdHave s.fuses s.dev x (postNeeds s.fuses s.dev x e) = true

/-- The datagrams of a round's END (R367). -/
def Sys2Proof.Stmt.endsOf (s : State) (x r n : Nat) : List Dgram :=
  ((otherPresent s.fuses s.dev x).map (fun j => (List.range (endParts n)).map (fun p =>
    queued s x { typ := 1, rank := j, round := r, seg := 0xFFFF, group := p, payload := endPart (s.dev.holder x) r n p }))).flatten

/-- HAVE once the round has ended here (R377). -/
def Sys2Proof.Stmt.haveThen (s : State) (x r : Nat) : Nat :=
  2 ^ ownRank s.fuses s.dev + ((((s.dev.holder x).round_ r).recv.filter (fun p => p.2.whole)).map (fun p => 2 ^ p.1)).sum

/-- The posts of a holder (R360 to R363, R367, R377): SEGMENT puts the datagrams of its stream into the queue of every other
present rank, and one that meets a poisoned line none; ROUND_END those of its END and, in strict mode with every contribution whole,
the report; RELEASE frees the slot set; and an invalid post takes the holder out of service. -/
def Obligations.PostsAreTaken : Prop :=
  (∀ (x : Nat) (s : State) (e : List Byte), posts s x 1 e → ((s.dev.holder x).round_ (field e 8 4)).admitted = none →
      holdPoisoned s.fuses s.dev x (postNeeds s.fuses s.dev x e) = false →
      let r := field e 8 4
      let g := field e 12 2
      let a := field e 16 8
      let n := min 65535 (field (holdRead s.fuses s.dev x a 16) 4 4)
      let idx := holdRead s.fuses s.dev x a (planeX n)
      let len := 256 + field idx (16 + 4 * n) 4
      Leads (.segment x) s (fun d' => d'.mem.bytes = s.dev.mem.bytes ∧ d'.cores = s.dev.cores ∧
        (d'.holder x).nextPost = ((s.dev.holder x).nextPost + 1) % 2 ^ 32 ∧
        ((d'.holder x).round_ r).posted = ((s.dev.holder x).round_ r).posted ++ [g] ∧
        SMap.find? ((d'.holder x).round_ r).segs g = some
          { plane := a, len := len, idx := idx,
            book := holdRead s.fuses s.dev x ((s.dev.holder x).blk 32 8 + 256 * field e 24 2) 256 } ∧
        (d'.holder x).queue = (s.dev.holder x).queue ++ ((otherPresent s.fuses s.dev x).map (fun j =>
          (streamDgrams s.fuses s.dev 0 j r g len).map (queued s x))).flatten)) ∧
  (∀ (x : Nat) (s : State) (e : List Byte), posts s x 1 e → holdPoisoned s.fuses s.dev x (postNeeds s.fuses s.dev x e) = true →
      Leads (.segment x) s (fun d' => d'.mem.bytes = s.dev.mem.bytes ∧
        (d'.holder x).nextPost = ((s.dev.holder x).nextPost + 1) % 2 ^ 32 ∧
        (d'.holder x).queue = (s.dev.holder x).queue.filter
          (fun y => !(y.typ == 0 && y.round == field e 8 4 && y.seg == field e 12 2)))) ∧
  (∀ (x : Nat) (s : State) (e : List Byte), posts s x 2 e → (s.dev.holder x).coord ≠ ownRank s.fuses s.dev →
      ((s.dev.holder x).round_ (field e 8 4)).admitted = none →
      (obj s.fuses s.dev 0x5000 0 = 1 ∨ (obj s.fuses s.dev 0x5000 0 = 0 ∧
        subMask (s.dev.holder x).present (haveThen s x (field e 8 4)) = false)) →
      Leads (.roundEnd x) s (fun d' => d'.mem.bytes = s.dev.mem.bytes ∧
        ((d'.holder x).round_ (field e 8 4)).ended = some (field e 14 2) ∧
        (d'.holder x).queue = (s.dev.holder x).queue ++ endsOf s x (field e 8 4) (field e 14 2))) ∧
  (∀ (x : Nat) (s : State) (e : List Byte), posts s x 2 e → (s.dev.holder x).coord ≠ ownRank s.fuses s.dev →
      ((s.dev.holder x).round_ (field e 8 4)).admitted = none → obj s.fuses s.dev 0x5000 0 = 0 →
      subMask (s.dev.holder x).present (haveThen s x (field e 8 4)) = true →
      ((s.dev.holder x).round_ (field e 8 4)).reported = none →
      Leads (.roundEnd x) s (fun d' => ((d'.holder x).round_ (field e 8 4)).reported = some (haveThen s x (field e 8 4)) ∧
        (d'.holder x).queue = (s.dev.holder x).queue ++ endsOf s x (field e 8 4) (field e 14 2) ++
          [queued s x { typ := 4, rank := (s.dev.holder x).coord, round := field e 8 4,
                        payload := leBytes 8 (haveThen s x (field e 8 4)) }])) ∧
  (∀ (x : Nat) (s : State) (e : List Byte), posts s x 3 e → (s.dev.holder x).rounds = [] →
      Leads (.release x) s (fun d' => (d'.holder x).released = field e 8 4 :: (s.dev.holder x).released ∧
        (d'.holder x).nextPost = ((s.dev.holder x).nextPost + 1) % 2 ^ 32 ∧ d'.mem.bytes = s.dev.mem.bytes ∧
        (d'.holder x).queue = (s.dev.holder x).queue ++ (((s.dev.holder x).donating.filter (fun q => decide (q.2 = (field e 8 4 + 1) % 2 ^ 32))).map
          (fun q => (streamDgrams s.fuses s.dev 8 q.1 q.2 0 (stateLen (s.dev.holder x))).map (queued s x))).flatten)) ∧
  (∀ p ∈ ([.segment, .roundEnd, .release] : List (Nat → Instr)), ∀ (x : Nat) (s : State) (e : List Byte), calm s →
      nextPost s.fuses s.dev x = some e → postOk s.fuses s.dev x e = false →
      Leads (p x) s (fun d' => (d'.holder x).state = .fault ∧ (d'.holder x).nextPost = (s.dev.holder x).nextPost ∧
        d'.mem.bytes = s.dev.mem.bytes))

/-- The datagram that a port's egress serves next (R372). -/
abbrev Sys2Proof.Stmt.serves (s : State) (p k : Nat) (g : Dgram) : Prop :=
  calm s ∧ p < 2 ∧ lhUp s.fuses s.dev p = true ∧ unitInReset s.dev (igUnit p) = false ∧ cipherFree s.dev p = true ∧
    nextDest s.fuses s.dev p = some k ∧ headFor s.dev k = some g ∧ s.dev.frozen (0x5000 + 2 * p + g.group % 2) = false

/-- It is built now: the vault bus is not frozen, and what it is made from has been read and is good (R362, R372, R399). -/
abbrev Sys2Proof.Stmt.builds (s : State) (p k : Nat) (g : Dgram) : Prop :=
  serves s p k g ∧ g.again = none ∧ s.dev.frozen (vaultBus p) = false ∧
    holdHave s.fuses s.dev (k / 64) (dgramRanges s.fuses s.dev (k / 64) g) = true ∧
    holdPoisoned s.fuses s.dev (k / 64) (dgramRanges s.fuses s.dev (k / 64) g) = false ∧
    (g.typ = 0 → (SMap.find? ((s.dev.holder (k / 64)).round_ g.round).segs g.seg).isSome = true)

/-- Egress and the ports (R364, R366, R370 to R373, R386, R406): a new datagram is sealed under its rank's key with the port's
next nonce, kept while it may be asked for again, and sent; one sent again is the frame that was kept; a cipher mismatch sends
nothing; a KEEPALIVE goes to every counterpart; a port that goes down loses its retention and its holders move to the other port
when that is UP. -/
def Obligations.LongHaulEgress : Prop :=
  (∀ (p k : Nat) (s : State) (g : Dgram) (fr : List Byte), serves s p k g → g.again = some fr →
      Leads (.lhEgress p false) s (fun d' => Out.longHaul (2 * p + g.group % 2) fr ∈ d'.out ∧ (d'.lhPort p).last = k ∧
        (d'.holder (k / 64)).queue = (s.dev.holder (k / 64)).queue.erase g ∧ (d'.lhPort p).kept = (s.dev.lhPort p).kept ∧
        obj s.fuses d' (0x5010 + p) 9 = obj s.fuses s.dev (0x5010 + p) 9 ∧ d'.mem = s.dev.mem)) ∧
  (∀ (p k : Nat) (s : State) (g : Dgram) (key : List Byte), builds s p k g → s.dev.vault.clash = false →
      slotKey s.dev (obj s.fuses s.dev 0x5030 g.rank) = some key → obj s.fuses s.dev (0x5010 + p) 9 < 2 ^ 64 - 1 →
      let pl := dgramPayload s.fuses s.dev (k / 64) g
      let h := buildHdr s.fuses s.dev p (k / 64) g pl.length
      let fr := lhFrame s.fuses s.dev p (SMap.get [] s.dev.igPeers (256 * g.rank + k / 64)) h
        (gcmSeal key (slice h.toBytes 36 12) h.toBytes pl).1 (gcmSeal key (slice h.toBytes 36 12) h.toBytes pl).2
      Leads (.lhEgress p false) s (fun d' => obj s.fuses d' (0x5010 + p) 9 = obj s.fuses s.dev (0x5010 + p) 9 + 1 ∧
        Out.longHaul (2 * p + g.group % 2) fr ∈ d'.out ∧ d'.mem.bytes = s.dev.mem.bytes ∧
        (d'.lhPort p).kept = (s.dev.lhPort p).kept ++ (if keeps s.dev (k / 64) g = true then [⟨k / 64, g, fr⟩] else []))) ∧
  (∀ (p k : Nat) (s : State) (g : Dgram), builds s p k g →
      Leads (.lhEgress p true) s (fun d' => (d'.lhPort p).kept = (s.dev.lhPort p).kept ∧
        ∀ fr, Out.longHaul (2 * p + g.group % 2) fr ∈ d'.out → Out.longHaul (2 * p + g.group % 2) fr ∈ s.dev.out)) ∧
  (∀ (x : Nat) (h : Holder) (s : State), calm s → s.dev.holders = [(x, h)] → h.live = true →
      Leads .keepaliveSend s (fun d' => d'.holder x = { h with queue := h.queue ++
        ((List.range (igSize s.fuses s.dev)).filter (· ≠ ownRank s.fuses s.dev)).map (fun j =>
          queued s x { typ := 7, rank := j, round := h.round }) })) ∧
  (∀ (p x : Nat) (h : Holder) (s : State), calm s → s.fuses.longHaul = true → p ≤ 1 → (s.dev.lhPort p).up = true →
      s.dev.holders = [(x, h)] → h.port = p → h.state ≠ .unformed → h.state ≠ .joining →
      Leads (.lhPortDown p) s (fun d' => (d'.lhPort p).up = false ∧ (d'.lhPort p).kept = [] ∧ d'.mem.bytes = s.dev.mem.bytes ∧
        (d'.holder x).port = (if lhUp s.fuses s.dev (1 - p) = true then 1 - p else p) ∧ (d'.holder x).state = h.state)) ∧
  (∀ (p : Nat) (s : State), calm s → s.fuses.longHaul = true → p ≤ 1 → (s.dev.lhPort p).up = false →
      lhUp s.fuses (s.dev.modLh p (fun l => { l with up := true })) p = true →
      Leads (.lhPortUp p) s (fun d' => (d'.lhPort p).up = true ∧ lhUp s.fuses d' p = true ∧
        (d'.lhPort p).kept = (s.dev.lhPort p).kept ∧ d'.mem.bytes = s.dev.mem.bytes))

/-- A datagram of a type arrives on an UP port: its frame, its headers and its tag are good, it is for a holder served here
(R364 to R366, R370), and its payload is `pl`. -/
abbrev Sys2Proof.Stmt.arrives (s : State) (p : Nat) (fr : List Byte) (typ x j : Nat) (h : IgHdr) (pl : List Byte) : Prop :=
  calm s ∧ p < 2 ∧ lhUp s.fuses s.dev p = true ∧ s.dev.frozen (vaultBus p) = false ∧ s.dev.vault.clash = false ∧
    ∃ b l key, lhBody fr = some b ∧ lhPayload s.fuses s.dev p b = some l ∧ igHdrOk l = true ∧ h = IgHdr.ofBytes l ∧
      l.length = 64 + h.plen ∧ h.plen ≤ 8192 ∧ h.typ = typ ∧ rankOfDev s.fuses s.dev h.src = some j ∧ h.dst = devAddr s.fuses s.dev ∧
      coordOf s.fuses s.dev h.origin 0 = x ∧ coordOf s.fuses s.dev h.origin 1 = coordOf s.fuses s.dev (devAddr s.fuses s.dev) 1 ∧
      coordOf s.fuses s.dev h.origin 2 = coordOf s.fuses s.dev (devAddr s.fuses s.dev) 2 ∧
      (SMap.find? s.dev.holders x).isSome = true ∧ (s.dev.holder x).port = p ∧ obj s.fuses s.dev 0x5031 j ≠ 0 ∧
      slotKey s.dev (obj s.fuses s.dev 0x5031 j) = some key ∧
      gcmTag key (slice l 36 12) (l.take 48) (slice l 48 h.plen) = l.drop (48 + h.plen) ∧
      pl = gcmCrypt key (slice l 36 12) (slice l 48 h.plen) ∧ payloadOk typ pl = true

/-- The holder serves the datagram's round, one of its two oldest not yet admitted (R374, R379). -/
abbrev Sys2Proof.Stmt.timely (s : State) (x : Nat) (h : IgHdr) : Prop :=
  (s.dev.holder x).live = true ∧
    (h.round = (s.dev.holder x).openRound ∨ h.round = ((s.dev.holder x).openRound + 1) % 2 ^ 32) ∧
    ((s.dev.holder x).round_ h.round).admitted = none

/-- What a rank has contributed to a round, as the holder has it. -/
def Sys2Proof.Stmt.given (s : State) (x j : Nat) (h : IgHdr) : Contrib := (s.dev.holder x).contrib h.round j

/-- A datagram brings a slice of a stream that its group lacks (R363, R373). -/
abbrev Sys2Proof.Stmt.fitsStream (s : State) (q : RecvSeg) (h : IgHdr) (pl : List Byte) : Prop :=
  SMap.find? (SMap.get [] q.groups h.group) h.index = none ∧ h.index < h.k + h.p ∧ h.group < groupCount s.fuses s.dev q.len ∧
    h.k = groupK s.fuses s.dev q.len h.group ∧ pl.length = igSlice s.fuses s.dev

/-- The datagrams of streams and their acknowledgements (R366, R367, R372 to R375, R385): a slice joins its segment, and a data slice
can be read where the stream lies, an END part
its contribution and is acknowledged, an ACK frees retention, a NAK brings the lowest missing datagrams again, a KEEPALIVE is
heard, and a STATE slice joins the joiner's stream. -/
def Obligations.StreamsAreReceived : Prop :=
  (∀ (p : Nat) (fr : List Byte) (x j : Nat) (h : IgHdr) (pl : List Byte) (s : State), arrives s p fr 0 x j h pl → timely s x h →
      (given s x j h).abandoned = false → h.seg ∉ (given s x j h).written →
      (∀ q, SMap.find? (given s x j h).segs h.seg = some q → q.decoded = none ∧ fitsStream s q h pl) →
      (SMap.find? (given s x j h).segs h.seg = none → ∃ q, newStream s.fuses s.dev p h.len = some q ∧ fitsStream s q h pl) →
      Leads (.igSeg p fr) s (fun d' => d'.cores = s.dev.cores ∧ (d'.holder x).queue = (s.dev.holder x).queue ∧
        ∃ q, SMap.find? ((d'.holder x).contrib h.round j).segs h.seg = some q ∧
          (SMap.find? (SMap.get [] q.groups h.group) h.index).isSome = true)) ∧
  (∀ (p : Nat) (fr : List Byte) (x j : Nat) (h : IgHdr) (pl : List Byte) (s : State) (q : RecvSeg), arrives s p fr 0 x j h pl →
      timely s x h → (given s x j h).abandoned = false → h.seg ∉ (given s x j h).written →
      SMap.find? (given s x j h).segs h.seg = none → newStream s.fuses s.dev p h.len = some q → fitsStream s q h pl → h.index < h.k →
      (∀ l ∈ linesOf (sliceAddr s.fuses s.dev q (h.group * igK s.fuses s.dev + h.index)) (igSlice s.fuses s.dev),
        lineStack s.fuses s.dev l = .ready) →
      Leads (.igSeg p fr) s (fun d' => ∃ q', SMap.find? ((d'.holder x).contrib h.round j).segs h.seg = some q' ∧
        q'.place = q.place ∧ sliceOf s.fuses d' q' h.group h.index = pl)) ∧
  (∀ (p : Nat) (fr : List Byte) (x j : Nat) (h : IgHdr) (pl : List Byte) (s : State), arrives s p fr 1 x j h pl → timely s x h →
      endPartOk (given s x j h) h pl = true → ((s.dev.holder x).round_ h.round).ended = none →
      Leads (.igEnd p fr) s (fun d' => d'.mem = s.dev.mem ∧ ((d'.holder x).contrib h.round j).nseg = some (field pl 0 2) ∧
        SMap.find? ((d'.holder x).contrib h.round j).parts h.group = some ((pieces 4 (field pl 4 2) (pl.drop 8)).map leNat) ∧
        (d'.holder x).queue = (s.dev.holder x).queue ++
          [queued s x { typ := 2, rank := j, round := h.round, seg := 0xFFFF, group := h.group }])) ∧
  (∀ (p : Nat) (fr : List Byte) (x j : Nat) (h : IgHdr) (pl : List Byte) (s : State), arrives s p fr 2 x j h pl → timely s x h →
      (s.dev.holder x).donating = [] → h.seg ≠ 0xFFFF →
      Leads (.igAck p fr) s (fun d' => d'.mem = s.dev.mem ∧ (j, h.seg) ∈ ((d'.holder x).round_ h.round).segAcks ∧
        (∀ g ∈ (d'.holder x).queue, g.rank = j → g.round = h.round → g.typ = 0 → g.seg ≠ h.seg) ∧
        (∀ n, ∀ k ∈ (d'.lhPort n).kept, k.x = x → k.dg.rank = j → k.dg.round = h.round → k.dg.typ = 0 → k.dg.seg ≠ h.seg))) ∧
  (∀ (p : Nat) (fr : List Byte) (x j : Nat) (h : IgHdr) (pl : List Byte) (s : State) (q : PostSeg), arrives s p fr 3 x j h pl →
      timely s x h → (s.dev.holder x).donating = [] → SMap.find? ((s.dev.holder x).round_ h.round).segs h.seg = some q →
      h.group < groupCount s.fuses s.dev q.len →
      (∀ g ∈ (s.dev.holder x).queue, g.typ = 0 → g.rank = j → g.round = h.round → g.seg = h.seg → g.group ≠ h.group) →
      let k := groupK s.fuses s.dev q.len h.group
      let n := k + igP s.fuses s.dev
      let missing := (List.range n).filter (fun i => !(leNat (slice pl 0 32)).testBit i)
      Leads (.igNak p fr) s (fun d' => d'.mem = s.dev.mem ∧
        (d'.holder x).queue.map (fun g => (g.typ, g.rank, g.round, g.seg, g.group, g.index)) =
          (s.dev.holder x).queue.map (fun g => (g.typ, g.rank, g.round, g.seg, g.group, g.index)) ++
            (missing.take (k - (n - missing.length))).map (fun i => (0, j, h.round, h.seg, h.group, i)))) ∧
  (∀ (p : Nat) (fr : List Byte) (x j : Nat) (h : IgHdr) (pl : List Byte) (s : State), arrives s p fr 7 x j h pl →
      Leads (.igKeepalive p fr) s (fun d' =>
        d'.holder x = { s.dev.holder x with heard := (s.dev.holder x).heard.put j s.dev.cyc } ∧ d'.mem = s.dev.mem ∧
          d'.cores = s.dev.cores ∧ d'.out = s.dev.out)) ∧
  (∀ (p : Nat) (fr : List Byte) (x j : Nat) (h : IgHdr) (pl : List Byte) (s : State), arrives s p fr 8 x j h pl →
      (s.dev.holder x).state = .joining → (s.dev.holder x).joinFrom = some h.round →
      (∀ q, (s.dev.holder x).joinRecv = some q → fitsStream s q h pl) →
      ((s.dev.holder x).joinRecv = none → ∃ q, newStream s.fuses s.dev p h.len = some q ∧ fitsStream s q h pl) →
      Leads (.igState p fr) s (fun d' => d'.cores = s.dev.cores ∧ ∃ q, (d'.holder x).joinRecv = some q ∧
        (SMap.find? (SMap.get [] q.groups h.group) h.index).isSome = true))

/-- Admission and membership (R377 to R381, R384): a report is kept; the coordinator in strict mode admits PRESENT when the last
one is in; an ADMIT of the coordinator is held, or applied once the round has ended; a newer COMMIT is adopted once its FROM_ROUND has come, and one without
members abandons the group; a JOIN waits for the next ADMIT; the coordinator admits what has come when the wait is over, and
removes a silent rank where the rest is a majority. -/
def Obligations.RoundsAreAdmitted : Prop :=
  (∀ (p : Nat) (fr : List Byte) (x j : Nat) (h : IgHdr) (pl : List Byte) (s : State), arrives s p fr 4 x j h pl → timely s x h →
      (s.dev.holder x).present.testBit j = true →
      ((s.dev.holder x).coord ≠ ownRank s.fuses s.dev ∨ (obj s.fuses s.dev 0x5000 0 = 0 ∧ ∃ k ∈ bitList 64 (s.dev.holder x).present,
        k ≠ j ∧ SMap.find? ((s.dev.holder x).round_ h.round).reports k = none)) →
      Leads (.igReport p fr) s (fun d' => d'.mem = s.dev.mem ∧ ((d'.holder x).round_ h.round).admitted = none ∧
        SMap.find? ((d'.holder x).round_ h.round).reports j = some (field pl 0 8))) ∧
  (∀ (p : Nat) (fr : List Byte) (x j : Nat) (h : IgHdr) (pl : List Byte) (s : State), arrives s p fr 4 x j h pl → timely s x h →
      h.round = (s.dev.holder x).round → ((s.dev.holder x).round_ h.round).ended = none → (s.dev.holder x).present.testBit j = true →
      (s.dev.holder x).coord = ownRank s.fuses s.dev → obj s.fuses s.dev 0x5000 0 = 0 → 1 ≤ obj s.fuses s.dev 0x5000 5 →
      (s.dev.holder x).joiners = [] → (∀ k ∈ bitList 64 (s.dev.holder x).present, k ≠ j →
        (SMap.find? ((s.dev.holder x).round_ h.round).reports k).isSome = true) →
      Leads (.igReport p fr) s (fun d' => d'.mem = s.dev.mem ∧
        ((d'.holder x).round_ h.round).admitted = some ((s.dev.holder x).present, (s.dev.holder x).epoch) ∧
        ∀ k ∈ otherPresent s.fuses s.dev x, ∃ g ∈ (d'.holder x).queue, g.typ = 5 ∧ g.rank = k ∧ g.round = h.round ∧
          g.payload.take 8 = leBytes 8 (s.dev.holder x).present)) ∧
  (∀ (p : Nat) (fr : List Byte) (x j : Nat) (h : IgHdr) (pl : List Byte) (s : State), arrives s p fr 5 x j h pl → timely s x h →
      h.round = (s.dev.holder x).round → ((s.dev.holder x).round_ h.round).ended = none → j = (s.dev.holder x).coord →
      Leads (.igAdmit p fr) s (fun d' => d'.mem = s.dev.mem ∧
        ((d'.holder x).round_ h.round).admitted = some (field pl 0 8, h.epoch) ∧
        (d'.holder x).queue = (s.dev.holder x).queue.filter (fun g => decide (g.round ≠ h.round ∨ g.typ ≥ 5)))) ∧
  (∀ (p : Nat) (fr : List Byte) (x j n : Nat) (h : IgHdr) (pl : List Byte) (s : State), arrives s p fr 5 x j h pl → timely s x h →
      h.round = (s.dev.holder x).round → ((s.dev.holder x).round_ h.round).ended = some n → j = (s.dev.holder x).coord →
      (s.dev.holder x).commits = [] →
      ((s.dev.holder x).round_ ((h.round + 1) % 2 ^ 32)).admitted = none →
      subMask (field pl 0 8) (haveMask s.fuses s.dev x h.round) = true →
      (admitRegions s.fuses s.dev x h.round (field pl 0 8)).all (fun q => holdReady s.fuses s.dev x q.1 q.2) = true →
      Leads (.igAdmit p fr) s (fun d' => (d'.holder x).round = (h.round + 1) % 2 ^ 32 ∧ (d'.holder x).lastAdmit = field pl 0 8 ∧
        (d'.holder x).misses = (if (field pl 0 8).testBit (ownRank s.fuses s.dev) = true then 0
          else min 255 ((s.dev.holder x).misses + 1)))) ∧
  (∀ (p : Nat) (fr : List Byte) (x j : Nat) (h : IgHdr) (pl : List Byte) (s : State), arrives s p fr 6 x j h pl →
      (s.dev.holder x).live = true → (s.dev.holder x).state ≠ .joining → newer16 (field pl 0 2) (s.dev.holder x).epoch = true →
      (s.dev.holder x).commits = [] → roundBefore (s.dev.holder x).round (field pl 4 4) = false →
      ((s.dev.holder x).round_ (s.dev.holder x).round).ended = none → ((s.dev.holder x).round_ (s.dev.holder x).round).admitted = none →
      Leads (.igCommit p fr) s (fun d' => d'.mem = s.dev.mem ∧ (d'.holder x).epoch = field pl 0 2 ∧
        (if field pl 8 8 = 0 then (d'.holder x).state = .abandoned
         else (d'.holder x).present = field pl 8 8 ∧
          (d'.holder x).coord = (if (field pl 8 8).testBit j = true then j else (bitList 64 (field pl 8 8)).headD j) ∧
          (d'.holder x).state = (if (field pl 8 8).testBit (ownRank s.fuses s.dev) then (s.dev.holder x).state else .removed)))) ∧
  (∀ (p : Nat) (fr : List Byte) (x j : Nat) (h : IgHdr) (pl : List Byte) (s : State), arrives s p fr 6 x j h pl →
      (s.dev.holder x).live = true → (s.dev.holder x).state ≠ .joining → newer16 (field pl 0 2) (s.dev.holder x).latest.1 = true →
      field pl 8 8 ≠ 0 → roundBefore (s.dev.holder x).round (field pl 4 4) = true →
      (∀ c ∈ (s.dev.holder x).commits, roundBefore (s.dev.holder x).round c.from_ = true) →
      ((s.dev.holder x).round_ (s.dev.holder x).round).ended = none → ((s.dev.holder x).round_ (s.dev.holder x).round).admitted = none →
      Leads (.igCommit p fr) s (fun d' => d'.mem = s.dev.mem ∧ (d'.holder x).present = (s.dev.holder x).present ∧
        (d'.holder x).epoch = (s.dev.holder x).epoch ∧ (d'.holder x).commits = (s.dev.holder x).commits ++
          [{ epoch := field pl 0 2, from_ := field pl 4 4, present := field pl 8 8, joiner := field pl 16 1, sender := j }])) ∧
  (∀ (p : Nat) (fr : List Byte) (x j : Nat) (h : IgHdr) (pl : List Byte) (s : State), arrives s p fr 9 x j h pl →
      (s.dev.holder x).live = true → (s.dev.holder x).present.testBit j = false →
      j ∉ (s.dev.holder x).joiners →
      Leads (.join p fr) s (fun d' => d'.mem = s.dev.mem ∧ (d'.holder x).joiners = (s.dev.holder x).joiners ++ [j] ∧
        (d'.holder x).present = (s.dev.holder x).present)) ∧
  (∀ (x r : Nat) (s : State), calm s → (s.dev.holder x).live = true → obj s.fuses s.dev 0x5000 0 = 1 →
      ((s.dev.holder x).round_ r).late = true → ((s.dev.holder x).round_ r).admitted = none →
      (r = (s.dev.holder x).openRound ∨ r = ((s.dev.holder x).openRound + 1) % 2 ^ 32) → (s.dev.holder x).commits = [] →
      (s.dev.holder x).coord = ownRank s.fuses s.dev → (s.dev.holder x).joiners = [] →
      (SMap.find? ((s.dev.holder x).round_ r).reports (ownRank s.fuses s.dev)).isSome = true →
      (∀ k ∈ bitList 64 (s.dev.holder x).present, SMap.get 0 (s.dev.holder x).missBy k + 1 < obj s.fuses s.dev 0x5000 5) →
      let l := ((s.dev.holder x).round_ r).reports
      let mask := ((l.filter (fun p => l.all (fun q => q.2.testBit p.1))).map (fun p => 2 ^ p.1)).sum
      Leads (.admitWaitExpiry x r) s (fun d' => ∀ k ∈ otherPresent s.fuses s.dev x, ∃ g ∈ (d'.holder x).queue,
        g.typ = 5 ∧ g.rank = k ∧ g.round = r ∧ g.payload.take 8 = leBytes 8 mask)) ∧
  (∀ (x j : Nat) (s : State), calm s → (s.dev.holder x).live = true → (s.dev.holder x).present.testBit j = true → j < 64 →
      j ≠ ownRank s.fuses s.dev → (s.dev.holder x).coord = ownRank s.fuses s.dev → (s.dev.holder x).commits = [] →
      ownRank s.fuses s.dev < 64 → (s.dev.holder x).present.testBit (ownRank s.fuses s.dev) = true →
      let rest := ((bitList 64 (s.dev.holder x).present).filter (· ≠ j)).map (2 ^ ·)
      igQuorum s.fuses s.dev (bitList 64 (s.dev.holder x).present) (bitList 64 rest.sum) = true →
      ((s.dev.holder x).round_ (s.dev.holder x).round).ended = none → ((s.dev.holder x).round_ (s.dev.holder x).round).admitted = none →
      Leads (.livenessExpiry x j) s (fun d' => d'.mem = s.dev.mem ∧ (d'.holder x).epoch = ((s.dev.holder x).epoch + 1) % 65536 ∧
        (d'.holder x).present = rest.sum ∧ (d'.holder x).state = (s.dev.holder x).state))

/-- Completions and timers of the rounds (R254, R361, R366, R373, R375, R377, R385): a complete segment joins the queue of the codec
engine, and one that the engine comes to is decoded into its slot and acknowledged; a complete state stream ends the join; and a group, an END part or a report that is not answered is asked for or
sent again. -/
def Obligations.SegmentsComplete : Prop :=
  (∀ (x j r g : Nat) (s : State) (q : RecvSeg), calm s → SMap.find? ((s.dev.holder x).contrib r j).segs g = some q →
      q.decoded = none → engineAt (s.dev.engine (segEngine s.dev x)) (x, j, r, g) = true →
      (streamLines s.fuses s.dev q).all (runReady s.fuses s.dev (intakeWho s.dev q.port)) = true →
      poisonedIn s.fuses s.dev (streamLines s.fuses s.dev q) = [] →
      let o := s.dev.holder x
      let b := igBook s.fuses s.dev x j r
      let entry := slice (recoverStream s.fuses s.dev q) 0 256
      let plane := (recoverStream s.fuses s.dev q).drop 256
      let out := decodePlane (streamBook s.fuses s.dev b entry) (fun _ _ => none) plane (segSectors o g)
      let src := (out.sectors.map (fun v => v.getD [])).flatten
      let slot := slotAddr s.fuses s.dev x j r + segOffset o g
      let d1 := putBook s.fuses (noteRead s.fuses s.dev (intakeWho s.dev q.port) (streamLines s.fuses s.dev q)) x b entry
      bookReady s.fuses s.dev x b = true → out.status = 0 → field plane 0 4 = igSecbase r g → setFree s.fuses s.dev x r = true →
      holdReady s.fuses d1 x slot src.length = true → (o.round_ r).ended = none → (o.round_ r).admitted = none →
      Leads (.segmentComplete x j r g) s (fun d' => d'.mem.bytes = (holdWrite s.fuses d1 x slot src).mem.bytes ∧
        ((d'.holder x).contrib r j).written = (o.contrib r j).written ++ [g] ∧
        (d'.holder x).queue = o.queue ++ [queued s x { typ := 2, rank := j, round := r, seg := g }])) ∧
  (∀ (x j r g : Nat) (s : State) (q : RecvSeg), calm s → SMap.find? ((s.dev.holder x).contrib r j).segs g = some q →
      q.decoded = none → streamComplete s.fuses s.dev q = true → (s.dev.engine (segEngine s.dev x)).accepts = true →
      engineHas (s.dev.engine (segEngine s.dev x)) (x, j, r, g) = false →
      engineAt (s.dev.engine (segEngine s.dev x)) (x, j, r, g) = false →
      Leads (.segmentComplete x j r g) s (fun d' => (d'.engine (segEngine s.dev x)).queue =
        (s.dev.engine (segEngine s.dev x)).queue ++ [segOp s.dev x j r g] ∧ d'.mem = s.dev.mem)) ∧
  (∀ (x h : Nat) (s : State) (q : RecvSeg), calm s → (s.dev.holder x).state = .joining → (s.dev.holder x).joinRecv = some q →
      (s.dev.holder x).joinHandles = [h] → (∀ y, y ≠ x → ∀ o, (y, o) ∈ s.dev.holders → h ∉ o.joinHandles) →
      SMap.sorted s.dev.holders = true → heldOpen s h → streamComplete s.fuses s.dev q = true →
      (streamLines s.fuses s.dev q).all (runReady s.fuses s.dev (intakeWho s.dev q.port)) = true →
      holdReady s.fuses s.dev x ((s.dev.holder x).blk 48 8) (2 * (s.dev.holder x).blk 64 8) = true →
      holdReady s.fuses s.dev x ((s.dev.holder x).blk 56 8) ((s.dev.holder x).blk 64 8 + (s.dev.holder x).blk 64 8 / 32) = true →
      Leads (.stateStreamComplete x) s (fun d' => (d'.holder x).state = .running ∧ (d'.holder x).joinRecv = none ∧ handleEnds d' h 0)) ∧
  (∀ (x j r g i : Nat) (s : State) (q : RecvSeg), calm s → (s.dev.holder x).live = true →
      (SMap.find? (s.dev.holder x).rounds r).isSome = true → ((s.dev.holder x).round_ r).admitted = none →
      ((s.dev.holder x).contrib r j).abandoned = false →
      g ∉ ((s.dev.holder x).contrib r j).written → SMap.find? ((s.dev.holder x).contrib r j).segs g = some q →
      nakDue s.fuses s.dev q i (((s.dev.holder x).contrib r j).naked.contains (g, i)) = true →
      Leads (.nakWaitExpiry x j r g i false) s (fun d' => d'.mem = s.dev.mem ∧ (d'.holder x).queue = (s.dev.holder x).queue ++
        [queued s x { typ := 3, rank := j, round := r, seg := g, group := i,
                      payload := leBytes 32 ((SMap.get [] q.groups i).map (fun y => 2 ^ y.1)).sum }])) ∧
  (∀ (x j r part n : Nat) (s : State), calm s → ((s.dev.holder x).round_ r).ended = some n → (s.dev.holder x).live = true →
      ((s.dev.holder x).round_ r).admitted = none → part < endParts n → (j, part) ∉ ((s.dev.holder x).round_ r).endAcks →
      (s.dev.holder x).present.testBit j = true → (∀ g ∈ (s.dev.holder x).queue, g.typ = 1 → g.rank ≠ j) →
      Leads (.endResend x j r part) s (fun d' => d'.mem = s.dev.mem ∧ ∃ a, (d'.holder x).queue = (s.dev.holder x).queue ++
        [queued s x { typ := 1, rank := j, round := r, seg := 0xFFFF, group := part,
                      payload := endPart (s.dev.holder x) r n part, again := a }])) ∧
  (∀ (x r n : Nat) (s : State), calm s → (s.dev.holder x).live = true → obj s.fuses s.dev 0x5000 0 = 1 →
      ((s.dev.holder x).round_ r).ended = some n → ((s.dev.holder x).round_ r).reported = none →
      ((s.dev.holder x).round_ r).admitted = none → (s.dev.holder x).coord ≠ ownRank s.fuses s.dev →
      Leads (.reportDeadline x r) s (fun d' => d'.mem = s.dev.mem ∧
        ((d'.holder x).round_ r).reported = some (haveMask s.fuses s.dev x r) ∧ (d'.holder x).queue = (s.dev.holder x).queue ++
          [queued s x { typ := 4, rank := (s.dev.holder x).coord, round := r, payload := leBytes 8 (haveMask s.fuses s.dev x r) }])) ∧
  (∀ (x r m : Nat) (s : State), calm s → (s.dev.holder x).live = true → ((s.dev.holder x).round_ r).reported = some m →
      ((s.dev.holder x).round_ r).admitted = none → (s.dev.holder x).coord ≠ ownRank s.fuses s.dev →
      (∀ g ∈ (s.dev.holder x).queue, g.typ ≠ 4) →
      Leads (.reportResend x r) s (fun d' => d'.mem = s.dev.mem ∧ ∃ a, (d'.holder x).queue = (s.dev.holder x).queue ++
        [queued s x { typ := 4, rank := (s.dev.holder x).coord, round := r, payload := leBytes 8 m, again := a }]))

/-! ## Proofs and counterproofs (chapter 16) -/

/-- The status a check refuses with. -/
def Sys2Proof.Stmt.refusal {α : Type} : Except Nat α → Option Nat
  | .error e => some e
  | .ok _ => none

/-- The regions in memory whose tags the boundary check reads, and where their snapshot versions lie (R418). -/
def Sys2Proof.Stmt.tagPlanes (s : State) : List (List Byte × List (Nat × Nat)) :=
  (s.dev.proof.plan.filter (fun e => planKind e == 4 && !planPlate e)).map
    (fun e => (e, snapRuns s.dev ((heldRuns s.dev s.dev.proof.ctx false (planAddr e) (planLen e)).getD [])))

/-- The boundary check has its tags to read: those in memory can be read, those of a Plate are copied. -/
abbrev Sys2Proof.Stmt.tagsHere (s : State) : Prop :=
  calm s ∧ s.dev.proof.state = 2 ∧ sound s ∧
    (tagPlanes s).all (fun q => q.2.all (fun r => runReady s.fuses s.dev (moverWho s.dev (runTile s.fuses r)) r)) = true ∧
    ∀ q ∈ plateTags s.fuses s.dev, q.2.1 ∈ s.dev.proof.copied

/-- Every tag reads the step (R418). -/
def Sys2Proof.Stmt.tagsRight (s : State) : Bool :=
  (tagPlanes s).all (fun q => tagsAt s.dev.proof.step q.1 (runBytes s.dev q.2)) &&
    (plateTags s.fuses s.dev).all (fun q => tagsAt s.dev.proof.step q.1 q.2.2)

/-- A command that reads its context's plan finds no other that waits for one, and no restore under way. -/
abbrev Sys2Proof.Stmt.planFirst (s : State) : Prop := s.dev.proof.waits = [] ∧ s.dev.proof.restores = []

/-- Taking a proof (R417 to R420, R430, R431): PROOF_START waits for its trigger or arms at once, waits for the lines of its plan, or
is refused; PROOF_ABORT ends a proof; a proof whose tags all read its step goes on to drain, another ends; and the bulk movers copy
the Plate regions of their tile. -/
def Obligations.ProofsAreTaken : Prop :=
  (∀ (w : Writer) (a : Nat) (s : State) (es : List (List Byte)), a < 2 ^ 256 → takes s w 0x9000 2 a → planFirst s →
      planReady s.fuses (invoked s w 0x9000 2) w.prin = true →
      (proofCheck s.fuses (invoked s w 0x9000 2) w.prin a).toOption = some es → bits a 143 128 ≠ 0xFFFF →
      (SMap.get {} s.dev.claims (claimPhys s.fuses s.dev w.prin (bits a 143 128))).value < bits a 255 192 →
      Leads (.proofStart w a) s (fun d' => d'.proof.state = 1 ∧ d'.proof.plan = es ∧ d'.proof.gen = bits a 31 0 ∧
        d'.proof.dest = bits a 33 32 ∧ d'.proof.step = bits a 111 64 ∧ d'.proof.handle = newHandle s w ∧ goesOn s w d' ∧
        d'.mem.bytes = s.dev.mem.bytes)) ∧
  (∀ (w : Writer) (a : Nat) (s : State) (es : List (List Byte)), a < 2 ^ 256 → takes s w 0x9000 2 a → planFirst s →
      planReady s.fuses (invoked s w 0x9000 2) w.prin = true →
      (proofCheck s.fuses (invoked s w 0x9000 2) w.prin a).toOption = some es → bits a 143 128 = 0xFFFF →
      Leads (.proofStart w a) s (fun d' => d'.proof.state = 2 ∧ d'.proof.plan = es ∧ goesOn s w d' ∧
        d'.mem.bytes = s.dev.mem.bytes ∧ obj s.fuses d' 0x9020 3 = bits a 111 64 ∧
        ∀ i ∈ d'.proof.left, ∀ g, i.gran = some g → granuleHeld d' g = true)) ∧
  (∀ (w : Writer) (a : Nat) (s : State), a < 2 ^ 256 → takes s w 0x9000 2 a → planFirst s →
      proofCheckArg s.fuses s.dev a = 0 → planReady s.fuses (invoked s w 0x9000 2) w.prin = false →
      Leads (.proofStart w a) s (fun d' => d'.proof.state = 0 ∧ goesOn s w d' ∧ d'.mem = s.dev.mem ∧
        d'.proof.waits = [{ handle := newHandle s w, ctx := w.prin, arg := a }])) ∧
  (∀ (w : Writer) (a st : Nat) (s : State), a < 2 ^ 256 → takes s w 0x9000 2 a → planFirst s → s.dev.proof.state ≠ 4 →
      (proofCheckArg s.fuses s.dev a ≠ 0 ∨ planReady s.fuses (invoked s w 0x9000 2) w.prin = true) →
      refusal (proofCheck s.fuses (invoked s w 0x9000 2) w.prin a) = some st →
      Leads (.proofStart w a) s (fun d' => d'.proof = s.dev.proof ∧ ended s w st d' ∧ d'.mem.bytes = s.dev.mem.bytes)) ∧
  (∀ (w : Writer) (s : State), takes s w 0x9000 3 0 → s.dev.proof.state ≠ 0 → s.dev.proof.state ≠ 5 →
      s.dev.proof.handle ≠ newHandle s w → heldOpen s s.dev.proof.handle →
      Leads (.proofAbort w) s (fun d' => ended s w 0 d' ∧ d'.proof.guard = [] ∧ d'.mem = s.dev.mem ∧
        (s.dev.proof.flight = [] → d'.proof.state = 0 ∧ handleEnds d' s.dev.proof.handle Status.proofAborted) ∧
        (s.dev.proof.flight ≠ [] → d'.proof.state = 5 ∧ heldOpen { s with dev := d' } s.dev.proof.handle))) ∧
  (∀ (s : State), tagsHere s → s.dev.proof.left ≠ [] → tagsRight s = true →
      Leads .boundaryCheck s (fun d' => d'.proof.state = 3 ∧ d'.proof.left = s.dev.proof.left ∧ d'.mem.bytes = s.dev.mem.bytes)) ∧
  (∀ (s : State), tagsHere s → heldOpen s s.dev.proof.handle → tagsRight s = false →
      Leads .boundaryCheck s (fun d' => d'.proof.state = 0 ∧ d'.proof.guard = [] ∧ d'.mem.bytes = s.dev.mem.bytes ∧
        handleEnds d' s.dev.proof.handle Status.notBoundary)) ∧
  (∀ (t : Nat) (s : State) (e : List Byte), calm s → 2 ≤ s.dev.proof.state → s.dev.proof.state ≤ 3 → t ∉ s.dev.proof.copied →
      bulkReady s.dev t = true → s.dev.proof.plan = [e] → planPlate e = true → planCore e < s.fuses.cores →
      s.fuses.tileOf (planCore e) = t → (s.dev.core (planCore e)).plateBad = [] → memWf (s.dev.core (planCore e)).plate = true →
      Leads (.plateNote t) s (fun d' => d'.proof.copied = t :: s.dev.proof.copied ∧ d'.mem = s.dev.mem ∧
        readBytes (d'.core (planCore e)).plate (proofBase s.fuses s.dev) (planLen e) =
          readBytes (s.dev.core (planCore e)).plate (planAddr e % 2 ^ 24) (planLen e)))

/-- The bulk movers of a tile have a turn of their pool and a free buffer of the sink. -/
abbrev Sys2Proof.Stmt.moverTurn (s : State) (t : Nat) : Prop :=
  calm s ∧ bulkReady s.dev t = true ∧ s.dev.frozen (poolArb t) = false ∧ sinkFree s.fuses s.dev = true

/-- A proof drains to the sink, and no object's header is due (R420, R425). -/
abbrev Sys2Proof.Stmt.drains (s : State) (t : Nat) (i : PItem) : Prop :=
  moverTurn s t ∧ s.dev.proof.state = 3 ∧
    plateCores s.fuses s.dev.proof t = [] ∧ headDue s.dev.proof = none ∧ nextItem s.fuses s.dev.proof t = some i ∧ i.file = true ∧
    i.cp = false ∧ bit s.dev.proof.dest 0 = true ∧ sound s

/-- The PCIe port is not frozen (R515). -/
abbrev Sys2Proof.Stmt.hostOpen (s : State) : Prop := s.dev.frozen 0x8000 = false

/-- A record with a SEQ reaches the doorbell and is in flight (R423). -/
abbrev Sys2Proof.Stmt.recorded (s : State) (man : Bool) (d' : Dev) : Prop :=
  d'.proof.flight = s.dev.proof.flight ++ [⟨s.dev.proof.seqNext, man⟩] ∧
    Out.peerWrite (obj s.fuses s.dev 0x9010 4) (leBytes 4 s.dev.proof.seqNext) ∈ d'.out

/-- Draining, acknowledging and ending (R420, R423, R424, R426, R430): a granule's snapshot goes to the sink with its record; a
header follows its object, the manifest the last; an error of the request, an acknowledgement with ERROR and silence end the proof
with their statuses; an acknowledgement takes records off, and that of the manifest ends the proof with OK. -/
def Obligations.ProofsDrainAndEnd : Prop :=
  (∀ (t g : Nat) (s : State) (i : PItem), drains s t i → i.gran = some g → hostOpen s →
      runReady s.fuses s.dev (moverWho s.dev t) (snapRun s.dev g) = true →
      Leads (.proofDrain t false) s (fun d' => d'.proof.left = s.dev.proof.left.erase i ∧ d'.mem.bytes = s.dev.mem.bytes ∧
        d'.proof.got = s.dev.proof.got ++ [(i.region, i.off, runBytes s.dev [snapRun s.dev g])] ∧ granuleHeld d' g = false ∧
        recorded s false d')) ∧
  (∀ (t n : Nat) (o : Nat × Nat × Nat) (s : State), moverTurn s t → hostOpen s → s.dev.proof.state = 3 →
      plateCores s.fuses s.dev.proof t = [] → headDue s.dev.proof = some (n, o) →
      Leads (.proofDrain t false) s (fun d' => d'.proof.headed = n :: s.dev.proof.headed ∧ d'.proof.left = s.dev.proof.left ∧
        d'.mem = s.dev.mem ∧ recorded s false d')) ∧
  (∀ (t : Nat) (m : List Byte) (s : State), moverTurn s t → hostOpen s → s.dev.proof.state = 4 →
      s.dev.proof.manifest = some m → m.length % 4096 = 0 →
      Leads (.proofDrain t false) s (fun d' => d'.proof.manifest = none ∧ d'.proof.state = 4 ∧ d'.mem = s.dev.mem ∧
        recorded s true d' ∧ Out.peerWrite (obj s.fuses s.dev 0x9010 0 +
          sinkBuf s.fuses s.dev s.dev.proof.seqNext * obj s.fuses s.dev 0x9010 1) m ∈ d'.out)) ∧
  (∀ (t g : Nat) (s : State) (i : PItem), drains s t i → i.gran = some g →
      runReady s.fuses s.dev (moverWho s.dev t) (snapRun s.dev g) = true →
      s.dev.proof.flight = [] → heldOpen s s.dev.proof.handle →
      Leads (.proofDrain t true) s (fun d' => d'.proof.state = 0 ∧ handleEnds d' s.dev.proof.handle Status.sinkError)) ∧
  (∀ (v : Nat) (s : State) (r : SinkRec), calm s → s.dev.proof.state = 3 → s.dev.proof.flight = [r] → r.manifest = false →
      s.dev.proof.left ≠ [] → v < 2 ^ 32 → seqLe r.seq v = true → s.dev.proof.restores = [] →
      Leads (.proofAck v) s (fun d' => d'.proof = { s.dev.proof with flight := [] } ∧ d'.mem = s.dev.mem)) ∧
  (∀ (v : Nat) (s : State) (r : SinkRec), calm s → s.dev.proof.state = 4 → s.dev.proof.flight = [r] → r.manifest = true →
      v < 2 ^ 32 → seqLe r.seq v = true → heldOpen s s.dev.proof.handle →
      Leads (.proofAck v) s (fun d' => d'.proof.state = 0 ∧ d'.proof.guard = [] ∧ obj s.fuses d' 0x9020 2 = s.dev.proof.gen ∧
        handleEnds d' s.dev.proof.handle 0 ∧ d'.mem = s.dev.mem)) ∧
  (∀ (v : Nat) (s : State) (r : SinkRec), calm s → (s.dev.proof.state = 3 ∨ s.dev.proof.state = 4) → s.dev.proof.flight = [r] →
      bit v 32 = true → seqLe r.seq (v % 2 ^ 32) = true → heldOpen s s.dev.proof.handle →
      Leads (.proofAck v) s (fun d' => d'.proof.state = 0 ∧ handleEnds d' s.dev.proof.handle Status.sinkError ∧ d'.mem = s.dev.mem)) ∧
  (∀ (s : State), calm s → s.dev.proof.state ≠ 0 → s.dev.proof.state ≠ 5 → s.dev.proof.flight ≠ [] →
      heldOpen s s.dev.proof.handle →
      Leads .sinkTimeout s (fun d' => d'.proof.state = 0 ∧ d'.proof.flight = [] ∧ d'.mem = s.dev.mem ∧
        handleEnds d' s.dev.proof.handle Status.sinkTimeout))

/-- The calm device takes a RESTORE whose context has no busy core, with nothing before it at the proof engine. -/
abbrev Sys2Proof.Stmt.restores (s : State) (w : Writer) (a : Nat) : Prop :=
  a < 2 ^ 96 ∧ takes s w 0x9000 4 a ∧ ctxBusy s.fuses s.dev w.prin = false ∧ planFirst s ∧ s.dev.proof.state ≠ 4

/-- A RESTORE finds its plan: mapped, its lines to be read, none of them poisoned. -/
abbrev Sys2Proof.Stmt.planFound (s : State) (w : Writer) (rs : List (Nat × Nat)) : Prop :=
  planRuns s.fuses (invoked s w 0x9000 4) w.prin = some rs ∧ planReady s.fuses (invoked s w 0x9000 4) w.prin = true ∧
    poisonedIn s.fuses (invoked s w 0x9000 4) rs = []

/-- A packet of the neighbour's counterproof is the oldest in the receive buffers. -/
abbrev Sys2Proof.Stmt.cpCame (s : State) (q : Nat × Packet) : Prop :=
  calm s ∧ s.dev.inbox.find? (fun q => q.2.kind == 2 && q.2.act == 2) = some q

/-- Restoring, and the bank held for a neighbour (R428, R429): a RESTORE from a file store asks for the manifest with a READ record;
from a counterproof it ends CP_ABSENT without a neighbour; it waits for the lines of its plan, ends PLAN_MISMATCH where that is not
mapped, and is refused while its context is busy; an acknowledgement brings what was asked for; a payload whose digest holds is
written to the place its plan entry names, another ends the restore; a counterproof write from the neighbour on CP_FROM goes into
the bank, which then reads WRITING, and one from elsewhere is only counted. -/
def Obligations.ProofsRestore : Prop :=
  (∀ (w : Writer) (a : Nat) (e : Outside) (s : State) (rs : List (Nat × Nat)), restores s w a → planFound s w rs → bit a 0 = false →
      sinkFree s.fuses s.dev = true → hostOpen s →
      Leads (.restore w a e) s (fun d' => goesOn s w d' ∧ d'.mem.bytes = s.dev.mem.bytes ∧ d'.cores = s.dev.cores ∧
        Out.peerWrite (obj s.fuses s.dev 0x9010 4) (leBytes 4 s.dev.proof.seqNext) ∈ d'.out ∧
        ∃ r, d'.proof.restores = [r] ∧ r.handle = newHandle s w ∧ r.gen = bits a 95 64 ∧
          r.plan = readPlan s.fuses (invoked s w 0x9000 4) w.prin rs ∧
          r.flight = [(s.dev.proof.seqNext, { dev := bits a 47 32, object := 0xFFFFFFFF, off := 0, len := 4096 })])) ∧
  (∀ (w : Writer) (a : Nat) (e : Outside) (s : State) (rs : List (Nat × Nat)), restores s w a → planFound s w rs → bit a 0 = true →
      neighbourAddr s.fuses s.dev (obj s.fuses s.dev 0x9030 0) = none →
      Leads (.restore w a e) s (fun d' => ended s w Status.cpAbsent d' ∧ obj s.fuses d' 0x9020 0x0A = Status.cpAbsent ∧
        d'.proof.restores = [] ∧ d'.mem.bytes = s.dev.mem.bytes ∧ d'.cores = s.dev.cores)) ∧
  (∀ (w : Writer) (a : Nat) (e : Outside) (s : State), restores s w a →
      planReady s.fuses (invoked s w 0x9000 4) w.prin = false →
      Leads (.restore w a e) s (fun d' => goesOn s w d' ∧ d'.mem = s.dev.mem ∧ d'.cores = s.dev.cores ∧ d'.proof.restores = [] ∧
        d'.proof.waits = [{ handle := newHandle s w, ctx := w.prin, arg := a, restore := true, store := e.store }])) ∧
  (∀ (w : Writer) (a : Nat) (e : Outside) (s : State), restores s w a → planRuns s.fuses (invoked s w 0x9000 4) w.prin = none →
      Leads (.restore w a e) s (fun d' => ended s w Status.planMismatch d' ∧ obj s.fuses d' 0x9020 0x0A = Status.planMismatch ∧
        d'.mem = s.dev.mem ∧ d'.cores = s.dev.cores)) ∧
  (∀ (w : Writer) (a : Nat) (e : Outside) (s : State), a < 2 ^ 96 → takes s w 0x9000 4 a → ctxBusy s.fuses s.dev w.prin = true →
      Leads (.restore w a e) s (fun d' => ended s w Status.coreBusy d' ∧ d'.mem = s.dev.mem ∧ d'.cores = s.dev.cores)) ∧
  (∀ (v : Nat) (s : State) (r : RestoreRun) (q : RPart) (seq : Nat), calm s → s.dev.proof.state = 0 → s.dev.proof.flight = [] →
      s.dev.proof.restores = [r] → r.cp = false → r.status = 0 → r.flight = [(seq, q)] → v < 2 ^ 32 → seqLe seq v = true → hostOpen s →
      Leads (.proofAck v) s (fun d' => d'.mem = s.dev.mem ∧
        Out.peerRead (obj s.fuses s.dev 0x9010 0 + sinkBuf s.fuses s.dev seq * obj s.fuses s.dev 0x9010 1) q.len ∈ d'.out ∧
        ∃ r', d'.proof.restores = [r'] ∧ r'.flight = [] ∧ r'.got = r.got ++ [(q, storeBytes r q)] ∧ r'.todo = r.todo)) ∧
  (∀ (f : Fuses) (d : Dev) (r : RestoreRun) (dev : Nat) (e : List Byte) (rest : List (Nat × List Byte)),
      r.stage = .payload → r.todo = some ((dev, e) :: rest) → r.status = 0 → r.flight = [] →
      let ok := if r.cp then decide (sha256 (r.bytes.take (field e 24 8)) = e.drop 32) else objectOk dev r.gen e r.bytes
      let load := if r.cp then r.bytes.take (field e 24 8) else slice r.bytes 4096 (field e 24 8)
      let p := r.plan.getD (field e 4 2) []
      let r1 := (restoreStep f d r).2
      (ok = false → r1.status = Status.digestFail ∧ r1.todo = some [] ∧ r1.reads = []) ∧
      (ok = true → r1.todo = some rest ∧ r1.status = 0 ∧
        (planPlate p = true → memWf (d.core (planCore p)).plate = true → ∃ d' r', restoreWrite f d r1 = some (d', r') ∧
          r'.writes = [] ∧ d'.mem = d.mem ∧
          readBytes (d'.core (planCore p)).plate (planAddr p % 2 ^ 24 + field e 16 8) load.length = load))) ∧
  (∀ (s : State) (q : Nat × Packet), cpCame s q →
      neighbourAddr s.fuses s.dev (obj s.fuses s.dev 0x9030 1) = some q.2.src → cpBase s.fuses s.dev + 24 < q.2.addr →
      q.2.addr - cpBase s.fuses s.dev + q.2.data.length ≤ cpSize s.fuses s.dev → ctr s.dev 0x9030 2 ≠ 2 →
      (cpRuns s.fuses s.dev (q.2.addr - cpBase s.fuses s.dev) q.2.data.length ++ cpRuns s.fuses s.dev 24 1).all
        (fun r => writeReady s.fuses s.dev (cpWho s.fuses q.2 r) r && poolOpen s.fuses s.dev r) = true →
      Leads .cpWrite s (fun d' => ctr d' 0x9030 2 = 1 ∧ d'.inbox = s.dev.inbox.erase q ∧
        d'.mem.bytes = (moveRuns s.fuses s.dev (cpWho s.fuses q.2)
          (cpRuns s.fuses s.dev (q.2.addr - cpBase s.fuses s.dev) q.2.data.length) q.2.data).mem.bytes)) ∧
  (∀ (s : State) (q : Nat × Packet), cpCame s q →
      neighbourAddr s.fuses s.dev (obj s.fuses s.dev 0x9030 1) ≠ some q.2.src →
      Leads .cpWrite s (fun d' => ctr d' 0x9030 6 = satAdd (2 ^ 64 - 1) (ctr s.dev 0x9030 6) 1 ∧ d'.mem = s.dev.mem ∧
        d'.inbox = s.dev.inbox.erase q))

/-! ## The registration barrier (chapter 17) -/

/-- A REG_READY of a flit. -/
def Sys2Proof.Stmt.readyMsg (a : List Byte) : RegMsg := { id := field a 0 4, root := field a 4 2, fail := field a 6 1 == 1 }

/-- The registration barrier (R443 to R447): REG_ARM arms it, and is refused while one is in progress; a child's readiness is
kept, and passed up once the device is armed and every child is ready; another REG_ID fails it; the wave sets TIME and RELEASE,
or comes too late; the release counts and completes; and the timeout fails it. -/
def Obligations.RegistrationBarrier : Prop :=
  (∀ (w : Writer) (a : Nat) (s : State), a < 2 ^ 48 → takes s w 0xC000 1 a → 1 ≤ regState s.dev → regState s.dev ≤ 3 →
      Leads (.regArm w a) s (fun d' => ended s w Status.regBusy d' ∧ d'.reg = s.dev.reg ∧ regState d' = regState s.dev)) ∧
  (∀ (w : Writer) (a : Nat) (s : State), a < 2 ^ 48 → takes s w 0xC000 1 a → (regState s.dev = 0 ∨ regState s.dev = 4) →
      s.dev.reg.ready = [] → childPorts s.fuses s.dev (bits a 47 32) ≠ [] →
      Leads (.regArm w a) s (fun d' => goesOn s w d' ∧ regState d' = 1 ∧ d'.reg.id = bits a 31 0 ∧ d'.reg.root = bits a 47 32 ∧
        d'.reg.handle = some (newHandle s w) ∧ ctr d' 0xC000 5 = bits a 31 0 ∧ d'.time = s.dev.time)) ∧
  (∀ (w : Writer) (a p : Nat) (s : State), a < 2 ^ 48 → takes s w 0xC000 1 a → (regState s.dev = 0 ∨ regState s.dev = 4) →
      s.dev.reg.ready = [] → childPorts s.fuses s.dev (bits a 47 32) = [] → regHeld s.dev = false →
      bits a 47 32 ≠ devAddr s.fuses s.dev → parentPort s.fuses s.dev (bits a 47 32) = some p →
      Leads (.regArm w a) s (fun d' => goesOn s w d' ∧ regState d' = 2 ∧ d'.reg.id = bits a 31 0)) ∧
  (∀ (p : Nat) (raw : List Byte) (s : State) (x : Flit), calm s → ctrlHeard s p 8 raw x → (regState s.dev = 0 ∨ regState s.dev = 4) →
      Leads (.regReady p raw) s (fun d' => SMap.find? d'.reg.ready p = some (readyMsg (x.body.drop 1)) ∧
        regState d' = regState s.dev ∧ d'.reg.handle = s.dev.reg.handle)) ∧
  (∀ (p q : Nat) (raw : List Byte) (s : State) (x : Flit), calm s → ctrlHeard s p 8 raw x → regState s.dev = 1 →
      let l := s.dev.reg.ready.put p (readyMsg (x.body.drop 1))
      (∀ y ∈ l, y.2.id = s.dev.reg.id ∧ y.2.root = s.dev.reg.root ∧ y.2.fail = false) →
      (∀ c ∈ childPorts s.fuses s.dev s.dev.reg.root, (SMap.find? l c).isSome = true) → regHeld s.dev = false →
      s.dev.reg.root ≠ devAddr s.fuses s.dev → parentPort s.fuses s.dev s.dev.reg.root = some q →
      Leads (.regReady p raw) s (fun d' => regState d' = 2 ∧ d'.reg.handle = s.dev.reg.handle)) ∧
  (∀ (p h : Nat) (raw : List Byte) (s : State) (x : Flit), calm s → ctrlHeard s p 8 raw x → (regState s.dev = 2 ∨ regState s.dev = 3) →
      ((readyMsg (x.body.drop 1)).id ≠ s.dev.reg.id ∨ (readyMsg (x.body.drop 1)).root ≠ s.dev.reg.root) →
      s.dev.reg.handle = some h → heldOpen s h →
      Leads (.regReady p raw) s (fun d' => regState d' = 4 ∧ d'.reg.handle = none ∧ handleEnds d' h Status.regMismatch)) ∧
  (∀ (p : Nat) (raw : List Byte) (s : State) (x : Flit), calm s → p < 6 → ctrlHeard s p 9 raw x →
      (regState s.dev = 1 ∨ regState s.dev = 2) →
      let a := x.body.drop 1
      let at_ := field a 6 8 + ctr s.dev (pIdx p) 3
      field a 14 8 ≠ 0 → at_ + 16 * 1200 ≤ 16 * field a 14 8 →
      Leads (.regWave p raw) s (fun d' => d'.time = at_ / 16 ∧ d'.frac = at_ % 16 ∧ regState d' = 3 ∧
        d'.reg.release = field a 14 8 ∧ d'.mem = s.dev.mem)) ∧
  (∀ (p h : Nat) (raw : List Byte) (s : State) (x : Flit), calm s → p < 6 → ctrlHeard s p 9 raw x →
      (regState s.dev = 1 ∨ regState s.dev = 2) → s.dev.reg.handle = some h → heldOpen s h →
      let a := x.body.drop 1
      let at_ := field a 6 8 + ctr s.dev (pIdx p) 3
      field a 14 8 ≠ 0 → 16 * field a 14 8 < at_ + 16 * 1200 →
      Leads (.regWave p raw) s (fun d' => d'.time = at_ / 16 ∧ regState d' = 4 ∧ handleEnds d' h Status.regLate)) ∧
  (∀ (p : Nat) (raw : List Byte) (s : State) (x : Flit), calm s → p < 6 → ctrlHeard s p 9 raw x →
      (regState s.dev = 0 ∨ regState s.dev = 4) →
      let a := x.body.drop 1
      let at_ := field a 6 8 + ctr s.dev (pIdx p) 3
      field a 14 8 ≠ 0 →
      Leads (.regWave p raw) s (fun d' => d'.time = at_ / 16 ∧ d'.frac = at_ % 16 ∧ regState d' = regState s.dev ∧
        d'.reg = s.dev.reg)) ∧
  (∀ (h : Nat) (s : State), calm s → regState s.dev = 3 → s.dev.now = s.dev.reg.release → s.dev.reg.handle = some h → heldOpen s h →
      (∀ c, (s.dev.core c).busy = false) →
      Leads .regReleased s (fun d' => regState d' = 0 ∧ ctr d' 0xC000 3 = (ctr s.dev 0xC000 3 + 1) % 2 ^ 32 ∧
        ctr d' 0xC000 4 = s.dev.reg.release ∧ handleEnds d' h 0 ∧ d'.cores = s.dev.cores ∧ d'.mem = s.dev.mem)) ∧
  (∀ (h : Nat) (s : State), calm s → (regState s.dev = 1 ∨ regState s.dev = 2) → s.dev.reg.handle = some h → heldOpen s h →
      Leads .regTimeout s (fun d' => regState d' = 4 ∧ handleEnds d' h Status.regTimeout ∧ d'.cores = s.dev.cores))

/-! ## Power, temperature and margins (chapter 21) -/

/-- Power and temperature (R529 to R532): the power controller moves G_POWER by one step, the thermal controller sets G_THERM
and the readings of every tile, a trip asserts THERM_ALARM_N and leads to a reset 10 ms later, a device that is not READY keeps only
the hottest reading, and the alarm is released. -/
def Obligations.PowerAndTemperature : Prop :=
  (∀ (w aux bus : Nat) (s : State), calm s →
      Leads (.railReport w aux bus) s (fun d' => obj s.fuses d' 0x2010 1 = min w 65535 ∧ obj s.fuses d' 0x2010 2 = min aux 255 ∧
        obj s.fuses d' 0x2010 3 = min bus 65535 ∧ obj s.fuses d' 0x2010 0 = obj s.fuses s.dev 0x2010 0 ∧ d'.cores = s.dev.cores ∧
        (obj s.fuses s.dev 0x2010 0 < w → obj s.fuses d' 0x2010 4 = max 4 (obj s.fuses s.dev 0x2010 4 - 1)) ∧
        (100 * w < 97 * obj s.fuses s.dev 0x2010 0 → obj s.fuses d' 0x2010 4 = min 64 (obj s.fuses s.dev 0x2010 4 + 1)) ∧
        (w ≤ obj s.fuses s.dev 0x2010 0 → 97 * obj s.fuses s.dev 0x2010 0 ≤ 100 * w →
          obj s.fuses d' 0x2010 4 = obj s.fuses s.dev 0x2010 4))) ∧
  (∀ (junction hbm : List Int) (pulse : Bool) (s : State), calm s → s.dev.power.trip = none →
      (∀ t, t < 16 → tileReading s.fuses junction hbm t < 115 * degC) →
      Leads (.sensorRead junction hbm pulse) s (fun d' => d'.mem = s.dev.mem ∧ d'.cores = s.dev.cores ∧ ∀ t, t < 16 →
        ctr d' (0x2020 + t) 0 = unsext 32 (tileReading s.fuses junction hbm t) ∧
        obj s.fuses d' (0x2020 + t) 2 =
          (if tileReading s.fuses junction hbm t < 100 * degC then min 64 (obj s.fuses s.dev (0x2020 + t) 2 + 8)
           else if tileReading s.fuses junction hbm t < 105 * degC then max 4 (obj s.fuses s.dev (0x2020 + t) 2 - 4) else 4))) ∧
  (∀ (junction hbm : List Int) (pulse : Bool) (s : State) (t : Nat), calm s → s.dev.power.trip = none → t < 16 →
      115 * degC ≤ tileReading s.fuses junction hbm t → (∀ u, u < t → tileReading s.fuses junction hbm u < 115 * degC) →
      Leads (.sensorRead junction hbm pulse) s (fun d' => d'.power.trip = some (t, s.dev.cyc + 10000 * usCycles, pulse) ∧
        d'.power.alarm = true ∧ d'.rst = s.dev.rst ∧ d'.cores = s.dev.cores ∧ d'.mem = s.dev.mem)) ∧
  (∀ (junction hbm : List Int) (pulse : Bool) (s : State), ready s.dev = false →
      Leads (.sensorRead junction hbm pulse) s (fun d' => ∃ hot, d' = { s.dev with power := { s.dev.power with hottest := hot } })) ∧
  (∀ (s : State), s.dev.power.trip = none → s.dev.power.alarm = true → (∀ t, t < 16 → tileTemp s.dev t < 103 * degC) →
      Leads .thermAlarmRelease s (fun d' => d'.power.alarm = false ∧ Out.pin "THERM_ALARM_N" true ∈ d'.out ∧ d'.objs = s.dev.objs)) ∧
  (∀ (w : Writer) (v : Nat) (s : State), calm s → v < 65536 → writeReach s.fuses s.dev w.prin 0x2010 0 = 0 →
      Leads (.powerLimit w v) s (fun d' =>
        obj s.fuses d' 0x2010 0 = (if v < 3000 then 3000 else if s.fuses.tdp < v then s.fuses.tdp else v) ∧ d'.mem = s.dev.mem ∧
          obj s.fuses d' 0x2010 4 = obj s.fuses s.dev 0x2010 4))

/-- What a plan finds: ROOT_PLANNED_NEW and the rails, every rail at VMAX where even the floor does not fit (R536, R538). -/
def Sys2Proof.Stmt.planned (s : State) (need : List (List Nat)) : Nat × List Nat :=
  let r := planRoot s.fuses need ((obj s.fuses s.dev 0x2000 2 - 4500) / 50)
  (r.1, (List.range 16).map (fun t =>
    if r.2 then railClamp s.fuses t ((need.getD ((r.1 - 4500) / 50) []).getD t 0) else s.fuses.vmax.getD t 0))

/-- A plan under which a rail falls or ROOT falls, which therefore waits (R537). -/
abbrev Sys2Proof.Stmt.planWaits (s : State) (need : List (List Nat)) : Prop :=
  (planned s need).1 < obj s.fuses s.dev 0x2000 2 ∨ ∃ t, t < 16 ∧ (planned s need).2.getD t 0 < railOf s.fuses s.dev t

/-- The busbar, canaries, clocks and margins (R522, R525, R533 to R538, R614): G_SUPPLY follows the busbar; a canary shuts its
tile's gate and raises the rail; ROOT slews by 50 MHz a step; a plan that lowers anything waits, and takes effect when it may. -/
def Obligations.SupplyAndMargins : Prop :=
  (∀ (s : State), calm s → Leads .supplyDroop s (fun d' => d'.power.low = true ∧ obj s.fuses d' 0x2010 5 = 16 ∧ d'.cores = s.dev.cores)) ∧
  (∀ (s : State), calm s → Leads .supplyRecover s (fun d' => d'.power.low = false ∧
      obj s.fuses d' 0x2010 5 = (if s.dev.power.high = true then 16 else 64) ∧ d'.cores = s.dev.cores)) ∧
  (∀ (above : Bool) (s : State), calm s → Leads (.busbarHigh above) s (fun d' => d'.power.high = above ∧
      obj s.fuses d' 0x2010 5 = (if s.dev.power.low = true ∨ above = true then 16 else 64) ∧ d'.power.low = s.dev.power.low)) ∧
  (∀ (core hold : Nat) (s : State), calm s → core < 128 → railOf s.fuses s.dev (core / 8) < s.fuses.vmax.getD (core / 8) 0 →
      Leads (.canary core hold) s (fun d' =>
        SMap.get 0 d'.gateShut (core / 8) = s.dev.cyc + min hold (50 * usCycles) ∧
        railOf s.fuses d' (core / 8) = min (s.fuses.vmax.getD (core / 8) 0) (railOf s.fuses s.dev (core / 8) + 10) ∧
        obj s.fuses d' 0x2000 2 = obj s.fuses s.dev 0x2000 2 ∧ d'.cores = s.dev.cores)) ∧
  (∀ (core hold : Nat) (s : State), calm s → core < 128 → s.fuses.vmax.getD (core / 8) 0 ≤ railOf s.fuses s.dev (core / 8) →
      Leads (.canary core hold) s (fun d' => obj s.fuses d' 0x2000 2 = max 4500 (obj s.fuses s.dev 0x2000 2 - 50) ∧
        railOf s.fuses d' (core / 8) = railOf s.fuses s.dev (core / 8))) ∧
  (∀ (s : State), calm s → ctr s.dev 0x2000 3 ≠ 0 → obj s.fuses s.dev 0x2000 0 + 50 < rootTarget s.fuses s.dev →
      regState s.dev ≠ 1 →
      Leads .slewStep s (fun d' => obj s.fuses d' 0x2000 0 = obj s.fuses s.dev 0x2000 0 + 50 ∧ ctr d' 0x2000 3 = ctr s.dev 0x2000 3 ∧
        obj s.fuses d' 0x2000 4 = tickInc (obj s.fuses s.dev 0x2000 0 + 50))) ∧
  (∀ (s : State), calm s → ctr s.dev 0x2000 3 ≠ 0 → regState s.dev ≠ 1 →
      (obj s.fuses s.dev 0x2000 0 + 50 = rootTarget s.fuses s.dev ∨ obj s.fuses s.dev 0x2000 0 = rootTarget s.fuses s.dev + 50) →
      Leads .slewStep s (fun d' => obj s.fuses d' 0x2000 0 = rootTarget s.fuses s.dev ∧ ctr d' 0x2000 3 = 0)) ∧
  (∀ (w : Writer) (v : Nat) (s : State), calm s → 4500 ≤ v → v ≤ 4800 → v % 50 = 0 → writeReach s.fuses s.dev w.prin 0x2000 1 = 0 →
      Leads (.rootCap w v) s (fun d' => obj s.fuses d' 0x2000 1 = v ∧ obj s.fuses d' 0x2000 0 = obj s.fuses s.dev 0x2000 0 ∧
        (obj s.fuses s.dev 0x2000 0 ≠ min v (obj s.fuses s.dev 0x2000 2) → regState s.dev = 0 → ctr d' 0x2000 3 = 1))) ∧
  (∀ (vals : List Nat) (s : State), calm s → Leads (.monitorRead vals) s (fun d' =>
      obj s.fuses d' 0x2100 5 = leNat ((List.range 1024).map (fun i => leBytes 2 (vals.getD i 0))).flatten ∧ d'.mem = s.dev.mem)) ∧
  (∀ (need : List (List Nat)) (short : Nat) (s : State), calm s → planWaits s need →
      Leads (.agePeriod need short) s (fun d' => d'.power.waiting = some ⟨(planned s need).1, (planned s need).2⟩ ∧
        obj s.fuses d' 0x2100 3 = 1 ∧ obj s.fuses d' 0x2000 2 = obj s.fuses s.dev 0x2000 2)) ∧
  (∀ (need : List (List Nat)) (short : Nat) (s : State), calm s → ¬ planWaits s need →
      Leads (.agePeriod need short) s (fun d' => d'.power.waiting = none ∧ obj s.fuses d' 0x2100 3 = 0 ∧
        ∀ t, t < 16 → railOf s.fuses d' t = (planned s need).2.getD t 0)) ∧
  (∀ (w : Writer) (e : Outside) (s : State), takes s w 0x2100 2 0 → planWaits s e.rails →
      Leads (.planNow w e) s (fun d' => ended s w 0 d' ∧ d'.power.waiting = some ⟨(planned s e.rails).1, (planned s e.rails).2⟩ ∧
        obj s.fuses d' 0x2100 3 = 1)) ∧
  (∀ (s : State) (p : MarginPlan), calm s → s.dev.power.waiting = some p → (∀ q ∈ s.dev.cores, q.2.busy = false) →
      Leads .marginApplied s (fun d' => d'.power.waiting = none ∧ obj s.fuses d' 0x2100 3 = 0 ∧
        obj s.fuses d' 0x2000 2 = min p.root (obj s.fuses s.dev 0x2000 2) ∧ ∀ t, t < 16 → railOf s.fuses d' t = p.rails.getD t 0)) ∧
  (∀ (s : State), calm s → (∃ q ∈ s.dev.cores, q.2.busy = true) → Leads .marginApplied s (fun d' => d' = s.dev))

/-! ## Management frames and the Dictionary (chapter 19) -/

/-- An Ethernet frame on the management port carries bytes to this module: the address they came from, and the bytes (R12, R499). -/
abbrev Sys2Proof.Stmt.mgmtCame (s : State) (fr : List Byte) (addr : Nat) (whole : List Byte) : Prop :=
  mgmtUp s.dev = true ∧ mgmtParse s.fuses s.dev fr = some (addr, false, whole)

/-- They are a request frame of good form, `l` without its tag, and its queue has a place (R490, R491, R493). -/
abbrev Sys2Proof.Stmt.mgmtRequest (s : State) (fr : List Byte) (addr : Nat) (whole l : List Byte) : Prop :=
  mgmtCame s fr addr whole ∧ l = whole.take (frameLen whole) ∧ rxFull s.dev 4096 = false ∧
    headerOk whole = true ∧ lengthOk 4096 whole = true ∧ frameIsResp l = false ∧ requestOk l = true

/-- A tagged request is checked at once, and its tag verifies under a key or under none (R495). -/
abbrev Sys2Proof.Stmt.tagged (s : State) (whole l : List Byte) (key : Option (List Byte)) : Prop :=
  frameTagged l = true ∧ mgmtFree s.dev = true ∧ (verifyFrame s.dev l whole).2 = key

/-- Nothing is being sent on the management port. -/
abbrev Sys2Proof.Stmt.lineFree (s : State) : Prop := s.dev.host.txq = [] ∧ s.dev.host.txFree ≤ s.dev.cyc

/-- Receiving frames (R490, R494 to R496, R499, R500): an untagged READ of the always-on set and a tagged frame of a known sender
with a fresh SEQ join their queue, a READ to ff02::1 the discovery answers, a tagged frame waits while the vault bus is frozen; another
untagged frame is answered AUTH_REQUIRED in an Ethernet frame, which waits for its turn on the line or is dropped; a bad tag, a stale
BOOT, a replay and a full queue are counted; discovery, PLCA and Neighbour Solicitation are answered. -/
def Obligations.FramesAreReceived : Prop :=
  (∀ (p a : Nat) (fc fr whole l : List Byte) (s : State), mgmtRequest s (fr ++ fc) a whole l → frameTagged l = false → frameOp l = 1 →
      allAlwaysOn (requestItems l) = true → frameHere s.fuses s.dev l = true →
      Leads (.wdpFrame false p fr fc) s (fun d' =>
        d'.host.queue = s.dev.host.queue ++ [{ src := 4096, addr := a, bytes := l }] ∧
          ctr d' 0xE000 0x10 = satAdd (2 ^ 64 - 1) (ctr s.dev 0xE000 0x10) 1 ∧ d'.cores = s.dev.cores ∧ d'.mem = s.dev.mem)) ∧
  (∀ (p : Nat) (fc raw l : List Byte) (s : State) (q : Nat × Packet),
      s.dev.inbox.find? (fun q => q.1 == p && q.2.kind == 7) = some q → l = q.2.data.take (frameLen q.2.data) →
      rxFull s.dev 4097 = false → headerOk q.2.data = true → lengthOk 4097 q.2.data = true → frameIsResp l = false →
      requestOk l = true → frameTagged l = false → frameOp l = 1 → allAlwaysOn (requestItems l) = true →
      frameHere s.fuses s.dev l = true →
      Leads (.wdpFrame true p raw fc) s (fun d' => d'.inbox = s.dev.inbox.erase q ∧ d'.mem = s.dev.mem ∧
        d'.host.queue = s.dev.host.queue ++ [{ src := 4097, addr := torusAddr p q.2.data, bytes := l }])) ∧
  (∀ (p a : Nat) (fc fr whole : List Byte) (s : State), mgmtUp s.dev = true → mgmtParse s.fuses s.dev (fr ++ fc) = some (a, true, whole) →
      rxFull s.dev 4096 = false → headerOk whole = true → lengthOk 4096 whole = true → requestOk whole = true →
      frameTagged whole = false → frameOp whole = 1 → allAlwaysOn (requestItems whole) = true →
      Leads (.wdpFrame false p fr fc) s (fun d' => d'.host.discovery = s.dev.host.discovery ++ [(a, whole)] ∧
        d'.host.queue = s.dev.host.queue ∧ d'.mem = s.dev.mem)) ∧
  (∀ (p a : Nat) (fc fr whole l : List Byte) (s : State), mgmtRequest s (fr ++ fc) a whole l → frameTagged l = true → mgmtFree s.dev = false →
      Leads (.wdpFrame false p fr fc) s (fun d' => d'.host.heldIn = s.dev.host.heldIn ++ [(4096, a, whole)] ∧
        d'.host.queue = s.dev.host.queue ∧ d'.out = s.dev.out)) ∧
  (∀ (p a : Nat) (fc fr whole l : List Byte) (s : State), mgmtRequest s (fr ++ fc) a whole l → frameTagged l = false → frameOp l = 2 →
      let r := mgmtFrame s.fuses s.dev a (respFrame s.fuses s.dev l (frameFlags l &&& 0x18) Status.authRequired 0 [])
      Leads (.wdpFrame false p fr fc) s (fun d' => d'.host.queue = s.dev.host.queue ∧ d'.princ = s.dev.princ ∧
        (lineFree s → Out.mgmt r ∈ d'.out ∧ d'.host.txq = []) ∧
        (¬ lineFree s → s.dev.host.txq.length < 16 → d'.host.txq = s.dev.host.txq ++ [r]) ∧
        (16 ≤ s.dev.host.txq.length → d'.host.txq = s.dev.host.txq ∧
          ctr d' 0xE000 0x17 = satAdd (2 ^ 64 - 1) (ctr s.dev 0xE000 0x17) 1))) ∧
  (∀ (p a : Nat) (fc fr whole l : List Byte) (s : State), mgmtRequest s (fr ++ fc) a whole l → tagged s whole l none →
      Leads (.wdpFrame false p fr fc) s (fun d' => d'.host = s.dev.host ∧ d'.out = s.dev.out ∧
        ctr d' 0xE000 0x12 = satAdd (2 ^ 64 - 1) (ctr s.dev 0xE000 0x12) 1)) ∧
  (∀ (p a : Nat) (fc fr whole l key : List Byte) (s : State), mgmtRequest s (fr ++ fc) a whole l → tagged s whole l (some key) →
      frameHere s.fuses s.dev l = true → frameBoot l ≠ ctr s.dev 0xE000 2 →
      Leads (.wdpFrame false p fr fc) s (fun d' => d'.host.queue = s.dev.host.queue ∧ d'.host.senders = s.dev.host.senders ∧
        ctr d' 0xE000 0x14 = satAdd (2 ^ 64 - 1) (ctr s.dev 0xE000 0x14) 1)) ∧
  (∀ (p a : Nat) (fc fr whole l key : List Byte) (s : State) (x : Sender), mgmtRequest s (fr ++ fc) a whole l → tagged s whole l (some key) →
      frameHere s.fuses s.dev l = true → frameBoot l = ctr s.dev 0xE000 2 →
      s.dev.host.senders = [x] → x.id = frameSid l → x.fresh (frameSeq l) = true →
      Leads (.wdpFrame false p fr fc) s (fun d' =>
        d'.host.queue = s.dev.host.queue ++ [{ src := 4096, addr := a, bytes := l, key := key }] ∧
          d'.host.senders = [x.accept (frameSeq l) s.dev.cyc a])) ∧
  (∀ (p a : Nat) (fc fr whole l key : List Byte) (s : State) (x : Sender), mgmtRequest s (fr ++ fc) a whole l → tagged s whole l (some key) →
      frameHere s.fuses s.dev l = true → frameBoot l = ctr s.dev 0xE000 2 →
      s.dev.host.senders = [x] → x.id = frameSid l → x.fresh (frameSeq l) = false → x.cache = [] →
      Leads (.wdpFrame false p fr fc) s (fun d' => d'.host = s.dev.host ∧ d'.out = s.dev.out ∧
        ctr d' 0xE000 0x13 = satAdd (2 ^ 64 - 1) (ctr s.dev 0xE000 0x13) 1)) ∧
  (∀ (p a : Nat) (fc fr whole : List Byte) (s : State), mgmtCame s (fr ++ fc) a whole → rxFull s.dev 4096 = true →
      Leads (.wdpFrame false p fr fc) s (fun d' => d'.host = s.dev.host ∧ d'.out = s.dev.out ∧
        ctr d' 0xE000 0x16 = satAdd (2 ^ 64 - 1) (ctr s.dev 0xE000 0x16) 1)) ∧
  (∀ (s : State) (x : Nat × List Byte) (t : List (Nat × List Byte)) (is : List WItem), lineFree s →
      s.dev.host.discovery = x :: t → requestItems x.2 = some is → x.1 < torusBase →
      Leads .discoveryReply s (fun d' => d'.host.discovery = t ∧
        ∃ r, Out.mgmt (mgmtFrame s.fuses d' x.1 r) ∈ d'.out ∧ frameIsResp r = true)) ∧
  (∀ (fc fr mac src : List Byte) (s : State), mgmtUp s.dev = true → lineFree s → solicitor s.fuses (fr ++ fc) = some (mac, src) →
      Leads (.neighbourSolicitation fr fc) s (fun d' => d'.host.queue = s.dev.host.queue ∧
        (src.any (fun b => b != 0#8) = true →
          Out.mgmt (icmpFrame s.fuses mac (linkLocal s.fuses) src (neighbourAdvert s.fuses src true)) ∈ d'.out) ∧
        (src.all (fun b => b == 0#8) = true → Out.mgmt (icmpFrame s.fuses (multicastMac allNodes) (linkLocal s.fuses) allNodes
          (neighbourAdvert s.fuses allNodes false)) ∈ d'.out))) ∧
  (∀ (s : State), ctr s.dev 0xE000 5 ≠ 0 → ctr s.dev 0xE000 9 = 1 →
      Leads .plcaFallback s (fun d' => ctr d' 0xE000 9 = 2 ∧
        ctr d' 0xE000 0x18 = satAdd (2 ^ 32 - 1) (ctr s.dev 0xE000 0x18) 1 ∧ d'.host.queue = s.dev.host.queue)) ∧
  (∀ (s : State), ctr s.dev 0xE000 5 ≠ 0 → ctr s.dev 0xE000 9 = 2 →
      Leads .plcaRestored s (fun d' => ctr d' 0xE000 9 = 1 ∧ ctr d' 0xE000 0x18 = ctr s.dev 0xE000 0x18))

/-- The mailbox frame of a context is next for service and holds one item (R489). -/
abbrev Sys2Proof.Stmt.nextIs (s : State) (w : WdpIn) (op : Nat) (i : WItem) : Prop :=
  calm s ∧ nextFrame s.dev = some w ∧ frameOp w.bytes = op ∧ requestItems w.bytes = some [i] ∧ w.src < 4096 ∧
    (s.dev.ctx w.src).mboxState = 1 ∧ s.dev.frozen 0x8000 = false

/-- A response that is to be used is the oldest received, and the management cipher unit can check it (R495). -/
abbrev Sys2Proof.Stmt.answerCame (s : State) (w : WdpIn) : Prop :=
  mgmtFree s.dev = true ∧ s.dev.host.queue.find? (fun w => w.src == 4098) = some w ∧ s.dev.host.relays = []

/-- Serving frames (R460, R483 to R485, R489, R492, R501, R503): a READ is answered with the item's status and value, a WRITE
with its own and leaves the report of its frame; a response to a request of the device's own goes into context 0's mailbox, one
to nothing is dropped; a request without a response is sent again, and after the third time ends, as does a relay's (R476). -/
def Obligations.FramesAreServed : Prop :=
  (∀ (w : WdpIn) (s : State) (i : WItem), nextIs s w 1 i →
      let r := readItem s.fuses (takeFrame s.dev w) w.src i.idx i.sub i.off i.len ((respRoom w - 12) / 4 * 4) (bit i.flags 0)
      Leads .wdpRead s (fun d' => d'.host.queue = s.dev.host.queue.erase w ∧ d'.host.lastSrc = w.src ∧
        (d'.ctx w.src).mboxState = 2 ∧
        (d'.ctx w.src).mboxResp = respFrame s.fuses s.dev w.bytes (frameFlags w.bytes) 0 1 (respItem i 0 r.2.1 r.2.2))) ∧
  (∀ (w : WdpIn) (es : List Outside) (s : State) (i : WItem) (o : Obj), nextIs s w 2 i → objRow i.idx i.sub = some o → o.acc ≠ .cmd →
      i.idx ≠ 0x8100 →
      Leads (.wdpWrite es) s (fun d' => d'.host.queue = s.dev.host.queue.erase w ∧ (d'.ctx w.src).mboxState = 2 ∧
        (d'.prin w.src).report = { seq := frameSeq w.bytes, status := 0,
                                   entries := (writeItem s.fuses (takeFrame s.dev w) w.src i.idx i.sub i.off i.data).entries })) ∧
  (∀ (w : WdpIn) (s : State), answerCame s w → s.dev.host.remote = none →
      Leads .wdpResponse s (fun d' => d'.host.queue = s.dev.host.queue.erase w ∧ d'.ctxs = s.dev.ctxs ∧
        ctr d' 0xE000 0x15 = satAdd (2 ^ 64 - 1) (ctr s.dev 0xE000 0x15) 1)) ∧
  (∀ (w : WdpIn) (s : State) (r : RemoteReq), answerCame s w →
      s.dev.host.remote = some r → r.boot = false → (s.dev.ctx 0).mboxState = 1 → s.dev.frozen 0x8000 = false →
      let l := w.bytes.take (frameLen w.bytes)
      frameSeq l = r.seq → frameSid l = ownSid s.fuses s.dev → frameTagged l = true → frameKey l = 0 →
      (verifyFrame s.dev l w.bytes).2.isSome = true → frameStatus l ≠ Status.bootStale → l.length ≤ 1536 →
      Leads .wdpResponse s (fun d' => d'.host.remote = none ∧ (d'.ctx 0).mboxState = 2 ∧
        (d'.ctx 0).mboxResp = l.take 2 ++ leBytes 1 (frameFlags l &&& 0x19) ++ slice l 3 1 ++ slice r.request 4 12 ++ l.drop 16)) ∧
  (∀ (s : State) (r : RemoteReq), s.dev.host.remote = some r → 3 ≤ r.tries → (s.dev.ctx 0).mboxState = 1 →
      s.dev.frozen 0x8000 = false →
      Leads .remoteRetry s (fun d' => d'.host.remote = none ∧ (d'.ctx 0).mboxState = 2)) ∧
  (∀ (s : State) (r : RelayReq), s.dev.host.remote = none → s.dev.host.relays = [r] → r.frame ≠ [] → 3 ≤ r.tries →
      heldOpen s r.handle →
      Leads .remoteRetry s (fun d' => d'.host.relays = [] ∧ handleEnds d' r.handle Status.noRelay)) ∧
  (∀ (s : State) (r : RemoteReq), s.dev.host.remote = some r → r.tries < 3 →
      (if frameNear r.frame = true then carriesMgmt s.fuses s.dev (framePort r.frame) else wdpReach s.fuses s.dev (frameDst r.frame)) = true →
      Leads .remoteRetry s (fun d' => d'.host.remote = some { r with tries := r.tries + 1 } ∧
        ctr d' 0xE000 0x11 = satAdd (2 ^ 64 - 1) (ctr s.dev 0xE000 0x11) 1)) ∧
  (∀ (s : State) (r : HandleRec), calm s → SMap.find? s.dev.handles (obj s.fuses s.dev 0xF000 0x10) = some r → r.complete = true →
      Leads .mgmtHandleRecord s (fun d' => d'.handles = s.dev.handles.del (obj s.fuses s.dev 0xF000 0x10)))

/-- A write of a whole plain object that the principal reaches (R481, R482, R484). -/
abbrev Sys2Proof.Stmt.writes (s : State) (w : Writer) (idx sub : Nat) (o : Obj) : Prop :=
  calm s ∧ objRow idx sub = some o ∧ absentStatus s.fuses idx = 0 ∧ writeReach s.fuses s.dev w.prin idx sub = 0

/-- The Dictionary (R482, R484 to R487, R498, R515, R516): a write to a staged object stages the clamped value and nothing else;
one to a read-only object is refused and reported; a COMMIT whose checks pass gives the object its value, one that fails leaves
the set; DISCARD empties it; KEY_PROMOTE moves slot 1 into slot 0; FREEZE stops an arbiter, and one that is stuck is counted. -/
def Obligations.DictionaryWrites : Prop :=
  (∀ (w : Writer) (idx sub : Nat) (data : List Byte) (s : State) (o : Obj), writes s w idx sub o → ownRow idx sub = false →
      o.acc = .rws → data.length = o.len → o.len ≤ 32768 → (fixedByJob idx sub = true → jobRunning s.dev = false) →
      (s.dev.prin w.prin).staged = [] →
      let v := clampValue s.fuses s.dev o idx sub 0 (8 * o.len) (leNat data)
      Leads (.registerWrite w idx sub 0 data) s (fun d' => d'.objs = s.dev.objs ∧
        (d'.prin w.prin).staged = [⟨idx, sub, v.1, o.len⟩] ∧ (d'.prin w.prin).report = { seq := w.seq, status := 0, entries := v.2 })) ∧
  (∀ (w : Writer) (idx sub off : Nat) (data : List Byte) (s : State) (o : Obj), writes s w idx sub o → ownRow idx sub = false →
      o.acc = .ro →
      Leads (.registerWrite w idx sub off data) s (fun d' => d'.objs = s.dev.objs ∧
        (d'.prin w.prin).staged = (s.dev.prin w.prin).staged ∧
        (d'.prin w.prin).report.entries.map (fun x => (x.idx, x.sub, x.cause)) = [(idx, sub, 5)])) ∧
  (∀ (w : Writer) (s : State) (x : Staged), takes s w 0xF000 0 0 → (s.dev.prin w.prin).staged = [x] → s.dev.host.commits = [] → 0x3000 ≤ x.idx →
      x.idx < 0x3060 → x.sub < 256 → commitCheck s.fuses (invoked s w 0xF000 0) w.prin (newHandle s w) [x] x = 0 →
      adjust s.fuses (invoked s w 0xF000 0) w.prin [x] = ([x], []) →
      Leads (.commit w) s (fun d' => ended s w 0 d' ∧ (d'.prin w.prin).staged = [] ∧ obj s.fuses d' x.idx x.sub = x.val ∧
        (d'.prin w.prin).report = { seq := newHandle s w, status := 0, entries := [] } ∧ d'.mem = s.dev.mem)) ∧
  (∀ (w : Writer) (s : State) (x : Staged) (st : Nat), takes s w 0xF000 0 0 → (s.dev.prin w.prin).staged = [x] → st ≠ 0 →
      commitCheck s.fuses (invoked s w 0xF000 0) w.prin (newHandle s w) [x] x = st →
      Leads (.commit w) s (fun d' => ended s w st d' ∧ (d'.prin w.prin).staged = [x] ∧ (d'.prin w.prin).report.status = st ∧
        (∀ i j, i < 0x7000 → j < 256 → obj s.fuses d' i j = obj s.fuses s.dev i j) ∧ d'.mem = s.dev.mem)) ∧
  (∀ (w : Writer) (s : State), calm s → writeReach s.fuses s.dev w.prin 0xF000 1 = 0 →
      Leads (.discard w 1) s (fun d' => (d'.prin w.prin).staged = [] ∧ d'.objs = s.dev.objs ∧ d'.mem = s.dev.mem)) ∧
  (∀ (w : Writer) (s : State) (k : KeySlot), takes s w 0xE000 0x20 0 → s.dev.host.promote = [] →
      SMap.find? s.dev.vault.slots 1 = some k → s.dev.vault.ops = [] →
      Leads (.keyPromote w) s (fun d' => SMap.find? d'.vault.slots 0 = some k ∧ SMap.find? d'.vault.slots 1 = none ∧
        d'.host.senders = [] ∧ d'.host.promote = [] ∧ ended s w 0 d')) ∧
  (∀ (w : Writer) (s : State), takes s w 0xE000 0x20 0 → s.dev.host.promote = [] → SMap.find? s.dev.vault.slots 1 = none →
      Leads (.keyPromote w) s (fun d' => d'.vault = s.dev.vault ∧ d'.host.senders = s.dev.host.senders ∧ ended s w Status.noKey d')) ∧
  (∀ (w : Writer) (v : Nat) (s : State), calm s → writeReach s.fuses s.dev w.prin 0x8100 1 = 0 → v ≤ 1 →
      Leads (.freeze w v) s (fun d' => d'.frozen (obj s.fuses s.dev 0x8100 0) = (v == 1) ∧
        (v = 1 → d'.mem = s.dev.mem ∧ d'.cores = s.dev.cores ∧ d'.ports = s.dev.ports))) ∧
  (∀ (id req unit : Nat) (s : State), calm s → arbExists s.fuses id = true → unitExists s.fuses unit = false →
      (s.dev.arb id).counts.length = 5 →
      Leads (.arbStuck id req unit) s (fun d' => (d'.arb id).counts.getD 4 0 = sat32 ((s.dev.arb id).counts.getD 4 0) 1 ∧
        d'.frozen id = s.dev.frozen id ∧ d'.resets = s.dev.resets)) ∧
  (∀ (id req unit : Nat) (s : State), calm s → arbExists s.fuses id = true → unitExists s.fuses unit = true → s.dev.resets = [] →
      Leads (.arbStuck id req unit) s (fun d' => d'.resets.map ResetRun.unit = [unit]))

/-! ## Resets and start-up (chapter 22) -/

/-- The device runs: its auxiliary supply is on, no reset is under way or deferred, and it has not tripped. -/
abbrev Sys2Proof.Stmt.running (s : State) : Prop :=
  calm s ∧ s.dev.rst.aux = true ∧ s.dev.rst.cur = none ∧ s.dev.rst.deferred = none

/-- No core and no memory of the device has anything in flight that a warm reset would let finish first (R556). -/
abbrev Sys2Proof.Stmt.atRest (s : State) : Prop :=
  s.dev.cores = [] ∧ s.dev.mem.fills = [] ∧ s.dev.mem.hbm = [] ∧ s.dev.mem.cowHeld = [] ∧ s.dev.mem.banks = [] ∧ obj s.fuses s.dev 0xA031 0x13 ≠ 1

/-- A reset has been taken (R546, R550): its sequence, its cause and its detail; nothing of the run is left but what the reset
keeps, BOOT at any and device memory at a warm one. -/
abbrev Sys2Proof.Stmt.resetTaken (s : State) (r : RReq) (d' : Dev) : Prop :=
  d'.rst.cur = some r ∧ ctr d' 0xA000 0 = (if r.cause = 7 then 4 else 0) ∧ ctr d' 0xA000 1 = r.cause ∧ ctr d' 0xA000 2 = r.detail ∧
    d'.handles = [] ∧ d'.cores = [] ∧ d'.vault.slots = [] ∧ d'.time = 0 ∧ ctr d' 0xE000 2 = ctr s.dev 0xE000 2 ∧
    d'.mem.bytes = (if r.kind = .warm then s.dev.mem.bytes else [])

/-- Device resets (R533, R544 to R550, R605, R607): each request takes its reset with its cause; a warm reset of a device whose
cores and memory are at rest keeps device memory; a flash pulse defers a reset to its end; a request during a reset is only
recorded; and releases, restarts and the loss of the auxiliary supply are as the rules say. -/
def Obligations.ResetsAreTaken : Prop :=
  (∀ (s : State), running s → atRest s → Leads (.rstin true false) s (fun d' =>
      resetTaken s ⟨.warm, 3, 0⟩ d' ∧ d'.rst.held = true)) ∧
  (∀ (s : State), running s → atRest s → Leads (.perst true false) s (fun d' =>
      resetTaken s ⟨.warm, 2, obj s.fuses s.dev 0xD000 0⟩ d' ∧ d'.rst.held = true)) ∧
  (∀ (pulse : Bool) (s : State),
      Leads (.rstin false pulse) s (fun d' => d' = { s.dev with rst := { s.dev.rst with rstin := false } })) ∧
  (∀ (s : State) (r : RReq), s.dev.rst.aux = true → s.dev.rst.cur = some r → ctr s.dev 0xA000 0 ≠ 4 →
      Leads (.rstin true false) s (fun d' => d'.rst.cur = some r ∧ (ctr d' 0xA000 3).testBit 3 = true ∧ d'.mem = s.dev.mem)) ∧
  (∀ (s : State), running s → Leads (.rstin true true) s (fun d' => d'.rst.deferred = some ⟨.warm, 3, 0⟩ ∧ d'.rst.cur = none ∧
      d'.mem = s.dev.mem ∧ d'.cores = s.dev.cores)) ∧
  (∀ (us : Nat) (s : State) (r : RReq), s.dev.rst.deferred = some r →
      Leads (.flashPulseEnd us) s (fun d' => d'.rst.cur = some r ∧ d'.rst.deferred = none ∧ d'.rst.deferUs = us ∧
        d'.rst.wasDeferred = true ∧ ctr d' 0xA000 1 = r.cause)) ∧
  (∀ (w : Writer) (kind : Nat) (s : State), running s → kind ≤ 1 → takes s w 0xA000 0x10 kind → s.dev.rst.due = none →
      (kind = 0 → atRest s) →
      Leads (.deviceReset w kind false) s (fun d' => resetTaken s ⟨if kind = 1 then .cold else .warm, 4, viaOf w.prin w.prin % 3⟩ d' ∧
        d'.rst.due = none)) ∧
  (∀ (detail : Nat) (s : State), running s →
      Leads (.supplyFault detail false) s (fun d' => resetTaken s ⟨.cold, 8, detail % 2⟩ d' ∧ d'.rst.supplyWait = true)) ∧
  (∀ (detail : Nat) (s : State), running s →
      Leads (.supplyFault detail true) s (fun d' => d'.rst.deferred = some ⟨.cold, 8, detail % 2⟩ ∧ d'.rst.cur = none ∧
        ready d' = false ∧ d'.cores = [] ∧ d'.mem.bytes = [] ∧ d'.handles = s.dev.handles)) ∧
  (∀ (s : State), running s → s.dev.rst.refclk = true → Leads (.refclkLoss false) s (fun d' => resetTaken s ⟨.cold, 8, 2⟩ d' ∧ d'.rst.refclk = false)) ∧
  (∀ (s : State), s.dev.rst.cur.isSome = true → s.dev.rst.supplyWait = true →
      Leads .supplyRestart s (fun d' => d'.rst.supplyWait = false ∧
        d'.rst.refclk = (s.dev.rst.refclk || ctr s.dev 0xA000 2 == 2) ∧ d'.rst.held = pinsHold s.dev ∧
        d'.objs = s.dev.objs)) ∧
  (∀ (s : State), s.dev.rst.cur.isSome = true → s.dev.rst.held = true → s.dev.rst.aux = true →
      Leads .resetRelease s (fun d' => d'.rst.held = pinsHold s.dev ∧ d'.rst.cur = s.dev.rst.cur ∧ d'.objs = s.dev.objs)) ∧
  (∀ (s : State), s.dev.rst.aux = false →
      Leads .powerOn s (fun d' => d' = { s.dev with rst := { s.dev.rst with aux := true } })) ∧
  (∀ (s : State), s.dev.rst.aux = true → s.dev.rst.cur = none → s.dev.rst.deferred = none →
      Leads .powerOn s (fun d' => d'.rst.cur = some ⟨.por, 1, 0⟩ ∧ d'.rst.aux = true ∧ ctr d' 0xA000 0 = 0 ∧ ctr d' 0xA000 1 = 1 ∧
        d'.errLog = [] ∧ d'.mem.bytes = [] ∧ d'.handles = [])) ∧
  (∀ (s : State), running s → Leads .auxSupplyLoss s (fun d' => d'.rst.cur = some ⟨.por, 1, 0⟩ ∧ d'.rst.aux = false ∧
      ctr d' 0xA000 0 = 0 ∧ d'.mem.bytes = []))

/-- The fuse check of this start fails (R38): a power-on reset reads the fuses again. -/
def Sys2Proof.Stmt.fusesBad (s : State) (st : Startup) (r : RReq) : Bool :=
  fuseBad s.fuses (if r.kind = .por then { s.dev with rst := { s.dev.rst with fuseCrc := st.fuseCrc, fuseDisagree := st.fuseDisagree } }
    else s.dev)

/-- A start whose every step passes. -/
abbrev Sys2Proof.Stmt.good (s : State) (st : Startup) : Prop :=
  st.failStep = 0 ∧ st.vaultFails = false ∧ st.failCores % 2 ^ s.fuses.cores = 0

/-- A reset device that may start (R555, R556). -/
abbrev Sys2Proof.Stmt.mayStart (s : State) (r : RReq) : Prop :=
  s.dev.rst.cur = some r ∧ ctr s.dev 0xA000 0 = 0 ∧ s.dev.rst.held = false ∧ s.dev.rst.supplyWait = false ∧
    s.dev.rst.aux = true

/-- FW_UPDATE finds the idle bank and a mapped image, with no other update and no reset before it (R549, R560). -/
abbrev Sys2Proof.Stmt.updates (s : State) (w : Writer) (a : Nat) (rs : List (Nat × Nat)) : Prop :=
  a < 2 ^ 104 ∧ takes s w 0xA020 8 a ∧ bits a 103 96 ≠ ctr s.dev 0xA020 0 ∧
    ctxRuns s.dev 0 false (bits a 63 0) (bits a 95 64) = some rs ∧ s.dev.host.fws = [] ∧ s.dev.rst.deferred = none ∧
    s.dev.rst.banks.length = 2

/-- Start-up and firmware (R38, R555 to R560, R607): a start whose steps pass ends READY from the bank chosen, with BOOT
incremented; a fuse check that fails halts it in step 1; without REFCLK it waits in step 4 and goes on when REFCLK is there;
FW_UPDATE erases the idle bank and, once its image can be read, writes a good image or none, and FW_SVN_RAISE only raises. -/
def Obligations.StartsAndFirmware : Prop :=
  (∀ (st : Startup) (s : State) (r : RReq) (b : Nat), mayStart s r → good s st → fusesBad s st r = false → s.dev.rst.refclk = true →
      fwBank s.fuses s.dev st 0 = some b →
      Leads (.startup st) s (fun d' => ctr d' 0xA000 0 = 2 ∧ ctr d' 0xA000 6 = 10 ∧ d'.rst.cur = none ∧ ctr d' 0xA020 0 = b ∧
        ctr d' 0xE000 2 = (ctr s.dev 0xE000 2 + 1) % 2 ^ 32 ∧ d'.mem.bytes = s.dev.mem.bytes ∧ d'.mem.hbm = [])) ∧
  (∀ (st : Startup) (s : State) (r : RReq), mayStart s r → fusesBad s st r = true →
      Leads (.startup st) s (fun d' => ctr d' 0xA000 0 = 3 ∧ ctr d' 0xA000 6 = 1 ∧ d'.rst.cur = some r)) ∧
  (∀ (st : Startup) (s : State) (r : RReq), mayStart s r → fusesBad s st r = false → st.failStep = 0 →
      fwBank s.fuses s.dev st 0 = none →
      Leads (.startup st) s (fun d' => ctr d' 0xA000 0 = 3 ∧ ctr d' 0xA000 6 = 2 ∧
        ctr d' 0xA000 7 = fwStatus s.fuses s.dev st 0 (s.dev.rst.bankNext % 2))) ∧
  (∀ (st : Startup) (s : State) (r : RReq) (b : Nat), mayStart s r → good s st → fusesBad s st r = false → s.dev.rst.refclk = false →
      fwBank s.fuses s.dev st 0 = some b →
      Leads (.startup st) s (fun d' => ctr d' 0xA000 0 = 1 ∧ d'.rst.awaitRefclk = true ∧ d'.rst.cur = some r)) ∧
  (∀ (st : Startup) (s : State) (r : RReq), s.dev.rst.cur = some r → s.dev.rst.awaitRefclk = true → good s st →
      Leads (.refclkPresent st) s (fun d' => ctr d' 0xA000 0 = 2 ∧ d'.rst.cur = none ∧ d'.rst.refclk = true)) ∧
  (∀ (w : Writer) (a ver svn key : Nat) (e : Outside) (s : State) (rs : List (Nat × Nat)), updates s w a rs → sound s →
      rs.all (runReady s.fuses s.dev s.dev.cmcWho) = true →
      fwImage (runBytes s.dev rs) = some (ver, svn, key) → bits a 95 64 ≤ 24 * 2 ^ 20 → s.fuses.revoked.testBit key = false →
      obj s.fuses s.dev 0xA020 4 ≤ svn →
      Leads (.fwUpdate w a e) s (fun d' => d'.mem.bytes = s.dev.mem.bytes ∧
        (e.sigOk = true → d'.rst.banks.getD (bits a 103 96) none = some (ver, svn) ∧ ended s w 0 d') ∧
        (e.sigOk = false → d'.rst.banks.getD (bits a 103 96) none = none ∧ ended s w Status.fwWriteFail d'))) ∧
  (∀ (w : Writer) (a : Nat) (e : Outside) (s : State) (rs : List (Nat × Nat)), updates s w a rs →
      rs.all (runReady s.fuses s.dev s.dev.cmcWho) = false →
      Leads (.fwUpdate w a e) s (fun d' => goesOn s w d' ∧ d'.rst.banks.getD (bits a 103 96) none = none ∧ d'.mem = s.dev.mem)) ∧
  (∀ (w : Writer) (a : Nat) (e : Outside) (s : State), a < 2 ^ 104 → takes s w 0xA020 8 a → bits a 103 96 = ctr s.dev 0xA020 0 →
      Leads (.fwUpdate w a e) s (fun d' => d'.rst = s.dev.rst ∧ ended s w Status.fwBankActive d')) ∧
  (∀ (w : Writer) (v : Nat) (s : State), v < 64 → takes s w 0xA020 9 v →
      Leads (.fwSvnRaise w v) s (fun d' => d'.rst = s.dev.rst ∧
        (if runningSvn s.dev < v then obj s.fuses d' 0xA020 4 = obj s.fuses s.dev 0xA020 4 ∧ ended s w Status.fwRollback d'
         else obj s.fuses d' 0xA020 4 = max v (obj s.fuses s.dev 0xA020 4) ∧ ended s w 0 d')))

/-! ## Heartbeats and recovery (chapter 23) -/

/-- Heartbeats and escalation (R567, R568, R570 to R575): HB_SEQ advances, of the standby only when it is ready; a fresh
heartbeat is remembered; a lost peer takes its port down with cause 3 and is asked to reset at most ten times; a matching request
to a silent device resets it and any other is counted; and a watchdog's bite restarts the standby, fails over, or resets. -/
def Obligations.HeartbeatsAndEscalation : Prop :=
  (∀ (s : State), calm s → Leads .heartbeatAdvance s (fun d' => ctr d' 0xA050 2 = (ctr s.dev 0xA050 2 + 1) % 2 ^ 32 ∧
      d'.recov.standbySends = false ∧ d'.mem = s.dev.mem ∧ d'.cores = s.dev.cores)) ∧
  (∀ (s : State), calm s → s.dev.recov.standbyReady = true → Leads .standbyHeartbeat s (fun d' =>
      ctr d' 0xA050 2 = (ctr s.dev 0xA050 2 + 1) % 2 ^ 32 ∧ d'.recov.standbySends = true ∧ d'.cores = s.dev.cores)) ∧
  (∀ (s : State), calm s → s.dev.recov.standbyReady = false → Leads .standbyHeartbeat s (fun d' => d' = s.dev)) ∧
  (∀ (p : Nat) (raw : List Byte) (s : State) (x : Flit), calm s → ctrlHeard s p 0x0A raw x → slotKey s.dev 3 = none →
      (s.dev.port p).mgmtOnly = false →
      let a := x.body.drop 1
      let n := field a 31 2 * 2 ^ 32 + field a 0 4
      (∀ b, SMap.find? s.dev.recov.beats p = some b → b.boot = field a 4 4 → b.seq < n) →
      Leads (.heartbeat p raw) s (fun d' => SMap.find? d'.recov.beats p = some { boot := field a 4 4, seq := n } ∧
        d'.mem = s.dev.mem ∧ d'.cores = s.dev.cores)) ∧
  (∀ (p : Nat) (s : State), calm s → p < 6 → hbActive s.fuses s.dev = true → (s.dev.port p).live = true →
      Leads (.peerLost p) s (fun d' => (d'.port p).state = .down ∧ obj s.fuses d' (pIdx p) 6 = 3 ∧ d'.mem = s.dev.mem)) ∧
  (∀ (p : Nat) (s : State) (b : Beat), calm s → hbActive s.fuses s.dev = true → obj s.fuses s.dev 0xA050 4 ≠ 0 →
      (s.dev.port p).mgmtOnly = true → obj s.fuses s.dev (pIdx p) 6 = 3 → SMap.find? s.dev.recov.beats p = some b → b.resets < 10 →
      Leads (.hbResetSend p) s (fun d' => SMap.find? d'.recov.beats p = some { b with resets := b.resets + 1 } ∧ d'.mem = s.dev.mem)) ∧
  (∀ (p : Nat) (raw : List Byte) (s : State) (x : Flit), running s → atRest s → ctrlHeard s p 0x0B raw x →
      field (x.body.drop 1) 0 4 = ctr s.dev 0xE000 2 →
      Leads (.hbReset p raw true false) s (fun d' => resetTaken s ⟨.warm, 6, p + 1⟩ d')) ∧
  (∀ (p : Nat) (raw : List Byte) (pulse : Bool) (s : State) (x : Flit), calm s → ctrlHeard s p 0x0B raw x →
      Leads (.hbReset p raw false pulse) s (fun d' => ctr d' 0xA050 5 = satAdd (2 ^ 32 - 1) (ctr s.dev 0xA050 5) 1 ∧
        d'.rst = s.dev.rst ∧ d'.mem = s.dev.mem)) ∧
  (∀ (v : Nat) (s : State), running s → atRest s → bits v 31 16 = ctr s.dev 0xE000 2 % 65536 → bits v 15 0 = 1 →
      Leads (.escalate v true false) s (fun d' => resetTaken s ⟨.warm, 6, 0⟩ d')) ∧
  (∀ (v : Nat) (pulse : Bool) (s : State),
      Leads (.escalate v false pulse) s (fun d' => ctr d' 0xA050 5 = satAdd (2 ^ 32 - 1) (ctr s.dev 0xA050 5) 1 ∧ d'.rst = s.dev.rst)) ∧
  (∀ (hung : Option Nat) (es : List Outside) (pulse : Bool) (s : State), s.dev.recov.standbyStopped = false →
      Leads (.cmcWatchdog true hung es pulse) s (fun d' => d'.recov.standbyReady = false ∧ d'.recov.standbySends = false ∧
        ctr d' 0xA050 7 = ctr s.dev 0xA050 7 ∧ d'.cores = s.dev.cores)) ∧
  (∀ (es : List Outside) (pulse : Bool) (s : State), s.dev.recov.standbyReady = true →
      Leads (.cmcWatchdog false none es pulse) s (fun d' => ctr d' 0xA050 7 = 1 - ctr s.dev 0xA050 7 ∧
        ctr d' 0xA050 8 = satAdd (2 ^ 32 - 1) (ctr s.dev 0xA050 8) 1 ∧ d'.recov.standbyReady = false ∧ d'.host.remote = none ∧
        d'.igForm = none ∧ d'.cores = s.dev.cores ∧ d'.mem = s.dev.mem)) ∧
  (∀ (hung : Option Nat) (es : List Outside) (s : State), running s → atRest s → s.dev.recov.standbyReady = false →
      Leads (.cmcWatchdog false hung es false) s (fun d' => resetTaken s ⟨.warm, 5, ctr s.dev 0xA050 7⟩ d')) ∧
  (∀ (s : State), s.dev.recov.standbyStopped = false →
      Leads .standbyRestart s (fun d' => d'.recov.standbyReady = true ∧ d'.objs = s.dev.objs ∧ d'.cores = s.dev.cores))

/-- Stalls, unit resets, withdrawal and test of cores (R565, R580 to R584): a stall of a class that is not reset for it is logged;
ENGINE_RESET resets its unit and goes on, or ends at once with IO_ACTIVE on the active I/O tile; the end of a reset completes its
handle; CORE_WITHDRAW of an idle core resets it and goes on, of a busy one ends with CORE_BUSY; CORE_TEST ends with its outcome;
and REINSTATE puts a tested core back into service. -/
def Obligations.UnitsAreRecovered : Prop :=
  (∀ (u : Nat) (s : State), calm s → 1 ≤ unitClass u → unitClass u ≤ 8 → unitExists s.fuses u = true →
      unitPending s.fuses s.dev u = true → SMap.find? s.dev.recov.stalled u = none → bit (obj s.fuses s.dev 0xA031 0x10) (unitClass u) = false →
      Leads (.unitStalled u) s (fun d' => d'.resets = s.dev.resets ∧ d'.mem = s.dev.mem ∧
        ∃ e, d'.errLog = e :: s.dev.errLog ∧ e.status = Status.unitStalled ∧ e.unit = u)) ∧
  (∀ (w : Writer) (u : Nat) (s : State), u < 2 ^ 16 → takes s w 0xA030 0 u →
      (unitClass u = 9 → ioActive s.fuses s.dev (unitTile u) = false) → s.dev.resets = [] →
      (s.dev.proof.state ≠ 0 → s.dev.proof.handle ≠ newHandle s w) → (∀ o ∈ s.dev.vault.ops, o.handle ≠ newHandle s w) →
      Leads (.engineReset w u) s (fun d' => goesOn s w d' ∧ unitInReset d' u = true ∧
        d'.resets.map ResetRun.handles = [[newHandle s w]])) ∧
  (∀ (w : Writer) (u : Nat) (s : State), u < 2 ^ 16 → takes s w 0xA030 0 u → unitClass u = 9 →
      ioActive s.fuses s.dev (unitTile u) = true →
      Leads (.engineReset w u) s (fun d' => ended s w Status.ioActive d' ∧ d'.resets = s.dev.resets ∧ d'.cores = s.dev.cores)) ∧
  (∀ (u h : Nat) (s : State) (r : ResetRun), calm s → s.dev.resets = [r] → r.unit = u → r.cleared = true → r.handles = [h] →
      resetReady s.fuses s.dev u = true → s.dev.recov.wd = [] → heldOpen s h →
      Leads (.engineResetComplete u) s (fun d' => d'.resets = [] ∧ handleEnds d' h 0 ∧ d'.cores = s.dev.cores ∧ d'.mem = s.dev.mem)) ∧
  (∀ (w : Writer) (c : Nat) (s : State), c < s.fuses.cores → c < 128 → takes s w 0xA040 1 c → withdrawn s.dev c = false →
      (s.dev.core c).busy = false → withdrawnCount s.dev < 16 → s.dev.recov.wd = [] → s.dev.recov.wdBusy = false →
      s.dev.resets = [] →
      Leads (.coreWithdraw w c) s (fun d' => goesOn s w d' ∧ d'.recov.wdBusy = true ∧ unitInReset d' (coreUnit c) = true)) ∧
  (∀ (w : Writer) (c : Nat) (s : State), c < s.fuses.cores → c < 256 → takes s w 0xA040 1 c → withdrawn s.dev c = false →
      (s.dev.core c).busy = true → s.dev.recov.wd = [] → s.dev.recov.wdBusy = false →
      Leads (.coreWithdraw w c) s (fun d' => ended s w Status.coreBusy d' ∧ ctr d' 0xA040 0 = ctr s.dev 0xA040 0 ∧
        d'.resets = s.dev.resets)) ∧
  (∀ (w : Writer) (c : Nat) (e : Outside) (s : State), c < s.fuses.cores → c < 128 → takes s w 0xA040 2 c →
      withdrawn s.dev c = true → s.dev.recov.wd = [] → s.dev.recov.wdBusy = false →
      Leads (.coreTest w c e) s (fun d' => d'.recov.tested.testBit c = decide (e.test % 2 ^ 24 = 0) ∧
        ended s w (if e.test % 2 ^ 24 = 0 then 0 else Status.testFail) d' ∧ ctr d' 0xA040 0 = ctr s.dev 0xA040 0)) ∧
  (∀ (w : Writer) (c : Nat) (s : State), c < s.fuses.cores → c < 128 → takes s w 0xA040 3 c → withdrawn s.dev c = true →
      s.dev.recov.wd = [] → s.dev.recov.wdBusy = false →
      Leads (.reinstate w c) s (fun d' =>
        if s.dev.recov.tested.testBit c = true then withdrawn d' c = false ∧ ended s w 0 d'
        else withdrawn d' c = true ∧ ended s w Status.notTested d'))

/-! ## The block as a whole -/

/-- The rows of the units that work only in a device that is READY (R549, R557). -/
def Sys2Proof.Stmt.unitRow : Instr → Bool
  | .mma .. | .mmaScan .. | .cLoad .. | .operandsFree .. | .drain .. | .drainDone .. | .expandDecode .. | .add .. |
    .sub .. | .mul .. | .fma .. | .max .. | .min .. | .abs .. | .neg .. | .cvt .. | .adds .. | .muls .. | .axpy .. |
    .exp2 .. | .log2 .. | .rcp .. | .rsqrt .. | .rsum .. | .rsumsq .. | .ramax .. | .apadd .. | .cmpgt .. | .sel .. |
    .vecStart .. | .vecComplete .. | .adamwUpdate .. | .momentumUpdate .. | .updComplete .. | .load .. | .store .. |
    .copy .. | .put .. | .qsend .. | .qpop .. | .qflush .. | .moveStart .. | .moveComplete .. | .wait .. | .set .. |
    .send .. | .claim .. | .fence .. | .syncBarrier .. | .claimServe .. | .claimReturn .. | .loop .. | .skip .. | .halt .. |
    .nop .. | .allgather .. | .reducescatter .. | .allreduce .. | .alltoall .. | .broadcast .. | .collBarrier .. |
    .collChunkDone .. | .build .. | .encode .. | .decode .. | .codecOpStart .. | .codecOpComplete .. | .cntclr .. |
    .trace .. | .sysFault .. | .sysTime .. | .flagclr .. | .tokenCreditMessage .. | .queueWordMessage .. |
    .queueWordWrite .. | .tcRequest .. | .tcFillComplete .. | .retireListWrite | .burnishGranule .. | .memCalibration |
    .refresh .. | .controllerReady .. | .cowCopy .. | .cowWriteAdmit | .dataFlit .. | .nullFlit .. | .flitNak .. |
    .nakRepeat .. | .replayLimit .. | .flitIdent .. | .flitProbe .. | .flitEcho .. | .laneReq .. | .laneAck .. |
    .laneSwitch .. | .laneSerWindow .. | .flitDown .. | .lossOfSignal .. | .trainAttempt .. | .trainComplete .. |
    .ringStatus .. | .routeQuietExpiry .. | .torusPacket .. | .formTimeout .. | .collData .. | .collAnchor .. |
    .collForm .. | .suspect .. | .collProbe .. | .reply .. | .extend .. | .collCommit .. | .abandon .. | .slow .. |
    .hold .. | .resume .. | .commitReq .. | .collBarrierPass .. | .deadlineExpiry .. | .probeWaitExpiry .. |
    .suspectRetryExpiry .. | .slowSend .. | .holdLimitExpiry .. | .igFormTimeout | .segment .. | .roundEnd .. |
    .release .. | .lhEgress .. | .igSeg .. | .igEnd .. | .igAck .. | .igNak .. | .igReport .. | .igAdmit .. | .igCommit .. |
    .igKeepalive .. | .igState .. | .join .. | .segmentComplete .. | .stateStreamComplete .. | .nakWaitExpiry .. |
    .endResend .. | .reportDeadline .. | .reportResend .. | .admitWaitExpiry .. | .keepaliveSend | .livenessExpiry .. |
    .lhPortDown .. | .lhPortUp .. | .cipherSeal .. | .cipherOpen .. | .cipherStart .. | .cipherComplete .. |
    .boundaryCheck | .plateNote .. | .proofDrain .. | .proofAck .. | .sinkTimeout | .cpWrite | .regReady .. | .regWave .. |
    .regReleased | .regTimeout | .pcieFailover .. | .functionLevelReset .. | .cmdDb .. | .evtDb .. | .commandFetch .. |
    .dict .. | .loadProgram .. | .coreStop .. | .coreResume .. | .coreRelease .. | .coreFlush .. | .coreReset .. |
    .mapPages .. | .unmapPages .. | .nopCommand .. | .msixModeration .. | .arbStuck .. | .railReport .. | .supplyDroop |
    .supplyRecover | .busbarHigh .. | .canary .. | .slewStep | .monitorRead .. | .agePeriod .. | .marginApplied |
    .heartbeatAdvance | .heartbeat .. | .peerLost .. | .hbResetSend .. | .hbReset .. | .standbyHeartbeat | .unitStalled .. |
    .engineResetComplete .. | .ringDmaTimeout .. => true
  | _ => false

/-- A device that is not READY is left as it is by every row of its units (R549, R557). -/
def Obligations.UnitsRestUntilReady : Prop :=
  ∀ (i : Instr) (s : State), unitRow i = true → ready s.dev = false → Leads i s (fun d' => d' = s.dev)

/-- Every step answers a next state: it takes the front of the queue and nothing else of it, and the fuses stay (R36). -/
def Obligations.EveryStepAnswers : Prop :=
  ∀ s : State, ∃ t, step s = .next t ∧ t.fuses = s.fuses ∧ t.pending = s.pending.tail

/-- A STOP command that waits still has a thread to wait for (R474), and a completed handle has had its NOTIFY frame (R504). -/
abbrev Sys2Proof.Stmt.settled (s : State) : Prop :=
  (∀ p ∈ s.dev.handles, HandleRec.owesNotify p.2 = false) ∧ (∀ x ∈ s.dev.recov.stops, stopDone s.dev x.2 = false)

/-- Every step keeps what `settled` says, from every state that has it. -/
def Obligations.EveryStepKeepsSettled : Prop :=
  ∀ s t : State, settled s → step s = .next t → settled t

/-- The state after reset has it. -/
def Obligations.ResetIsSettled : Prop := settled State.reset

/-- What a reset leaves (R114, R121, R229, R392, R442, R461, R546, R550): the device is in RESET after a power-on, TIME is 0, device memory
reads 00h with no line poisoned, the Plates read 00h, every thread is IDLE and every counter 0, every key slot is EMPTY, context 0
is open and every other is FREE, and nothing waits. -/
def Obligations.ResetState : Prop :=
  State.reset.pending = [] ∧ ctr State.reset.dev 0xA000 0 = 0 ∧ ctr State.reset.dev 0xA000 1 = 1 ∧ State.reset.dev.time = 0 ∧
    (∀ a, readByte State.reset.dev.mem.bytes a = 0#8) ∧ State.reset.dev.mem.poison = [] ∧
    (∀ c, (State.reset.dev.core c).f.state = .idle ∧ (State.reset.dev.core c).b.state = .idle ∧
      (∀ r, (State.reset.dev.core c).counter r = 0) ∧ ∀ a, readByte (State.reset.dev.core c).plate a = 0#8) ∧
    (∀ k, SMap.find? State.reset.dev.vault.slots k = none) ∧ (State.reset.dev.ctx 0).state = .opened ∧
    (∀ g, g ≠ 0 → (State.reset.dev.ctx g).state = .free) ∧ State.reset.dev.handles = []
end

