-- ==== Sys2Proof/Laws/Memory.lean ====
section
/-! SUPPORT. The keyed lists and the byte memories: what a read gives after a write, and that every operation keeps the
canonical form. -/

namespace Sys2Proof
namespace SMap
variable {α : Type}

/-! ## Keyed lists -/

theorem get_nil (d : α) (k : Nat) : get d [] k = d := rfl

theorem get_put (d : α) (m : SMap α) (k : Nat) (v : α) (x : Nat) :
    get d (put m k v) x = if x = k then v else get d m x := by
  induction m with
  | nil => rfl
  | cons p t ih =>
    obtain ⟨k', v'⟩ := p
    unfold put
    split
    · simp [get]
    · split
      · rename_i h; subst h; by_cases hx : x = k <;> simp [get, hx]
      · rename_i h; simp only [get, ih]
        by_cases hx : x = k' <;> by_cases hy : x = k <;> simp_all

theorem find?_put (m : SMap α) (k : Nat) (v : α) (x : Nat) :
    find? (put m k v) x = if x = k then some v else find? m x := by
  induction m with
  | nil => rfl
  | cons p t ih =>
    obtain ⟨k', v'⟩ := p
    unfold put
    split
    · simp [find?]
    · split
      · rename_i h; subst h; by_cases hx : x = k <;> simp [find?, hx]
      · rename_i h; simp only [find?, ih]
        by_cases hx : x = k' <;> by_cases hy : x = k <;> simp_all

@[simp] theorem get_put_same (d : α) (m : SMap α) (k : Nat) (v : α) : get d (put m k v) k = v := by simp [get_put]

theorem get_put_other (d : α) (m : SMap α) {k x : Nat} (v : α) (h : x ≠ k) : get d (put m k v) x = get d m x := by
  simp [get_put, h]

@[simp] theorem find?_put_same (m : SMap α) (k : Nat) (v : α) : find? (put m k v) k = some v := by simp [find?_put]

theorem find?_put_other (m : SMap α) {k x : Nat} (v : α) (h : x ≠ k) : find? (put m k v) x = find? m x := by
  simp [find?_put, h]

theorem get_eq_find? (d : α) (m : SMap α) (k : Nat) : get d m k = (find? m k).getD d := by
  induction m with
  | nil => rfl
  | cons p t ih => obtain ⟨k', v'⟩ := p; by_cases h : k = k' <;> simp [get, find?, h, ih]

/-- The canonical order, as a relation on every pair. -/
theorem sorted_iff (m : SMap α) : sorted m = true ↔ m.Pairwise (fun a b => a.1 < b.1) := by
  induction m with
  | nil => simp [sorted]
  | cons p t ih =>
    cases t with
    | nil => simp [sorted]
    | cons q u =>
      obtain ⟨k, v⟩ := p; obtain ⟨k', v'⟩ := q
      simp only [sorted, Bool.and_eq_true, decide_eq_true_eq, ih]
      constructor
      · rintro ⟨h, hp⟩
        refine List.pairwise_cons.2 ⟨fun b hb => ?_, hp⟩
        rcases List.mem_cons.1 hb with rfl | hb
        · exact h
        · exact Nat.lt_trans h ((List.pairwise_cons.1 hp).1 b hb)
      · intro hp
        have := List.pairwise_cons.1 hp
        exact ⟨this.1 (k', v') (List.mem_cons_self ..), this.2⟩

theorem sorted_tail {p : Nat × α} {t : SMap α} (h : sorted (p :: t) = true) : sorted t = true :=
  (sorted_iff t).2 (List.pairwise_cons.1 ((sorted_iff _).1 h)).2

/-- No key below every key of a list is in it. -/
theorem get_below (d : α) (m : SMap α) (k : Nat) (h : ∀ p ∈ m, k < p.1) : get d m k = d := by
  induction m with
  | nil => rfl
  | cons p t ih =>
    obtain ⟨k', v'⟩ := p
    have h1 := h (k', v') (List.mem_cons_self ..)
    simp only [get, if_neg (Nat.ne_of_lt h1)]
    exact ih (fun q hq => h q (List.mem_cons_of_mem _ hq))

theorem mem_put {m : SMap α} {k : Nat} {v : α} {p : Nat × α} (h : p ∈ put m k v) : p = (k, v) ∨ p ∈ m := by
  induction m with
  | nil => simp_all [put]
  | cons q t ih =>
    obtain ⟨k', v'⟩ := q
    unfold put at h
    split at h
    · simpa using h
    · split at h
      · rcases List.mem_cons.1 h with h | h
        · exact .inl h
        · exact .inr (List.mem_cons_of_mem _ h)
      · rcases List.mem_cons.1 h with h | h
        · exact .inr (h ▸ List.mem_cons_self ..)
        · exact (ih h).imp id (List.mem_cons_of_mem _)

theorem mem_del {m : SMap α} {k : Nat} {p : Nat × α} (h : p ∈ del m k) : p ∈ m := by
  induction m with
  | nil => simp [del] at h
  | cons q t ih =>
    obtain ⟨k', v'⟩ := q
    unfold del at h
    split at h
    · exact List.mem_cons_of_mem _ h
    · rcases List.mem_cons.1 h with h | h
      · exact h ▸ List.mem_cons_self ..
      · exact List.mem_cons_of_mem _ (ih h)

theorem sorted_put (m : SMap α) (k : Nat) (v : α) (h : sorted m = true) : sorted (put m k v) = true := by
  induction m with
  | nil => rfl
  | cons p t ih =>
    obtain ⟨k', v'⟩ := p
    have hp := List.pairwise_cons.1 ((sorted_iff _).1 h)
    unfold put
    split
    · rename_i hk
      refine (sorted_iff _).2 (List.pairwise_cons.2 ⟨fun b hb => ?_, (sorted_iff _).1 h⟩)
      rcases List.mem_cons.1 hb with rfl | hb
      · exact hk
      · exact Nat.lt_trans hk (hp.1 b hb)
    · split
      · rename_i hk; subst hk
        exact (sorted_iff _).2 (List.pairwise_cons.2 ⟨hp.1, hp.2⟩)
      · refine (sorted_iff _).2 (List.pairwise_cons.2 ⟨fun b hb => ?_, (sorted_iff _).1 (ih ((sorted_iff _).2 hp.2))⟩)
        rcases mem_put hb with rfl | hb
        · simp only; omega
        · exact hp.1 b hb

theorem sorted_del (m : SMap α) (k : Nat) (h : sorted m = true) : sorted (del m k) = true := by
  induction m with
  | nil => rfl
  | cons p t ih =>
    obtain ⟨k', v'⟩ := p
    have hp := List.pairwise_cons.1 ((sorted_iff _).1 h)
    unfold del
    split
    · exact (sorted_iff _).2 hp.2
    · exact (sorted_iff _).2 (List.pairwise_cons.2 ⟨fun b hb => hp.1 b (mem_del hb), (sorted_iff _).1 (ih ((sorted_iff _).2 hp.2))⟩)

theorem get_del (d : α) (m : SMap α) (k x : Nat) (h : sorted m = true) :
    get d (del m k) x = if x = k then d else get d m x := by
  induction m with
  | nil => simp [del, get]
  | cons p t ih =>
    obtain ⟨k', v'⟩ := p
    have hp := List.pairwise_cons.1 ((sorted_iff _).1 h)
    unfold del
    split
    · rename_i hk; subst hk
      by_cases hx : x = k
      · subst hx; simp only [if_true]
        exact get_below d t x (fun q hq => hp.1 q hq)
      · simp [get, hx]
    · simp only [get, ih ((sorted_iff _).2 hp.2)]
      by_cases hx : x = k' <;> by_cases hy : x = k <;> simp_all

theorem find?_del_other (m : SMap α) {k x : Nat} (h : x ≠ k) : find? (del m k) x = find? m x := by
  induction m with
  | nil => rfl
  | cons p t ih =>
    obtain ⟨k', v'⟩ := p
    unfold del
    split
    · rename_i hk; subst hk; simp [find?, h]
    · simp [find?, ih]

section
variable [DecidableEq α]

theorem wf_sorted {d : α} {m : SMap α} (h : wf d m = true) : sorted m = true := by
  simp only [wf, Bool.and_eq_true] at h; exact h.1

theorem wf_ne {d : α} {m : SMap α} (h : wf d m = true) : ∀ p ∈ m, p.2 ≠ d := by
  simp only [wf, Bool.and_eq_true, List.all_eq_true, decide_eq_true_eq] at h; exact h.2

theorem wf_of {d : α} {m : SMap α} (h : sorted m = true) (hn : ∀ p ∈ m, p.2 ≠ d) : wf d m = true := by
  simp only [wf, Bool.and_eq_true, List.all_eq_true, decide_eq_true_eq]; exact ⟨h, hn⟩

/-- Storing a value keeps the canonical form. -/
theorem wf_set (d : α) (m : SMap α) (k : Nat) (v : α) (h : wf d m = true) : wf d (set d m k v) = true := by
  unfold set
  split
  · exact wf_of (sorted_del m k (wf_sorted h)) (fun p hp => wf_ne h p (mem_del hp))
  · rename_i hv
    refine wf_of (sorted_put m k v (wf_sorted h)) (fun p hp => ?_)
    rcases mem_put hp with rfl | hp
    · exact hv
    · exact wf_ne h p hp

/-- A stored value is read back, and every other key reads as before. -/
theorem get_set (d : α) (m : SMap α) (k : Nat) (v : α) (x : Nat) (h : sorted m = true) :
    get d (set d m k v) x = if x = k then v else get d m x := by
  unfold set
  split
  · rename_i hv; rw [get_del d m k x h, hv]
  · exact get_put d m k v x

end
end SMap

namespace Machine
open SMap hiding get

/-! ## Byte memories -/

theorem mem_cellsOf {a : Nat} {l : List Byte} {p : Host.Cell} (h : p ∈ cellsOf a l) : a ≤ p.1 ∧ p.1 < a + l.length ∧ p.2 ≠ 0#8 := by
  induction l generalizing a with
  | nil => simp [cellsOf] at h
  | cons b t ih =>
    unfold cellsOf at h
    split at h
    · obtain ⟨h1, h2, h3⟩ := ih h
      simp only [List.length_cons]; exact ⟨by omega, by omega, h3⟩
    · rename_i hb
      rcases List.mem_cons.1 h with rfl | h
      · simp only [List.length_cons]; exact ⟨Nat.le_refl _, by omega, hb⟩
      · have := ih h; simp only [List.length_cons]; exact ⟨by omega, by omega, this.2.2⟩

theorem sorted_cellsOf (a : Nat) (l : List Byte) : (cellsOf a l).Pairwise (fun x y => x.1 < y.1) := by
  induction l generalizing a with
  | nil => exact List.Pairwise.nil
  | cons b t ih =>
    unfold cellsOf
    split
    · exact ih _
    · exact List.pairwise_cons.2 ⟨fun p hp => by have := mem_cellsOf hp; simp only; omega, ih _⟩

theorem mem_takeWhile_lt {m : List Host.Cell} {a : Nat} {p : Host.Cell} (h : p ∈ m.takeWhile (fun c => decide (c.1 < a))) :
    p ∈ m ∧ p.1 < a := by
  induction m with
  | nil => simp at h
  | cons q t ih =>
    simp only [List.takeWhile_cons] at h
    split at h
    · rename_i hq
      rcases List.mem_cons.1 h with rfl | h
      · exact ⟨List.mem_cons_self .., by simpa using hq⟩
      · exact ⟨List.mem_cons_of_mem _ (ih h).1, (ih h).2⟩
    · simp at h

theorem mem_dropWhile_lt {m : List Host.Cell} {a : Nat} (hs : m.Pairwise (fun x y => x.1 < y.1)) {p : Host.Cell}
    (h : p ∈ m.dropWhile (fun c => decide (c.1 < a))) : p ∈ m ∧ a ≤ p.1 := by
  induction m with
  | nil => simp at h
  | cons q t ih =>
    have hp := List.pairwise_cons.1 hs
    simp only [List.dropWhile_cons] at h
    split at h
    · exact ⟨List.mem_cons_of_mem _ (ih hp.2 h).1, (ih hp.2 h).2⟩
    · rename_i hq
      refine ⟨h, ?_⟩
      have hq : a ≤ q.1 := by simpa using hq
      rcases List.mem_cons.1 h with rfl | h
      · exact hq
      · exact Nat.le_of_lt (Nat.lt_of_le_of_lt hq (hp.1 p h))

/-- A write keeps the canonical form. -/
theorem memWf_writeBytes (m : List Host.Cell) (a : Nat) (l : List Byte) (h : memWf m = true) : memWf (writeBytes m a l) = true := by
  have hs := (sorted_iff m).1 (wf_sorted h)
  have hn := wf_ne h
  refine wf_of ((sorted_iff _).2 ?_) (fun p hp => ?_)
  · unfold writeBytes
    rw [List.append_assoc, List.pairwise_append]
    refine ⟨hs.sublist (List.takeWhile_sublist _), ?_, fun p hp q hq => ?_⟩
    · rw [List.pairwise_append]
      refine ⟨sorted_cellsOf a l, hs.sublist (List.dropWhile_sublist _), fun p hp q hq => ?_⟩
      have := mem_cellsOf hp; have := mem_dropWhile_lt hs hq; omega
    · have := mem_takeWhile_lt hp
      rcases List.mem_append.1 hq with hq | hq
      · have := mem_cellsOf hq; omega
      · have := mem_dropWhile_lt hs hq; omega
  · unfold writeBytes at hp
    rcases List.mem_append.1 hp with hp | hp
    · rcases List.mem_append.1 hp with hp | hp
      · exact hn p (mem_takeWhile_lt hp).1
      · exact (mem_cellsOf hp).2.2
    · exact hn p (mem_dropWhile_lt hs hp).1

theorem get_append (d : Byte) (m n : List Host.Cell) (x : Nat) :
    SMap.get d (m ++ n) x = if x ∈ m.map Prod.fst then SMap.get d m x else SMap.get d n x := by
  induction m with
  | nil => simp
  | cons p t ih =>
    obtain ⟨k, v⟩ := p
    simp only [List.cons_append, SMap.get, ih, List.map_cons, List.mem_cons]
    by_cases hx : x = k <;> simp [hx]

theorem get_absent (d : Byte) (m : List Host.Cell) (x : Nat) (h : ∀ p ∈ m, p.1 ≠ x) : SMap.get d m x = d := by
  induction m with
  | nil => rfl
  | cons p t ih =>
    obtain ⟨k, v⟩ := p
    have h1 := h (k, v) (List.mem_cons_self ..)
    simp only [SMap.get, if_neg (Ne.symm h1)]
    exact ih (fun q hq => h q (List.mem_cons_of_mem _ hq))

theorem get_cellsOf (a : Nat) (l : List Byte) (x : Nat) :
    SMap.get 0#8 (cellsOf a l) x = if a ≤ x ∧ x < a + l.length then l.getD (x - a) 0#8 else 0#8 := by
  induction l generalizing a with
  | nil => simp [cellsOf, SMap.get]
  | cons b t ih =>
    have key : (if a + 1 ≤ x ∧ x < a + 1 + t.length then t.getD (x - (a + 1)) 0#8 else 0#8) =
        if x = a then 0#8 else if a ≤ x ∧ x < a + (t.length + 1) then (b :: t).getD (x - a) 0#8 else 0#8 := by
      by_cases hx : x = a
      · subst hx; simp [show ¬ (x + 1 ≤ x) by omega]
      · by_cases hlt : a < x
        · obtain ⟨j, rfl⟩ : ∃ j, x = a + 1 + j := ⟨x - (a + 1), by omega⟩
          have e1 : a + 1 + j - (a + 1) = j := by omega
          have e2 : a + 1 + j - a = j + 1 := by omega
          simp only [if_neg hx, e1, e2, List.getD_cons_succ]
          by_cases hj : j < t.length
          · simp [show a + 1 + j < a + 1 + t.length by omega, show a ≤ a + 1 + j by omega, show a + 1 + j < a + (t.length + 1) by omega]
          · simp [show ¬ (a + 1 + j < a + 1 + t.length) by omega, show ¬ (a + 1 + j < a + (t.length + 1)) by omega]
        · simp [hx, show ¬ (a + 1 ≤ x) by omega, show ¬ (a ≤ x) by omega]
    unfold cellsOf
    split
    · rename_i hb
      rw [ih, key, hb]
      by_cases hx : x = a
      · subst hx; simp
      · simp [hx]
    · simp only [SMap.get, ih, key, List.length_cons]
      by_cases hx : x = a
      · subst hx; simp
      · simp [hx]

/-- After a write a byte of the run reads as written, and every other byte reads as before. -/
theorem readByte_writeBytes (m : List Host.Cell) (a : Nat) (l : List Byte) (x : Nat) (h : memWf m = true) :
    readByte (writeBytes m a l) x = if a ≤ x ∧ x < a + l.length then l.getD (x - a) 0#8 else readByte m x := by
  have hs := (sorted_iff m).1 (wf_sorted h)
  have split_get : ∀ b : Nat, SMap.get 0#8 m x = if x < b then SMap.get 0#8 (m.takeWhile (fun c => decide (c.1 < b))) x
      else SMap.get 0#8 (m.dropWhile (fun c => decide (c.1 < b))) x := by
    intro b
    have e : m = m.takeWhile (fun c => decide (c.1 < b)) ++ m.dropWhile (fun c => decide (c.1 < b)) := (List.takeWhile_append_dropWhile ..).symm
    conv => lhs; rw [e, get_append]
    by_cases hx : x < b
    · simp only [hx, if_true]
      split
      · rfl
      · rename_i hn
        rw [get_absent 0#8 (m.dropWhile _) x, get_absent 0#8 (m.takeWhile _) x]
        · intro p hp e; exact hn (List.mem_map.2 ⟨p, hp, e⟩)
        · intro p hp e; have := mem_dropWhile_lt hs hp; omega
    · simp only [hx, if_false]
      split
      · rename_i hn
        obtain ⟨p, hp, rfl⟩ := List.mem_map.1 hn
        have := mem_takeWhile_lt hp; omega
      · rfl
  unfold readByte writeBytes
  rw [List.append_assoc, get_append, get_append, get_cellsOf]
  by_cases h1 : x < a
  · simp only [show ¬ (a ≤ x ∧ x < a + l.length) by omega, if_false]
    rw [split_get a]; simp only [h1, if_true]
    split
    · rfl
    · rename_i hn
      rw [if_neg]
      · rw [get_absent 0#8 (m.dropWhile _) x, get_absent 0#8 (m.takeWhile _) x]
        · intro p hp e; exact hn (List.mem_map.2 ⟨p, hp, e⟩)
        · intro p hp e; have := mem_dropWhile_lt hs hp; omega
      · intro hm; obtain ⟨p, hp, rfl⟩ := List.mem_map.1 hm; have := mem_cellsOf hp; omega
  · rw [if_neg (by intro hm; obtain ⟨p, hp, rfl⟩ := List.mem_map.1 hm; have := mem_takeWhile_lt hp; omega)]
    by_cases h2 : x < a + l.length
    · simp only [show a ≤ x ∧ x < a + l.length from ⟨by omega, h2⟩, and_self, if_true]
      split
      · rfl
      · rename_i hn
        have e1 : SMap.get 0#8 (cellsOf a l) x = 0#8 := get_absent 0#8 _ x (fun p hp e => hn (List.mem_map.2 ⟨p, hp, e⟩))
        rw [get_cellsOf, if_pos ⟨by omega, h2⟩] at e1
        rw [e1]; exact get_absent 0#8 _ x (fun p hp e => by have := mem_dropWhile_lt hs hp; omega)
    · simp only [show ¬ (a ≤ x ∧ x < a + l.length) by omega, if_false]
      rw [if_neg (by intro hm; obtain ⟨p, hp, rfl⟩ := List.mem_map.1 hm; have := mem_cellsOf hp; omega)]
      rw [split_get (a + l.length)]; simp [h2]

theorem walkBytes_eq (n a : Nat) (m : List Host.Cell) (hs : m.Pairwise (fun x y => x.1 < y.1)) (h : ∀ p ∈ m, a ≤ p.1) :
    walkBytes n a m = (List.range n).map (fun i => SMap.get 0#8 m (a + i)) := by
  induction n generalizing a m with
  | zero => rfl
  | succ n ih =>
    rw [List.range_succ_eq_map, List.map_cons, List.map_map]
    cases m with
    | nil =>
      rw [show walkBytes (n + 1) a [] = 0#8 :: walkBytes n (a + 1) [] from rfl, ih (a + 1) [] List.Pairwise.nil (fun p hp => nomatch hp)]
      rfl
    | cons p t =>
      obtain ⟨k, v⟩ := p
      have hp := List.pairwise_cons.1 hs
      unfold walkBytes
      split
      · rename_i hk; subst hk
        rw [ih (k + 1) t hp.2 (fun q hq => hp.1 q hq)]
        simp only [SMap.get, Nat.add_zero, if_true, List.cons.injEq, true_and]
        apply List.map_congr_left
        intro i _
        simp only [Function.comp, if_neg (show ¬ (k + (i + 1) = k) by omega)]
        rw [show k + 1 + i = k + (i + 1) by omega]
      · rename_i hk
        have ha := h (k, v) (List.mem_cons_self ..)
        have ha : a < k := by have : a ≤ k := ha; omega
        rw [ih (a + 1) ((k, v) :: t) hs (fun q hq => by
          rcases List.mem_cons.1 hq with rfl | hq
          · exact ha
          · have : k < q.1 := hp.1 q hq
            omega)]
        simp only [Nat.add_zero, List.cons.injEq]
        refine ⟨(get_below 0#8 _ a (fun q hq => ?_)).symm, ?_⟩
        · rcases List.mem_cons.1 hq with rfl | hq
          · exact ha
          · exact Nat.lt_trans ha (hp.1 q hq)
        · apply List.map_congr_left
          intro i _
          simp only [Function.comp]
          rw [show a + 1 + i = a + (i + 1) by omega]

/-- A read of a run is the reads of its bytes. -/
theorem readBytes_eq (m : List Host.Cell) (a n : Nat) (h : memWf m = true) :
    readBytes m a n = (List.range n).map (fun i => readByte m (a + i)) := by
  have hs := (sorted_iff m).1 (wf_sorted h)
  unfold readBytes readByte
  rw [walkBytes_eq n a _ (hs.sublist (List.dropWhile_sublist _)) (fun p hp => (mem_dropWhile_lt hs hp).2)]
  apply List.map_congr_left
  intro i _
  have e : m = m.takeWhile (fun c => decide (c.1 < a)) ++ m.dropWhile (fun c => decide (c.1 < a)) := (List.takeWhile_append_dropWhile ..).symm
  conv => rhs; rw [e, get_append]
  rw [if_neg]
  intro hm; obtain ⟨p, hp, hx⟩ := List.mem_map.1 hm; have := mem_takeWhile_lt hp; omega

@[simp] theorem readBytes_length (m : List Host.Cell) (a n : Nat) (h : memWf m = true) : (readBytes m a n).length = n := by
  rw [readBytes_eq m a n h]; simp

/-- What was written is read back. -/
theorem readBytes_writeBytes_same (m : List Host.Cell) (a : Nat) (l : List Byte) (h : memWf m = true) :
    readBytes (writeBytes m a l) a l.length = l := by
  rw [readBytes_eq _ _ _ (memWf_writeBytes m a l h)]
  apply List.ext_getElem
  · simp
  · intro i h1 h2
    simp only [List.getElem_map, List.getElem_range, readByte_writeBytes m a l _ h]
    rw [if_pos ⟨by omega, by omega⟩, show a + i - a = i by omega]
    simp [List.getD_eq_getElem?_getD, h2]

/-- A write leaves every run apart from it as it was. -/
theorem readBytes_writeBytes_apart (m : List Host.Cell) (a b n : Nat) (l : List Byte) (h : memWf m = true)
    (ha : b + n ≤ a ∨ a + l.length ≤ b) : readBytes (writeBytes m a l) b n = readBytes m b n := by
  rw [readBytes_eq _ _ _ (memWf_writeBytes m a l h), readBytes_eq _ _ _ h]
  apply List.map_congr_left
  intro i hi
  have := List.mem_range.1 hi
  rw [readByte_writeBytes m a l _ h, if_neg (by omega)]

/-- The memory after reset has the canonical form. -/
theorem memWf_reset : memWf State.reset.dev.mem.bytes = true := rfl

/-- So has a Plate, whatever is written to it (R105). -/
theorem memWf_patch (k : Core) (p : Patch) (h : memWf k.plate = true) : memWf (k.patch p).plate = true :=
  memWf_writeBytes k.plate p.addr p.data h

theorem memWf_patches (ps : List Patch) (k : Core) (h : memWf k.plate = true) : memWf (k.patches ps).plate = true := by
  induction ps generalizing k with
  | nil => exact h
  | cons p t ih => exact ih (k.patch p) (memWf_patch k p h)

end Machine
end Sys2Proof
end

