-- ==== Sys2Proof/Laws/State.lean ====
section
/-! SUPPORT. Every field of the device after each plain update of it: the changed field's new value, and the others as they
were. -/

namespace Sys2Proof.Machine

variable (d : Dev)

/-! ## Dev.setObj -/
@[simp] theorem Dev.setObj_time (i s v : Nat) : (d.setObj i s v).time = d.time := rfl
@[simp] theorem Dev.setObj_frac (i s v : Nat) : (d.setObj i s v).frac = d.frac := rfl
@[simp] theorem Dev.setObj_cyc (i s v : Nat) : (d.setObj i s v).cyc = d.cyc := rfl
@[simp] theorem Dev.setObj_freeCtr (i s v : Nat) : (d.setObj i s v).freeCtr = d.freeCtr := rfl
@[simp] theorem Dev.setObj_cores (i s v : Nat) : (d.setObj i s v).cores = d.cores := rfl
@[simp] theorem Dev.setObj_objs (i s v : Nat) : (d.setObj i s v).objs = d.objs.put (ob i s) v := rfl
@[simp] theorem Dev.setObj_mem (i s v : Nat) : (d.setObj i s v).mem = d.mem := rfl
@[simp] theorem Dev.setObj_coreFaults (i s v : Nat) : (d.setObj i s v).coreFaults = d.coreFaults := rfl
@[simp] theorem Dev.setObj_claims (i s v : Nat) : (d.setObj i s v).claims = d.claims := rfl
@[simp] theorem Dev.setObj_claimQ (i s v : Nat) : (d.setObj i s v).claimQ = d.claimQ := rfl
@[simp] theorem Dev.setObj_codecs (i s v : Nat) : (d.setObj i s v).codecs = d.codecs := rfl
@[simp] theorem Dev.setObj_ctxs (i s v : Nat) : (d.setObj i s v).ctxs = d.ctxs := rfl
@[simp] theorem Dev.setObj_handles (i s v : Nat) : (d.setObj i s v).handles = d.handles := rfl
@[simp] theorem Dev.setObj_princ (i s v : Nat) : (d.setObj i s v).princ = d.princ := rfl
@[simp] theorem Dev.setObj_gateShut (i s v : Nat) : (d.setObj i s v).gateShut = d.gateShut := rfl
@[simp] theorem Dev.setObj_ports (i s v : Nat) : (d.setObj i s v).ports = d.ports := rfl
@[simp] theorem Dev.setObj_links (i s v : Nat) : (d.setObj i s v).links = d.links := rfl
@[simp] theorem Dev.setObj_heldPkts (i s v : Nat) : (d.setObj i s v).heldPkts = d.heldPkts := rfl
@[simp] theorem Dev.setObj_inbox (i s v : Nat) : (d.setObj i s v).inbox = d.inbox := rfl
@[simp] theorem Dev.setObj_mesh (i s v : Nat) : (d.setObj i s v).mesh = d.mesh := rfl
@[simp] theorem Dev.setObj_igReads (i s v : Nat) : (d.setObj i s v).igReads = d.igReads := rfl
@[simp] theorem Dev.setObj_groups (i s v : Nat) : (d.setObj i s v).groups = d.groups := rfl
@[simp] theorem Dev.setObj_out (i s v : Nat) : (d.setObj i s v).out = d.out := rfl
@[simp] theorem Dev.setObj_errLog (i s v : Nat) : (d.setObj i s v).errLog = d.errLog := rfl
@[simp] theorem Dev.setObj_resets (i s v : Nat) : (d.setObj i s v).resets = d.resets := rfl
@[simp] theorem Dev.setObj_vault (i s v : Nat) : (d.setObj i s v).vault = d.vault := rfl
@[simp] theorem Dev.setObj_proof (i s v : Nat) : (d.setObj i s v).proof = d.proof := rfl
@[simp] theorem Dev.setObj_holders (i s v : Nat) : (d.setObj i s v).holders = d.holders := rfl
@[simp] theorem Dev.setObj_lh (i s v : Nat) : (d.setObj i s v).lh = d.lh := rfl
@[simp] theorem Dev.setObj_igPeers (i s v : Nat) : (d.setObj i s v).igPeers = d.igPeers := rfl
@[simp] theorem Dev.setObj_igForm (i s v : Nat) : (d.setObj i s v).igForm = d.igForm := rfl
@[simp] theorem Dev.setObj_power (i s v : Nat) : (d.setObj i s v).power = d.power := rfl
@[simp] theorem Dev.setObj_reg (i s v : Nat) : (d.setObj i s v).reg = d.reg := rfl
@[simp] theorem Dev.setObj_rst (i s v : Nat) : (d.setObj i s v).rst = d.rst := rfl
@[simp] theorem Dev.setObj_recov (i s v : Nat) : (d.setObj i s v).recov = d.recov := rfl
@[simp] theorem Dev.setObj_host (i s v : Nat) : (d.setObj i s v).host = d.host := rfl
@[simp] theorem Dev.setObj_arbs (i s v : Nat) : (d.setObj i s v).arbs = d.arbs := rfl

/-! ## Dev.clearObjs -/
@[simp] theorem Dev.clearObjs_time (i lo hi : Nat) : (d.clearObjs i lo hi).time = d.time := rfl
@[simp] theorem Dev.clearObjs_frac (i lo hi : Nat) : (d.clearObjs i lo hi).frac = d.frac := rfl
@[simp] theorem Dev.clearObjs_cyc (i lo hi : Nat) : (d.clearObjs i lo hi).cyc = d.cyc := rfl
@[simp] theorem Dev.clearObjs_freeCtr (i lo hi : Nat) : (d.clearObjs i lo hi).freeCtr = d.freeCtr := rfl
@[simp] theorem Dev.clearObjs_cores (i lo hi : Nat) : (d.clearObjs i lo hi).cores = d.cores := rfl
@[simp] theorem Dev.clearObjs_objs (i lo hi : Nat) : (d.clearObjs i lo hi).objs = d.objs.filter (fun p => !(decide (ob i lo ≤ p.1 ∧ p.1 ≤ ob i hi))) := rfl
@[simp] theorem Dev.clearObjs_mem (i lo hi : Nat) : (d.clearObjs i lo hi).mem = d.mem := rfl
@[simp] theorem Dev.clearObjs_coreFaults (i lo hi : Nat) : (d.clearObjs i lo hi).coreFaults = d.coreFaults := rfl
@[simp] theorem Dev.clearObjs_claims (i lo hi : Nat) : (d.clearObjs i lo hi).claims = d.claims := rfl
@[simp] theorem Dev.clearObjs_claimQ (i lo hi : Nat) : (d.clearObjs i lo hi).claimQ = d.claimQ := rfl
@[simp] theorem Dev.clearObjs_codecs (i lo hi : Nat) : (d.clearObjs i lo hi).codecs = d.codecs := rfl
@[simp] theorem Dev.clearObjs_ctxs (i lo hi : Nat) : (d.clearObjs i lo hi).ctxs = d.ctxs := rfl
@[simp] theorem Dev.clearObjs_handles (i lo hi : Nat) : (d.clearObjs i lo hi).handles = d.handles := rfl
@[simp] theorem Dev.clearObjs_princ (i lo hi : Nat) : (d.clearObjs i lo hi).princ = d.princ := rfl
@[simp] theorem Dev.clearObjs_gateShut (i lo hi : Nat) : (d.clearObjs i lo hi).gateShut = d.gateShut := rfl
@[simp] theorem Dev.clearObjs_ports (i lo hi : Nat) : (d.clearObjs i lo hi).ports = d.ports := rfl
@[simp] theorem Dev.clearObjs_links (i lo hi : Nat) : (d.clearObjs i lo hi).links = d.links := rfl
@[simp] theorem Dev.clearObjs_heldPkts (i lo hi : Nat) : (d.clearObjs i lo hi).heldPkts = d.heldPkts := rfl
@[simp] theorem Dev.clearObjs_inbox (i lo hi : Nat) : (d.clearObjs i lo hi).inbox = d.inbox := rfl
@[simp] theorem Dev.clearObjs_mesh (i lo hi : Nat) : (d.clearObjs i lo hi).mesh = d.mesh := rfl
@[simp] theorem Dev.clearObjs_igReads (i lo hi : Nat) : (d.clearObjs i lo hi).igReads = d.igReads := rfl
@[simp] theorem Dev.clearObjs_groups (i lo hi : Nat) : (d.clearObjs i lo hi).groups = d.groups := rfl
@[simp] theorem Dev.clearObjs_out (i lo hi : Nat) : (d.clearObjs i lo hi).out = d.out := rfl
@[simp] theorem Dev.clearObjs_errLog (i lo hi : Nat) : (d.clearObjs i lo hi).errLog = d.errLog := rfl
@[simp] theorem Dev.clearObjs_resets (i lo hi : Nat) : (d.clearObjs i lo hi).resets = d.resets := rfl
@[simp] theorem Dev.clearObjs_vault (i lo hi : Nat) : (d.clearObjs i lo hi).vault = d.vault := rfl
@[simp] theorem Dev.clearObjs_proof (i lo hi : Nat) : (d.clearObjs i lo hi).proof = d.proof := rfl
@[simp] theorem Dev.clearObjs_holders (i lo hi : Nat) : (d.clearObjs i lo hi).holders = d.holders := rfl
@[simp] theorem Dev.clearObjs_lh (i lo hi : Nat) : (d.clearObjs i lo hi).lh = d.lh := rfl
@[simp] theorem Dev.clearObjs_igPeers (i lo hi : Nat) : (d.clearObjs i lo hi).igPeers = d.igPeers := rfl
@[simp] theorem Dev.clearObjs_igForm (i lo hi : Nat) : (d.clearObjs i lo hi).igForm = d.igForm := rfl
@[simp] theorem Dev.clearObjs_power (i lo hi : Nat) : (d.clearObjs i lo hi).power = d.power := rfl
@[simp] theorem Dev.clearObjs_reg (i lo hi : Nat) : (d.clearObjs i lo hi).reg = d.reg := rfl
@[simp] theorem Dev.clearObjs_rst (i lo hi : Nat) : (d.clearObjs i lo hi).rst = d.rst := rfl
@[simp] theorem Dev.clearObjs_recov (i lo hi : Nat) : (d.clearObjs i lo hi).recov = d.recov := rfl
@[simp] theorem Dev.clearObjs_host (i lo hi : Nat) : (d.clearObjs i lo hi).host = d.host := rfl
@[simp] theorem Dev.clearObjs_arbs (i lo hi : Nat) : (d.clearObjs i lo hi).arbs = d.arbs := rfl

/-! ## Dev.setCore -/
@[simp] theorem Dev.setCore_time (c : Nat) (k : Core) : (d.setCore c k).time = d.time := rfl
@[simp] theorem Dev.setCore_frac (c : Nat) (k : Core) : (d.setCore c k).frac = d.frac := rfl
@[simp] theorem Dev.setCore_cyc (c : Nat) (k : Core) : (d.setCore c k).cyc = d.cyc := rfl
@[simp] theorem Dev.setCore_freeCtr (c : Nat) (k : Core) : (d.setCore c k).freeCtr = d.freeCtr := rfl
@[simp] theorem Dev.setCore_cores (c : Nat) (k : Core) : (d.setCore c k).cores = d.cores.put c k := rfl
@[simp] theorem Dev.setCore_objs (c : Nat) (k : Core) : (d.setCore c k).objs = d.objs := rfl
@[simp] theorem Dev.setCore_mem (c : Nat) (k : Core) : (d.setCore c k).mem = d.mem := rfl
@[simp] theorem Dev.setCore_coreFaults (c : Nat) (k : Core) : (d.setCore c k).coreFaults = d.coreFaults := rfl
@[simp] theorem Dev.setCore_claims (c : Nat) (k : Core) : (d.setCore c k).claims = d.claims := rfl
@[simp] theorem Dev.setCore_claimQ (c : Nat) (k : Core) : (d.setCore c k).claimQ = d.claimQ := rfl
@[simp] theorem Dev.setCore_codecs (c : Nat) (k : Core) : (d.setCore c k).codecs = d.codecs := rfl
@[simp] theorem Dev.setCore_ctxs (c : Nat) (k : Core) : (d.setCore c k).ctxs = d.ctxs := rfl
@[simp] theorem Dev.setCore_handles (c : Nat) (k : Core) : (d.setCore c k).handles = d.handles := rfl
@[simp] theorem Dev.setCore_princ (c : Nat) (k : Core) : (d.setCore c k).princ = d.princ := rfl
@[simp] theorem Dev.setCore_gateShut (c : Nat) (k : Core) : (d.setCore c k).gateShut = d.gateShut := rfl
@[simp] theorem Dev.setCore_ports (c : Nat) (k : Core) : (d.setCore c k).ports = d.ports := rfl
@[simp] theorem Dev.setCore_links (c : Nat) (k : Core) : (d.setCore c k).links = d.links := rfl
@[simp] theorem Dev.setCore_heldPkts (c : Nat) (k : Core) : (d.setCore c k).heldPkts = d.heldPkts := rfl
@[simp] theorem Dev.setCore_inbox (c : Nat) (k : Core) : (d.setCore c k).inbox = d.inbox := rfl
@[simp] theorem Dev.setCore_mesh (c : Nat) (k : Core) : (d.setCore c k).mesh = d.mesh := rfl
@[simp] theorem Dev.setCore_igReads (c : Nat) (k : Core) : (d.setCore c k).igReads = d.igReads := rfl
@[simp] theorem Dev.setCore_groups (c : Nat) (k : Core) : (d.setCore c k).groups = d.groups := rfl
@[simp] theorem Dev.setCore_out (c : Nat) (k : Core) : (d.setCore c k).out = d.out := rfl
@[simp] theorem Dev.setCore_errLog (c : Nat) (k : Core) : (d.setCore c k).errLog = d.errLog := rfl
@[simp] theorem Dev.setCore_resets (c : Nat) (k : Core) : (d.setCore c k).resets = d.resets := rfl
@[simp] theorem Dev.setCore_vault (c : Nat) (k : Core) : (d.setCore c k).vault = d.vault := rfl
@[simp] theorem Dev.setCore_proof (c : Nat) (k : Core) : (d.setCore c k).proof = d.proof := rfl
@[simp] theorem Dev.setCore_holders (c : Nat) (k : Core) : (d.setCore c k).holders = d.holders := rfl
@[simp] theorem Dev.setCore_lh (c : Nat) (k : Core) : (d.setCore c k).lh = d.lh := rfl
@[simp] theorem Dev.setCore_igPeers (c : Nat) (k : Core) : (d.setCore c k).igPeers = d.igPeers := rfl
@[simp] theorem Dev.setCore_igForm (c : Nat) (k : Core) : (d.setCore c k).igForm = d.igForm := rfl
@[simp] theorem Dev.setCore_power (c : Nat) (k : Core) : (d.setCore c k).power = d.power := rfl
@[simp] theorem Dev.setCore_reg (c : Nat) (k : Core) : (d.setCore c k).reg = d.reg := rfl
@[simp] theorem Dev.setCore_rst (c : Nat) (k : Core) : (d.setCore c k).rst = d.rst := rfl
@[simp] theorem Dev.setCore_recov (c : Nat) (k : Core) : (d.setCore c k).recov = d.recov := rfl
@[simp] theorem Dev.setCore_host (c : Nat) (k : Core) : (d.setCore c k).host = d.host := rfl
@[simp] theorem Dev.setCore_arbs (c : Nat) (k : Core) : (d.setCore c k).arbs = d.arbs := rfl

/-! ## Dev.modCore -/
@[simp] theorem Dev.modCore_time (c : Nat) (g : Core → Core) : (d.modCore c g).time = d.time := rfl
@[simp] theorem Dev.modCore_frac (c : Nat) (g : Core → Core) : (d.modCore c g).frac = d.frac := rfl
@[simp] theorem Dev.modCore_cyc (c : Nat) (g : Core → Core) : (d.modCore c g).cyc = d.cyc := rfl
@[simp] theorem Dev.modCore_freeCtr (c : Nat) (g : Core → Core) : (d.modCore c g).freeCtr = d.freeCtr := rfl
@[simp] theorem Dev.modCore_cores (c : Nat) (g : Core → Core) : (d.modCore c g).cores = d.cores.put c (g (d.core c)) := rfl
@[simp] theorem Dev.modCore_objs (c : Nat) (g : Core → Core) : (d.modCore c g).objs = d.objs := rfl
@[simp] theorem Dev.modCore_mem (c : Nat) (g : Core → Core) : (d.modCore c g).mem = d.mem := rfl
@[simp] theorem Dev.modCore_coreFaults (c : Nat) (g : Core → Core) : (d.modCore c g).coreFaults = d.coreFaults := rfl
@[simp] theorem Dev.modCore_claims (c : Nat) (g : Core → Core) : (d.modCore c g).claims = d.claims := rfl
@[simp] theorem Dev.modCore_claimQ (c : Nat) (g : Core → Core) : (d.modCore c g).claimQ = d.claimQ := rfl
@[simp] theorem Dev.modCore_codecs (c : Nat) (g : Core → Core) : (d.modCore c g).codecs = d.codecs := rfl
@[simp] theorem Dev.modCore_ctxs (c : Nat) (g : Core → Core) : (d.modCore c g).ctxs = d.ctxs := rfl
@[simp] theorem Dev.modCore_handles (c : Nat) (g : Core → Core) : (d.modCore c g).handles = d.handles := rfl
@[simp] theorem Dev.modCore_princ (c : Nat) (g : Core → Core) : (d.modCore c g).princ = d.princ := rfl
@[simp] theorem Dev.modCore_gateShut (c : Nat) (g : Core → Core) : (d.modCore c g).gateShut = d.gateShut := rfl
@[simp] theorem Dev.modCore_ports (c : Nat) (g : Core → Core) : (d.modCore c g).ports = d.ports := rfl
@[simp] theorem Dev.modCore_links (c : Nat) (g : Core → Core) : (d.modCore c g).links = d.links := rfl
@[simp] theorem Dev.modCore_heldPkts (c : Nat) (g : Core → Core) : (d.modCore c g).heldPkts = d.heldPkts := rfl
@[simp] theorem Dev.modCore_inbox (c : Nat) (g : Core → Core) : (d.modCore c g).inbox = d.inbox := rfl
@[simp] theorem Dev.modCore_mesh (c : Nat) (g : Core → Core) : (d.modCore c g).mesh = d.mesh := rfl
@[simp] theorem Dev.modCore_igReads (c : Nat) (g : Core → Core) : (d.modCore c g).igReads = d.igReads := rfl
@[simp] theorem Dev.modCore_groups (c : Nat) (g : Core → Core) : (d.modCore c g).groups = d.groups := rfl
@[simp] theorem Dev.modCore_out (c : Nat) (g : Core → Core) : (d.modCore c g).out = d.out := rfl
@[simp] theorem Dev.modCore_errLog (c : Nat) (g : Core → Core) : (d.modCore c g).errLog = d.errLog := rfl
@[simp] theorem Dev.modCore_resets (c : Nat) (g : Core → Core) : (d.modCore c g).resets = d.resets := rfl
@[simp] theorem Dev.modCore_vault (c : Nat) (g : Core → Core) : (d.modCore c g).vault = d.vault := rfl
@[simp] theorem Dev.modCore_proof (c : Nat) (g : Core → Core) : (d.modCore c g).proof = d.proof := rfl
@[simp] theorem Dev.modCore_holders (c : Nat) (g : Core → Core) : (d.modCore c g).holders = d.holders := rfl
@[simp] theorem Dev.modCore_lh (c : Nat) (g : Core → Core) : (d.modCore c g).lh = d.lh := rfl
@[simp] theorem Dev.modCore_igPeers (c : Nat) (g : Core → Core) : (d.modCore c g).igPeers = d.igPeers := rfl
@[simp] theorem Dev.modCore_igForm (c : Nat) (g : Core → Core) : (d.modCore c g).igForm = d.igForm := rfl
@[simp] theorem Dev.modCore_power (c : Nat) (g : Core → Core) : (d.modCore c g).power = d.power := rfl
@[simp] theorem Dev.modCore_reg (c : Nat) (g : Core → Core) : (d.modCore c g).reg = d.reg := rfl
@[simp] theorem Dev.modCore_rst (c : Nat) (g : Core → Core) : (d.modCore c g).rst = d.rst := rfl
@[simp] theorem Dev.modCore_recov (c : Nat) (g : Core → Core) : (d.modCore c g).recov = d.recov := rfl
@[simp] theorem Dev.modCore_host (c : Nat) (g : Core → Core) : (d.modCore c g).host = d.host := rfl
@[simp] theorem Dev.modCore_arbs (c : Nat) (g : Core → Core) : (d.modCore c g).arbs = d.arbs := rfl

/-! ## Dev.setCtx -/
@[simp] theorem Dev.setCtx_time (c : Nat) (x : Context) : (d.setCtx c x).time = d.time := rfl
@[simp] theorem Dev.setCtx_frac (c : Nat) (x : Context) : (d.setCtx c x).frac = d.frac := rfl
@[simp] theorem Dev.setCtx_cyc (c : Nat) (x : Context) : (d.setCtx c x).cyc = d.cyc := rfl
@[simp] theorem Dev.setCtx_freeCtr (c : Nat) (x : Context) : (d.setCtx c x).freeCtr = d.freeCtr := rfl
@[simp] theorem Dev.setCtx_cores (c : Nat) (x : Context) : (d.setCtx c x).cores = d.cores := rfl
@[simp] theorem Dev.setCtx_objs (c : Nat) (x : Context) : (d.setCtx c x).objs = d.objs := rfl
@[simp] theorem Dev.setCtx_mem (c : Nat) (x : Context) : (d.setCtx c x).mem = d.mem := rfl
@[simp] theorem Dev.setCtx_coreFaults (c : Nat) (x : Context) : (d.setCtx c x).coreFaults = d.coreFaults := rfl
@[simp] theorem Dev.setCtx_claims (c : Nat) (x : Context) : (d.setCtx c x).claims = d.claims := rfl
@[simp] theorem Dev.setCtx_claimQ (c : Nat) (x : Context) : (d.setCtx c x).claimQ = d.claimQ := rfl
@[simp] theorem Dev.setCtx_codecs (c : Nat) (x : Context) : (d.setCtx c x).codecs = d.codecs := rfl
@[simp] theorem Dev.setCtx_ctxs (c : Nat) (x : Context) : (d.setCtx c x).ctxs = d.ctxs.put c x := rfl
@[simp] theorem Dev.setCtx_handles (c : Nat) (x : Context) : (d.setCtx c x).handles = d.handles := rfl
@[simp] theorem Dev.setCtx_princ (c : Nat) (x : Context) : (d.setCtx c x).princ = d.princ := rfl
@[simp] theorem Dev.setCtx_gateShut (c : Nat) (x : Context) : (d.setCtx c x).gateShut = d.gateShut := rfl
@[simp] theorem Dev.setCtx_ports (c : Nat) (x : Context) : (d.setCtx c x).ports = d.ports := rfl
@[simp] theorem Dev.setCtx_links (c : Nat) (x : Context) : (d.setCtx c x).links = d.links := rfl
@[simp] theorem Dev.setCtx_heldPkts (c : Nat) (x : Context) : (d.setCtx c x).heldPkts = d.heldPkts := rfl
@[simp] theorem Dev.setCtx_inbox (c : Nat) (x : Context) : (d.setCtx c x).inbox = d.inbox := rfl
@[simp] theorem Dev.setCtx_mesh (c : Nat) (x : Context) : (d.setCtx c x).mesh = d.mesh := rfl
@[simp] theorem Dev.setCtx_igReads (c : Nat) (x : Context) : (d.setCtx c x).igReads = d.igReads := rfl
@[simp] theorem Dev.setCtx_groups (c : Nat) (x : Context) : (d.setCtx c x).groups = d.groups := rfl
@[simp] theorem Dev.setCtx_out (c : Nat) (x : Context) : (d.setCtx c x).out = d.out := rfl
@[simp] theorem Dev.setCtx_errLog (c : Nat) (x : Context) : (d.setCtx c x).errLog = d.errLog := rfl
@[simp] theorem Dev.setCtx_resets (c : Nat) (x : Context) : (d.setCtx c x).resets = d.resets := rfl
@[simp] theorem Dev.setCtx_vault (c : Nat) (x : Context) : (d.setCtx c x).vault = d.vault := rfl
@[simp] theorem Dev.setCtx_proof (c : Nat) (x : Context) : (d.setCtx c x).proof = d.proof := rfl
@[simp] theorem Dev.setCtx_holders (c : Nat) (x : Context) : (d.setCtx c x).holders = d.holders := rfl
@[simp] theorem Dev.setCtx_lh (c : Nat) (x : Context) : (d.setCtx c x).lh = d.lh := rfl
@[simp] theorem Dev.setCtx_igPeers (c : Nat) (x : Context) : (d.setCtx c x).igPeers = d.igPeers := rfl
@[simp] theorem Dev.setCtx_igForm (c : Nat) (x : Context) : (d.setCtx c x).igForm = d.igForm := rfl
@[simp] theorem Dev.setCtx_power (c : Nat) (x : Context) : (d.setCtx c x).power = d.power := rfl
@[simp] theorem Dev.setCtx_reg (c : Nat) (x : Context) : (d.setCtx c x).reg = d.reg := rfl
@[simp] theorem Dev.setCtx_rst (c : Nat) (x : Context) : (d.setCtx c x).rst = d.rst := rfl
@[simp] theorem Dev.setCtx_recov (c : Nat) (x : Context) : (d.setCtx c x).recov = d.recov := rfl
@[simp] theorem Dev.setCtx_host (c : Nat) (x : Context) : (d.setCtx c x).host = d.host := rfl
@[simp] theorem Dev.setCtx_arbs (c : Nat) (x : Context) : (d.setCtx c x).arbs = d.arbs := rfl

/-! ## Dev.setEngine -/
@[simp] theorem Dev.setEngine_time (e : Nat) (x : CodecEngine) : (d.setEngine e x).time = d.time := rfl
@[simp] theorem Dev.setEngine_frac (e : Nat) (x : CodecEngine) : (d.setEngine e x).frac = d.frac := rfl
@[simp] theorem Dev.setEngine_cyc (e : Nat) (x : CodecEngine) : (d.setEngine e x).cyc = d.cyc := rfl
@[simp] theorem Dev.setEngine_freeCtr (e : Nat) (x : CodecEngine) : (d.setEngine e x).freeCtr = d.freeCtr := rfl
@[simp] theorem Dev.setEngine_cores (e : Nat) (x : CodecEngine) : (d.setEngine e x).cores = d.cores := rfl
@[simp] theorem Dev.setEngine_objs (e : Nat) (x : CodecEngine) : (d.setEngine e x).objs = d.objs := rfl
@[simp] theorem Dev.setEngine_mem (e : Nat) (x : CodecEngine) : (d.setEngine e x).mem = d.mem := rfl
@[simp] theorem Dev.setEngine_coreFaults (e : Nat) (x : CodecEngine) : (d.setEngine e x).coreFaults = d.coreFaults := rfl
@[simp] theorem Dev.setEngine_claims (e : Nat) (x : CodecEngine) : (d.setEngine e x).claims = d.claims := rfl
@[simp] theorem Dev.setEngine_claimQ (e : Nat) (x : CodecEngine) : (d.setEngine e x).claimQ = d.claimQ := rfl
@[simp] theorem Dev.setEngine_codecs (e : Nat) (x : CodecEngine) : (d.setEngine e x).codecs = d.codecs.put e x := rfl
@[simp] theorem Dev.setEngine_ctxs (e : Nat) (x : CodecEngine) : (d.setEngine e x).ctxs = d.ctxs := rfl
@[simp] theorem Dev.setEngine_handles (e : Nat) (x : CodecEngine) : (d.setEngine e x).handles = d.handles := rfl
@[simp] theorem Dev.setEngine_princ (e : Nat) (x : CodecEngine) : (d.setEngine e x).princ = d.princ := rfl
@[simp] theorem Dev.setEngine_gateShut (e : Nat) (x : CodecEngine) : (d.setEngine e x).gateShut = d.gateShut := rfl
@[simp] theorem Dev.setEngine_ports (e : Nat) (x : CodecEngine) : (d.setEngine e x).ports = d.ports := rfl
@[simp] theorem Dev.setEngine_links (e : Nat) (x : CodecEngine) : (d.setEngine e x).links = d.links := rfl
@[simp] theorem Dev.setEngine_heldPkts (e : Nat) (x : CodecEngine) : (d.setEngine e x).heldPkts = d.heldPkts := rfl
@[simp] theorem Dev.setEngine_inbox (e : Nat) (x : CodecEngine) : (d.setEngine e x).inbox = d.inbox := rfl
@[simp] theorem Dev.setEngine_mesh (e : Nat) (x : CodecEngine) : (d.setEngine e x).mesh = d.mesh := rfl
@[simp] theorem Dev.setEngine_igReads (e : Nat) (x : CodecEngine) : (d.setEngine e x).igReads = d.igReads := rfl
@[simp] theorem Dev.setEngine_groups (e : Nat) (x : CodecEngine) : (d.setEngine e x).groups = d.groups := rfl
@[simp] theorem Dev.setEngine_out (e : Nat) (x : CodecEngine) : (d.setEngine e x).out = d.out := rfl
@[simp] theorem Dev.setEngine_errLog (e : Nat) (x : CodecEngine) : (d.setEngine e x).errLog = d.errLog := rfl
@[simp] theorem Dev.setEngine_resets (e : Nat) (x : CodecEngine) : (d.setEngine e x).resets = d.resets := rfl
@[simp] theorem Dev.setEngine_vault (e : Nat) (x : CodecEngine) : (d.setEngine e x).vault = d.vault := rfl
@[simp] theorem Dev.setEngine_proof (e : Nat) (x : CodecEngine) : (d.setEngine e x).proof = d.proof := rfl
@[simp] theorem Dev.setEngine_holders (e : Nat) (x : CodecEngine) : (d.setEngine e x).holders = d.holders := rfl
@[simp] theorem Dev.setEngine_lh (e : Nat) (x : CodecEngine) : (d.setEngine e x).lh = d.lh := rfl
@[simp] theorem Dev.setEngine_igPeers (e : Nat) (x : CodecEngine) : (d.setEngine e x).igPeers = d.igPeers := rfl
@[simp] theorem Dev.setEngine_igForm (e : Nat) (x : CodecEngine) : (d.setEngine e x).igForm = d.igForm := rfl
@[simp] theorem Dev.setEngine_power (e : Nat) (x : CodecEngine) : (d.setEngine e x).power = d.power := rfl
@[simp] theorem Dev.setEngine_reg (e : Nat) (x : CodecEngine) : (d.setEngine e x).reg = d.reg := rfl
@[simp] theorem Dev.setEngine_rst (e : Nat) (x : CodecEngine) : (d.setEngine e x).rst = d.rst := rfl
@[simp] theorem Dev.setEngine_recov (e : Nat) (x : CodecEngine) : (d.setEngine e x).recov = d.recov := rfl
@[simp] theorem Dev.setEngine_host (e : Nat) (x : CodecEngine) : (d.setEngine e x).host = d.host := rfl
@[simp] theorem Dev.setEngine_arbs (e : Nat) (x : CodecEngine) : (d.setEngine e x).arbs = d.arbs := rfl

/-! ## Dev.setGroup -/
@[simp] theorem Dev.setGroup_time (g : Nat) (x : Group) : (d.setGroup g x).time = d.time := rfl
@[simp] theorem Dev.setGroup_frac (g : Nat) (x : Group) : (d.setGroup g x).frac = d.frac := rfl
@[simp] theorem Dev.setGroup_cyc (g : Nat) (x : Group) : (d.setGroup g x).cyc = d.cyc := rfl
@[simp] theorem Dev.setGroup_freeCtr (g : Nat) (x : Group) : (d.setGroup g x).freeCtr = d.freeCtr := rfl
@[simp] theorem Dev.setGroup_cores (g : Nat) (x : Group) : (d.setGroup g x).cores = d.cores := rfl
@[simp] theorem Dev.setGroup_objs (g : Nat) (x : Group) : (d.setGroup g x).objs = d.objs := rfl
@[simp] theorem Dev.setGroup_mem (g : Nat) (x : Group) : (d.setGroup g x).mem = d.mem := rfl
@[simp] theorem Dev.setGroup_coreFaults (g : Nat) (x : Group) : (d.setGroup g x).coreFaults = d.coreFaults := rfl
@[simp] theorem Dev.setGroup_claims (g : Nat) (x : Group) : (d.setGroup g x).claims = d.claims := rfl
@[simp] theorem Dev.setGroup_claimQ (g : Nat) (x : Group) : (d.setGroup g x).claimQ = d.claimQ := rfl
@[simp] theorem Dev.setGroup_codecs (g : Nat) (x : Group) : (d.setGroup g x).codecs = d.codecs := rfl
@[simp] theorem Dev.setGroup_ctxs (g : Nat) (x : Group) : (d.setGroup g x).ctxs = d.ctxs := rfl
@[simp] theorem Dev.setGroup_handles (g : Nat) (x : Group) : (d.setGroup g x).handles = d.handles := rfl
@[simp] theorem Dev.setGroup_princ (g : Nat) (x : Group) : (d.setGroup g x).princ = d.princ := rfl
@[simp] theorem Dev.setGroup_gateShut (g : Nat) (x : Group) : (d.setGroup g x).gateShut = d.gateShut := rfl
@[simp] theorem Dev.setGroup_ports (g : Nat) (x : Group) : (d.setGroup g x).ports = d.ports := rfl
@[simp] theorem Dev.setGroup_links (g : Nat) (x : Group) : (d.setGroup g x).links = d.links := rfl
@[simp] theorem Dev.setGroup_heldPkts (g : Nat) (x : Group) : (d.setGroup g x).heldPkts = d.heldPkts := rfl
@[simp] theorem Dev.setGroup_inbox (g : Nat) (x : Group) : (d.setGroup g x).inbox = d.inbox := rfl
@[simp] theorem Dev.setGroup_mesh (g : Nat) (x : Group) : (d.setGroup g x).mesh = d.mesh := rfl
@[simp] theorem Dev.setGroup_igReads (g : Nat) (x : Group) : (d.setGroup g x).igReads = d.igReads := rfl
@[simp] theorem Dev.setGroup_groups (g : Nat) (x : Group) : (d.setGroup g x).groups = d.groups.put g x := rfl
@[simp] theorem Dev.setGroup_out (g : Nat) (x : Group) : (d.setGroup g x).out = d.out := rfl
@[simp] theorem Dev.setGroup_errLog (g : Nat) (x : Group) : (d.setGroup g x).errLog = d.errLog := rfl
@[simp] theorem Dev.setGroup_resets (g : Nat) (x : Group) : (d.setGroup g x).resets = d.resets := rfl
@[simp] theorem Dev.setGroup_vault (g : Nat) (x : Group) : (d.setGroup g x).vault = d.vault := rfl
@[simp] theorem Dev.setGroup_proof (g : Nat) (x : Group) : (d.setGroup g x).proof = d.proof := rfl
@[simp] theorem Dev.setGroup_holders (g : Nat) (x : Group) : (d.setGroup g x).holders = d.holders := rfl
@[simp] theorem Dev.setGroup_lh (g : Nat) (x : Group) : (d.setGroup g x).lh = d.lh := rfl
@[simp] theorem Dev.setGroup_igPeers (g : Nat) (x : Group) : (d.setGroup g x).igPeers = d.igPeers := rfl
@[simp] theorem Dev.setGroup_igForm (g : Nat) (x : Group) : (d.setGroup g x).igForm = d.igForm := rfl
@[simp] theorem Dev.setGroup_power (g : Nat) (x : Group) : (d.setGroup g x).power = d.power := rfl
@[simp] theorem Dev.setGroup_reg (g : Nat) (x : Group) : (d.setGroup g x).reg = d.reg := rfl
@[simp] theorem Dev.setGroup_rst (g : Nat) (x : Group) : (d.setGroup g x).rst = d.rst := rfl
@[simp] theorem Dev.setGroup_recov (g : Nat) (x : Group) : (d.setGroup g x).recov = d.recov := rfl
@[simp] theorem Dev.setGroup_host (g : Nat) (x : Group) : (d.setGroup g x).host = d.host := rfl
@[simp] theorem Dev.setGroup_arbs (g : Nat) (x : Group) : (d.setGroup g x).arbs = d.arbs := rfl

/-! ## Dev.modGroup -/
@[simp] theorem Dev.modGroup_time (g : Nat) (h : Group → Group) : (d.modGroup g h).time = d.time := rfl
@[simp] theorem Dev.modGroup_frac (g : Nat) (h : Group → Group) : (d.modGroup g h).frac = d.frac := rfl
@[simp] theorem Dev.modGroup_cyc (g : Nat) (h : Group → Group) : (d.modGroup g h).cyc = d.cyc := rfl
@[simp] theorem Dev.modGroup_freeCtr (g : Nat) (h : Group → Group) : (d.modGroup g h).freeCtr = d.freeCtr := rfl
@[simp] theorem Dev.modGroup_cores (g : Nat) (h : Group → Group) : (d.modGroup g h).cores = d.cores := rfl
@[simp] theorem Dev.modGroup_objs (g : Nat) (h : Group → Group) : (d.modGroup g h).objs = d.objs := rfl
@[simp] theorem Dev.modGroup_mem (g : Nat) (h : Group → Group) : (d.modGroup g h).mem = d.mem := rfl
@[simp] theorem Dev.modGroup_coreFaults (g : Nat) (h : Group → Group) : (d.modGroup g h).coreFaults = d.coreFaults := rfl
@[simp] theorem Dev.modGroup_claims (g : Nat) (h : Group → Group) : (d.modGroup g h).claims = d.claims := rfl
@[simp] theorem Dev.modGroup_claimQ (g : Nat) (h : Group → Group) : (d.modGroup g h).claimQ = d.claimQ := rfl
@[simp] theorem Dev.modGroup_codecs (g : Nat) (h : Group → Group) : (d.modGroup g h).codecs = d.codecs := rfl
@[simp] theorem Dev.modGroup_ctxs (g : Nat) (h : Group → Group) : (d.modGroup g h).ctxs = d.ctxs := rfl
@[simp] theorem Dev.modGroup_handles (g : Nat) (h : Group → Group) : (d.modGroup g h).handles = d.handles := rfl
@[simp] theorem Dev.modGroup_princ (g : Nat) (h : Group → Group) : (d.modGroup g h).princ = d.princ := rfl
@[simp] theorem Dev.modGroup_gateShut (g : Nat) (h : Group → Group) : (d.modGroup g h).gateShut = d.gateShut := rfl
@[simp] theorem Dev.modGroup_ports (g : Nat) (h : Group → Group) : (d.modGroup g h).ports = d.ports := rfl
@[simp] theorem Dev.modGroup_links (g : Nat) (h : Group → Group) : (d.modGroup g h).links = d.links := rfl
@[simp] theorem Dev.modGroup_heldPkts (g : Nat) (h : Group → Group) : (d.modGroup g h).heldPkts = d.heldPkts := rfl
@[simp] theorem Dev.modGroup_inbox (g : Nat) (h : Group → Group) : (d.modGroup g h).inbox = d.inbox := rfl
@[simp] theorem Dev.modGroup_mesh (g : Nat) (h : Group → Group) : (d.modGroup g h).mesh = d.mesh := rfl
@[simp] theorem Dev.modGroup_igReads (g : Nat) (h : Group → Group) : (d.modGroup g h).igReads = d.igReads := rfl
@[simp] theorem Dev.modGroup_groups (g : Nat) (h : Group → Group) : (d.modGroup g h).groups = d.groups.put g (h (d.group g)) := rfl
@[simp] theorem Dev.modGroup_out (g : Nat) (h : Group → Group) : (d.modGroup g h).out = d.out := rfl
@[simp] theorem Dev.modGroup_errLog (g : Nat) (h : Group → Group) : (d.modGroup g h).errLog = d.errLog := rfl
@[simp] theorem Dev.modGroup_resets (g : Nat) (h : Group → Group) : (d.modGroup g h).resets = d.resets := rfl
@[simp] theorem Dev.modGroup_vault (g : Nat) (h : Group → Group) : (d.modGroup g h).vault = d.vault := rfl
@[simp] theorem Dev.modGroup_proof (g : Nat) (h : Group → Group) : (d.modGroup g h).proof = d.proof := rfl
@[simp] theorem Dev.modGroup_holders (g : Nat) (h : Group → Group) : (d.modGroup g h).holders = d.holders := rfl
@[simp] theorem Dev.modGroup_lh (g : Nat) (h : Group → Group) : (d.modGroup g h).lh = d.lh := rfl
@[simp] theorem Dev.modGroup_igPeers (g : Nat) (h : Group → Group) : (d.modGroup g h).igPeers = d.igPeers := rfl
@[simp] theorem Dev.modGroup_igForm (g : Nat) (h : Group → Group) : (d.modGroup g h).igForm = d.igForm := rfl
@[simp] theorem Dev.modGroup_power (g : Nat) (h : Group → Group) : (d.modGroup g h).power = d.power := rfl
@[simp] theorem Dev.modGroup_reg (g : Nat) (h : Group → Group) : (d.modGroup g h).reg = d.reg := rfl
@[simp] theorem Dev.modGroup_rst (g : Nat) (h : Group → Group) : (d.modGroup g h).rst = d.rst := rfl
@[simp] theorem Dev.modGroup_recov (g : Nat) (h : Group → Group) : (d.modGroup g h).recov = d.recov := rfl
@[simp] theorem Dev.modGroup_host (g : Nat) (h : Group → Group) : (d.modGroup g h).host = d.host := rfl
@[simp] theorem Dev.modGroup_arbs (g : Nat) (h : Group → Group) : (d.modGroup g h).arbs = d.arbs := rfl

/-! ## Dev.setColl -/
@[simp] theorem Dev.setColl_time (c : Nat) (r : CollRun) : (d.setColl c r).time = d.time := rfl
@[simp] theorem Dev.setColl_frac (c : Nat) (r : CollRun) : (d.setColl c r).frac = d.frac := rfl
@[simp] theorem Dev.setColl_cyc (c : Nat) (r : CollRun) : (d.setColl c r).cyc = d.cyc := rfl
@[simp] theorem Dev.setColl_freeCtr (c : Nat) (r : CollRun) : (d.setColl c r).freeCtr = d.freeCtr := rfl
@[simp] theorem Dev.setColl_cores (c : Nat) (r : CollRun) : (d.setColl c r).cores = d.cores.put c { d.core c with coll := some r } := rfl
@[simp] theorem Dev.setColl_objs (c : Nat) (r : CollRun) : (d.setColl c r).objs = d.objs := rfl
@[simp] theorem Dev.setColl_mem (c : Nat) (r : CollRun) : (d.setColl c r).mem = d.mem := rfl
@[simp] theorem Dev.setColl_coreFaults (c : Nat) (r : CollRun) : (d.setColl c r).coreFaults = d.coreFaults := rfl
@[simp] theorem Dev.setColl_claims (c : Nat) (r : CollRun) : (d.setColl c r).claims = d.claims := rfl
@[simp] theorem Dev.setColl_claimQ (c : Nat) (r : CollRun) : (d.setColl c r).claimQ = d.claimQ := rfl
@[simp] theorem Dev.setColl_codecs (c : Nat) (r : CollRun) : (d.setColl c r).codecs = d.codecs := rfl
@[simp] theorem Dev.setColl_ctxs (c : Nat) (r : CollRun) : (d.setColl c r).ctxs = d.ctxs := rfl
@[simp] theorem Dev.setColl_handles (c : Nat) (r : CollRun) : (d.setColl c r).handles = d.handles := rfl
@[simp] theorem Dev.setColl_princ (c : Nat) (r : CollRun) : (d.setColl c r).princ = d.princ := rfl
@[simp] theorem Dev.setColl_gateShut (c : Nat) (r : CollRun) : (d.setColl c r).gateShut = d.gateShut := rfl
@[simp] theorem Dev.setColl_ports (c : Nat) (r : CollRun) : (d.setColl c r).ports = d.ports := rfl
@[simp] theorem Dev.setColl_links (c : Nat) (r : CollRun) : (d.setColl c r).links = d.links := rfl
@[simp] theorem Dev.setColl_heldPkts (c : Nat) (r : CollRun) : (d.setColl c r).heldPkts = d.heldPkts := rfl
@[simp] theorem Dev.setColl_inbox (c : Nat) (r : CollRun) : (d.setColl c r).inbox = d.inbox := rfl
@[simp] theorem Dev.setColl_mesh (c : Nat) (r : CollRun) : (d.setColl c r).mesh = d.mesh := rfl
@[simp] theorem Dev.setColl_igReads (c : Nat) (r : CollRun) : (d.setColl c r).igReads = d.igReads := rfl
@[simp] theorem Dev.setColl_groups (c : Nat) (r : CollRun) : (d.setColl c r).groups = d.groups := rfl
@[simp] theorem Dev.setColl_out (c : Nat) (r : CollRun) : (d.setColl c r).out = d.out := rfl
@[simp] theorem Dev.setColl_errLog (c : Nat) (r : CollRun) : (d.setColl c r).errLog = d.errLog := rfl
@[simp] theorem Dev.setColl_resets (c : Nat) (r : CollRun) : (d.setColl c r).resets = d.resets := rfl
@[simp] theorem Dev.setColl_vault (c : Nat) (r : CollRun) : (d.setColl c r).vault = d.vault := rfl
@[simp] theorem Dev.setColl_proof (c : Nat) (r : CollRun) : (d.setColl c r).proof = d.proof := rfl
@[simp] theorem Dev.setColl_holders (c : Nat) (r : CollRun) : (d.setColl c r).holders = d.holders := rfl
@[simp] theorem Dev.setColl_lh (c : Nat) (r : CollRun) : (d.setColl c r).lh = d.lh := rfl
@[simp] theorem Dev.setColl_igPeers (c : Nat) (r : CollRun) : (d.setColl c r).igPeers = d.igPeers := rfl
@[simp] theorem Dev.setColl_igForm (c : Nat) (r : CollRun) : (d.setColl c r).igForm = d.igForm := rfl
@[simp] theorem Dev.setColl_power (c : Nat) (r : CollRun) : (d.setColl c r).power = d.power := rfl
@[simp] theorem Dev.setColl_reg (c : Nat) (r : CollRun) : (d.setColl c r).reg = d.reg := rfl
@[simp] theorem Dev.setColl_rst (c : Nat) (r : CollRun) : (d.setColl c r).rst = d.rst := rfl
@[simp] theorem Dev.setColl_recov (c : Nat) (r : CollRun) : (d.setColl c r).recov = d.recov := rfl
@[simp] theorem Dev.setColl_host (c : Nat) (r : CollRun) : (d.setColl c r).host = d.host := rfl
@[simp] theorem Dev.setColl_arbs (c : Nat) (r : CollRun) : (d.setColl c r).arbs = d.arbs := rfl

/-! ## Dev.setHolder -/
@[simp] theorem Dev.setHolder_time (x : Nat) (h : Holder) : (d.setHolder x h).time = d.time := rfl
@[simp] theorem Dev.setHolder_frac (x : Nat) (h : Holder) : (d.setHolder x h).frac = d.frac := rfl
@[simp] theorem Dev.setHolder_cyc (x : Nat) (h : Holder) : (d.setHolder x h).cyc = d.cyc := rfl
@[simp] theorem Dev.setHolder_freeCtr (x : Nat) (h : Holder) : (d.setHolder x h).freeCtr = d.freeCtr := rfl
@[simp] theorem Dev.setHolder_cores (x : Nat) (h : Holder) : (d.setHolder x h).cores = d.cores := rfl
@[simp] theorem Dev.setHolder_objs (x : Nat) (h : Holder) : (d.setHolder x h).objs = d.objs := rfl
@[simp] theorem Dev.setHolder_mem (x : Nat) (h : Holder) : (d.setHolder x h).mem = d.mem := rfl
@[simp] theorem Dev.setHolder_coreFaults (x : Nat) (h : Holder) : (d.setHolder x h).coreFaults = d.coreFaults := rfl
@[simp] theorem Dev.setHolder_claims (x : Nat) (h : Holder) : (d.setHolder x h).claims = d.claims := rfl
@[simp] theorem Dev.setHolder_claimQ (x : Nat) (h : Holder) : (d.setHolder x h).claimQ = d.claimQ := rfl
@[simp] theorem Dev.setHolder_codecs (x : Nat) (h : Holder) : (d.setHolder x h).codecs = d.codecs := rfl
@[simp] theorem Dev.setHolder_ctxs (x : Nat) (h : Holder) : (d.setHolder x h).ctxs = d.ctxs := rfl
@[simp] theorem Dev.setHolder_handles (x : Nat) (h : Holder) : (d.setHolder x h).handles = d.handles := rfl
@[simp] theorem Dev.setHolder_princ (x : Nat) (h : Holder) : (d.setHolder x h).princ = d.princ := rfl
@[simp] theorem Dev.setHolder_gateShut (x : Nat) (h : Holder) : (d.setHolder x h).gateShut = d.gateShut := rfl
@[simp] theorem Dev.setHolder_ports (x : Nat) (h : Holder) : (d.setHolder x h).ports = d.ports := rfl
@[simp] theorem Dev.setHolder_links (x : Nat) (h : Holder) : (d.setHolder x h).links = d.links := rfl
@[simp] theorem Dev.setHolder_heldPkts (x : Nat) (h : Holder) : (d.setHolder x h).heldPkts = d.heldPkts := rfl
@[simp] theorem Dev.setHolder_inbox (x : Nat) (h : Holder) : (d.setHolder x h).inbox = d.inbox := rfl
@[simp] theorem Dev.setHolder_mesh (x : Nat) (h : Holder) : (d.setHolder x h).mesh = d.mesh := rfl
@[simp] theorem Dev.setHolder_igReads (x : Nat) (h : Holder) : (d.setHolder x h).igReads = d.igReads := rfl
@[simp] theorem Dev.setHolder_groups (x : Nat) (h : Holder) : (d.setHolder x h).groups = d.groups := rfl
@[simp] theorem Dev.setHolder_out (x : Nat) (h : Holder) : (d.setHolder x h).out = d.out := rfl
@[simp] theorem Dev.setHolder_errLog (x : Nat) (h : Holder) : (d.setHolder x h).errLog = d.errLog := rfl
@[simp] theorem Dev.setHolder_resets (x : Nat) (h : Holder) : (d.setHolder x h).resets = d.resets := rfl
@[simp] theorem Dev.setHolder_vault (x : Nat) (h : Holder) : (d.setHolder x h).vault = d.vault := rfl
@[simp] theorem Dev.setHolder_proof (x : Nat) (h : Holder) : (d.setHolder x h).proof = d.proof := rfl
@[simp] theorem Dev.setHolder_holders (x : Nat) (h : Holder) : (d.setHolder x h).holders = d.holders.put x h := rfl
@[simp] theorem Dev.setHolder_lh (x : Nat) (h : Holder) : (d.setHolder x h).lh = d.lh := rfl
@[simp] theorem Dev.setHolder_igPeers (x : Nat) (h : Holder) : (d.setHolder x h).igPeers = d.igPeers := rfl
@[simp] theorem Dev.setHolder_igForm (x : Nat) (h : Holder) : (d.setHolder x h).igForm = d.igForm := rfl
@[simp] theorem Dev.setHolder_power (x : Nat) (h : Holder) : (d.setHolder x h).power = d.power := rfl
@[simp] theorem Dev.setHolder_reg (x : Nat) (h : Holder) : (d.setHolder x h).reg = d.reg := rfl
@[simp] theorem Dev.setHolder_rst (x : Nat) (h : Holder) : (d.setHolder x h).rst = d.rst := rfl
@[simp] theorem Dev.setHolder_recov (x : Nat) (h : Holder) : (d.setHolder x h).recov = d.recov := rfl
@[simp] theorem Dev.setHolder_host (x : Nat) (h : Holder) : (d.setHolder x h).host = d.host := rfl
@[simp] theorem Dev.setHolder_arbs (x : Nat) (h : Holder) : (d.setHolder x h).arbs = d.arbs := rfl

/-! ## Dev.modHolder -/
@[simp] theorem Dev.modHolder_time (x : Nat) (g : Holder → Holder) : (d.modHolder x g).time = d.time := rfl
@[simp] theorem Dev.modHolder_frac (x : Nat) (g : Holder → Holder) : (d.modHolder x g).frac = d.frac := rfl
@[simp] theorem Dev.modHolder_cyc (x : Nat) (g : Holder → Holder) : (d.modHolder x g).cyc = d.cyc := rfl
@[simp] theorem Dev.modHolder_freeCtr (x : Nat) (g : Holder → Holder) : (d.modHolder x g).freeCtr = d.freeCtr := rfl
@[simp] theorem Dev.modHolder_cores (x : Nat) (g : Holder → Holder) : (d.modHolder x g).cores = d.cores := rfl
@[simp] theorem Dev.modHolder_objs (x : Nat) (g : Holder → Holder) : (d.modHolder x g).objs = d.objs := rfl
@[simp] theorem Dev.modHolder_mem (x : Nat) (g : Holder → Holder) : (d.modHolder x g).mem = d.mem := rfl
@[simp] theorem Dev.modHolder_coreFaults (x : Nat) (g : Holder → Holder) : (d.modHolder x g).coreFaults = d.coreFaults := rfl
@[simp] theorem Dev.modHolder_claims (x : Nat) (g : Holder → Holder) : (d.modHolder x g).claims = d.claims := rfl
@[simp] theorem Dev.modHolder_claimQ (x : Nat) (g : Holder → Holder) : (d.modHolder x g).claimQ = d.claimQ := rfl
@[simp] theorem Dev.modHolder_codecs (x : Nat) (g : Holder → Holder) : (d.modHolder x g).codecs = d.codecs := rfl
@[simp] theorem Dev.modHolder_ctxs (x : Nat) (g : Holder → Holder) : (d.modHolder x g).ctxs = d.ctxs := rfl
@[simp] theorem Dev.modHolder_handles (x : Nat) (g : Holder → Holder) : (d.modHolder x g).handles = d.handles := rfl
@[simp] theorem Dev.modHolder_princ (x : Nat) (g : Holder → Holder) : (d.modHolder x g).princ = d.princ := rfl
@[simp] theorem Dev.modHolder_gateShut (x : Nat) (g : Holder → Holder) : (d.modHolder x g).gateShut = d.gateShut := rfl
@[simp] theorem Dev.modHolder_ports (x : Nat) (g : Holder → Holder) : (d.modHolder x g).ports = d.ports := rfl
@[simp] theorem Dev.modHolder_links (x : Nat) (g : Holder → Holder) : (d.modHolder x g).links = d.links := rfl
@[simp] theorem Dev.modHolder_heldPkts (x : Nat) (g : Holder → Holder) : (d.modHolder x g).heldPkts = d.heldPkts := rfl
@[simp] theorem Dev.modHolder_inbox (x : Nat) (g : Holder → Holder) : (d.modHolder x g).inbox = d.inbox := rfl
@[simp] theorem Dev.modHolder_mesh (x : Nat) (g : Holder → Holder) : (d.modHolder x g).mesh = d.mesh := rfl
@[simp] theorem Dev.modHolder_igReads (x : Nat) (g : Holder → Holder) : (d.modHolder x g).igReads = d.igReads := rfl
@[simp] theorem Dev.modHolder_groups (x : Nat) (g : Holder → Holder) : (d.modHolder x g).groups = d.groups := rfl
@[simp] theorem Dev.modHolder_out (x : Nat) (g : Holder → Holder) : (d.modHolder x g).out = d.out := rfl
@[simp] theorem Dev.modHolder_errLog (x : Nat) (g : Holder → Holder) : (d.modHolder x g).errLog = d.errLog := rfl
@[simp] theorem Dev.modHolder_resets (x : Nat) (g : Holder → Holder) : (d.modHolder x g).resets = d.resets := rfl
@[simp] theorem Dev.modHolder_vault (x : Nat) (g : Holder → Holder) : (d.modHolder x g).vault = d.vault := rfl
@[simp] theorem Dev.modHolder_proof (x : Nat) (g : Holder → Holder) : (d.modHolder x g).proof = d.proof := rfl
@[simp] theorem Dev.modHolder_holders (x : Nat) (g : Holder → Holder) : (d.modHolder x g).holders = d.holders.put x (g (d.holder x)) := rfl
@[simp] theorem Dev.modHolder_lh (x : Nat) (g : Holder → Holder) : (d.modHolder x g).lh = d.lh := rfl
@[simp] theorem Dev.modHolder_igPeers (x : Nat) (g : Holder → Holder) : (d.modHolder x g).igPeers = d.igPeers := rfl
@[simp] theorem Dev.modHolder_igForm (x : Nat) (g : Holder → Holder) : (d.modHolder x g).igForm = d.igForm := rfl
@[simp] theorem Dev.modHolder_power (x : Nat) (g : Holder → Holder) : (d.modHolder x g).power = d.power := rfl
@[simp] theorem Dev.modHolder_reg (x : Nat) (g : Holder → Holder) : (d.modHolder x g).reg = d.reg := rfl
@[simp] theorem Dev.modHolder_rst (x : Nat) (g : Holder → Holder) : (d.modHolder x g).rst = d.rst := rfl
@[simp] theorem Dev.modHolder_recov (x : Nat) (g : Holder → Holder) : (d.modHolder x g).recov = d.recov := rfl
@[simp] theorem Dev.modHolder_host (x : Nat) (g : Holder → Holder) : (d.modHolder x g).host = d.host := rfl
@[simp] theorem Dev.modHolder_arbs (x : Nat) (g : Holder → Holder) : (d.modHolder x g).arbs = d.arbs := rfl

/-! ## Dev.modLh -/
@[simp] theorem Dev.modLh_time (p : Nat) (g : LhPort → LhPort) : (d.modLh p g).time = d.time := rfl
@[simp] theorem Dev.modLh_frac (p : Nat) (g : LhPort → LhPort) : (d.modLh p g).frac = d.frac := rfl
@[simp] theorem Dev.modLh_cyc (p : Nat) (g : LhPort → LhPort) : (d.modLh p g).cyc = d.cyc := rfl
@[simp] theorem Dev.modLh_freeCtr (p : Nat) (g : LhPort → LhPort) : (d.modLh p g).freeCtr = d.freeCtr := rfl
@[simp] theorem Dev.modLh_cores (p : Nat) (g : LhPort → LhPort) : (d.modLh p g).cores = d.cores := rfl
@[simp] theorem Dev.modLh_objs (p : Nat) (g : LhPort → LhPort) : (d.modLh p g).objs = d.objs := rfl
@[simp] theorem Dev.modLh_mem (p : Nat) (g : LhPort → LhPort) : (d.modLh p g).mem = d.mem := rfl
@[simp] theorem Dev.modLh_coreFaults (p : Nat) (g : LhPort → LhPort) : (d.modLh p g).coreFaults = d.coreFaults := rfl
@[simp] theorem Dev.modLh_claims (p : Nat) (g : LhPort → LhPort) : (d.modLh p g).claims = d.claims := rfl
@[simp] theorem Dev.modLh_claimQ (p : Nat) (g : LhPort → LhPort) : (d.modLh p g).claimQ = d.claimQ := rfl
@[simp] theorem Dev.modLh_codecs (p : Nat) (g : LhPort → LhPort) : (d.modLh p g).codecs = d.codecs := rfl
@[simp] theorem Dev.modLh_ctxs (p : Nat) (g : LhPort → LhPort) : (d.modLh p g).ctxs = d.ctxs := rfl
@[simp] theorem Dev.modLh_handles (p : Nat) (g : LhPort → LhPort) : (d.modLh p g).handles = d.handles := rfl
@[simp] theorem Dev.modLh_princ (p : Nat) (g : LhPort → LhPort) : (d.modLh p g).princ = d.princ := rfl
@[simp] theorem Dev.modLh_gateShut (p : Nat) (g : LhPort → LhPort) : (d.modLh p g).gateShut = d.gateShut := rfl
@[simp] theorem Dev.modLh_ports (p : Nat) (g : LhPort → LhPort) : (d.modLh p g).ports = d.ports := rfl
@[simp] theorem Dev.modLh_links (p : Nat) (g : LhPort → LhPort) : (d.modLh p g).links = d.links := rfl
@[simp] theorem Dev.modLh_heldPkts (p : Nat) (g : LhPort → LhPort) : (d.modLh p g).heldPkts = d.heldPkts := rfl
@[simp] theorem Dev.modLh_inbox (p : Nat) (g : LhPort → LhPort) : (d.modLh p g).inbox = d.inbox := rfl
@[simp] theorem Dev.modLh_mesh (p : Nat) (g : LhPort → LhPort) : (d.modLh p g).mesh = d.mesh := rfl
@[simp] theorem Dev.modLh_igReads (p : Nat) (g : LhPort → LhPort) : (d.modLh p g).igReads = d.igReads := rfl
@[simp] theorem Dev.modLh_groups (p : Nat) (g : LhPort → LhPort) : (d.modLh p g).groups = d.groups := rfl
@[simp] theorem Dev.modLh_out (p : Nat) (g : LhPort → LhPort) : (d.modLh p g).out = d.out := rfl
@[simp] theorem Dev.modLh_errLog (p : Nat) (g : LhPort → LhPort) : (d.modLh p g).errLog = d.errLog := rfl
@[simp] theorem Dev.modLh_resets (p : Nat) (g : LhPort → LhPort) : (d.modLh p g).resets = d.resets := rfl
@[simp] theorem Dev.modLh_vault (p : Nat) (g : LhPort → LhPort) : (d.modLh p g).vault = d.vault := rfl
@[simp] theorem Dev.modLh_proof (p : Nat) (g : LhPort → LhPort) : (d.modLh p g).proof = d.proof := rfl
@[simp] theorem Dev.modLh_holders (p : Nat) (g : LhPort → LhPort) : (d.modLh p g).holders = d.holders := rfl
@[simp] theorem Dev.modLh_lh (p : Nat) (g : LhPort → LhPort) : (d.modLh p g).lh = d.lh.put p (g (d.lhPort p)) := rfl
@[simp] theorem Dev.modLh_igPeers (p : Nat) (g : LhPort → LhPort) : (d.modLh p g).igPeers = d.igPeers := rfl
@[simp] theorem Dev.modLh_igForm (p : Nat) (g : LhPort → LhPort) : (d.modLh p g).igForm = d.igForm := rfl
@[simp] theorem Dev.modLh_power (p : Nat) (g : LhPort → LhPort) : (d.modLh p g).power = d.power := rfl
@[simp] theorem Dev.modLh_reg (p : Nat) (g : LhPort → LhPort) : (d.modLh p g).reg = d.reg := rfl
@[simp] theorem Dev.modLh_rst (p : Nat) (g : LhPort → LhPort) : (d.modLh p g).rst = d.rst := rfl
@[simp] theorem Dev.modLh_recov (p : Nat) (g : LhPort → LhPort) : (d.modLh p g).recov = d.recov := rfl
@[simp] theorem Dev.modLh_host (p : Nat) (g : LhPort → LhPort) : (d.modLh p g).host = d.host := rfl
@[simp] theorem Dev.modLh_arbs (p : Nat) (g : LhPort → LhPort) : (d.modLh p g).arbs = d.arbs := rfl

/-! ## Dev.setStack -/
@[simp] theorem Dev.setStack_time (i : Nat) (s : Stack) : (d.setStack i s).time = d.time := rfl
@[simp] theorem Dev.setStack_frac (i : Nat) (s : Stack) : (d.setStack i s).frac = d.frac := rfl
@[simp] theorem Dev.setStack_cyc (i : Nat) (s : Stack) : (d.setStack i s).cyc = d.cyc := rfl
@[simp] theorem Dev.setStack_freeCtr (i : Nat) (s : Stack) : (d.setStack i s).freeCtr = d.freeCtr := rfl
@[simp] theorem Dev.setStack_cores (i : Nat) (s : Stack) : (d.setStack i s).cores = d.cores := rfl
@[simp] theorem Dev.setStack_objs (i : Nat) (s : Stack) : (d.setStack i s).objs = d.objs := rfl
@[simp] theorem Dev.setStack_mem (i : Nat) (s : Stack) : (d.setStack i s).mem = { d.mem with hbm := d.mem.hbm.put i s } := rfl
@[simp] theorem Dev.setStack_coreFaults (i : Nat) (s : Stack) : (d.setStack i s).coreFaults = d.coreFaults := rfl
@[simp] theorem Dev.setStack_claims (i : Nat) (s : Stack) : (d.setStack i s).claims = d.claims := rfl
@[simp] theorem Dev.setStack_claimQ (i : Nat) (s : Stack) : (d.setStack i s).claimQ = d.claimQ := rfl
@[simp] theorem Dev.setStack_codecs (i : Nat) (s : Stack) : (d.setStack i s).codecs = d.codecs := rfl
@[simp] theorem Dev.setStack_ctxs (i : Nat) (s : Stack) : (d.setStack i s).ctxs = d.ctxs := rfl
@[simp] theorem Dev.setStack_handles (i : Nat) (s : Stack) : (d.setStack i s).handles = d.handles := rfl
@[simp] theorem Dev.setStack_princ (i : Nat) (s : Stack) : (d.setStack i s).princ = d.princ := rfl
@[simp] theorem Dev.setStack_gateShut (i : Nat) (s : Stack) : (d.setStack i s).gateShut = d.gateShut := rfl
@[simp] theorem Dev.setStack_ports (i : Nat) (s : Stack) : (d.setStack i s).ports = d.ports := rfl
@[simp] theorem Dev.setStack_links (i : Nat) (s : Stack) : (d.setStack i s).links = d.links := rfl
@[simp] theorem Dev.setStack_heldPkts (i : Nat) (s : Stack) : (d.setStack i s).heldPkts = d.heldPkts := rfl
@[simp] theorem Dev.setStack_inbox (i : Nat) (s : Stack) : (d.setStack i s).inbox = d.inbox := rfl
@[simp] theorem Dev.setStack_mesh (i : Nat) (s : Stack) : (d.setStack i s).mesh = d.mesh := rfl
@[simp] theorem Dev.setStack_igReads (i : Nat) (s : Stack) : (d.setStack i s).igReads = d.igReads := rfl
@[simp] theorem Dev.setStack_groups (i : Nat) (s : Stack) : (d.setStack i s).groups = d.groups := rfl
@[simp] theorem Dev.setStack_out (i : Nat) (s : Stack) : (d.setStack i s).out = d.out := rfl
@[simp] theorem Dev.setStack_errLog (i : Nat) (s : Stack) : (d.setStack i s).errLog = d.errLog := rfl
@[simp] theorem Dev.setStack_resets (i : Nat) (s : Stack) : (d.setStack i s).resets = d.resets := rfl
@[simp] theorem Dev.setStack_vault (i : Nat) (s : Stack) : (d.setStack i s).vault = d.vault := rfl
@[simp] theorem Dev.setStack_proof (i : Nat) (s : Stack) : (d.setStack i s).proof = d.proof := rfl
@[simp] theorem Dev.setStack_holders (i : Nat) (s : Stack) : (d.setStack i s).holders = d.holders := rfl
@[simp] theorem Dev.setStack_lh (i : Nat) (s : Stack) : (d.setStack i s).lh = d.lh := rfl
@[simp] theorem Dev.setStack_igPeers (i : Nat) (s : Stack) : (d.setStack i s).igPeers = d.igPeers := rfl
@[simp] theorem Dev.setStack_igForm (i : Nat) (s : Stack) : (d.setStack i s).igForm = d.igForm := rfl
@[simp] theorem Dev.setStack_power (i : Nat) (s : Stack) : (d.setStack i s).power = d.power := rfl
@[simp] theorem Dev.setStack_reg (i : Nat) (s : Stack) : (d.setStack i s).reg = d.reg := rfl
@[simp] theorem Dev.setStack_rst (i : Nat) (s : Stack) : (d.setStack i s).rst = d.rst := rfl
@[simp] theorem Dev.setStack_recov (i : Nat) (s : Stack) : (d.setStack i s).recov = d.recov := rfl
@[simp] theorem Dev.setStack_host (i : Nat) (s : Stack) : (d.setStack i s).host = d.host := rfl
@[simp] theorem Dev.setStack_arbs (i : Nat) (s : Stack) : (d.setStack i s).arbs = d.arbs := rfl

/-! ## promoteDue -/
@[simp] theorem promoteDue_time (h : Nat) : (promoteDue d h).time = d.time := rfl
@[simp] theorem promoteDue_frac (h : Nat) : (promoteDue d h).frac = d.frac := rfl
@[simp] theorem promoteDue_cyc (h : Nat) : (promoteDue d h).cyc = d.cyc := rfl
@[simp] theorem promoteDue_freeCtr (h : Nat) : (promoteDue d h).freeCtr = d.freeCtr := rfl
@[simp] theorem promoteDue_cores (h : Nat) : (promoteDue d h).cores = d.cores := rfl
@[simp] theorem promoteDue_objs (h : Nat) : (promoteDue d h).objs = d.objs := rfl
@[simp] theorem promoteDue_mem (h : Nat) : (promoteDue d h).mem = d.mem := rfl
@[simp] theorem promoteDue_coreFaults (h : Nat) : (promoteDue d h).coreFaults = d.coreFaults := rfl
@[simp] theorem promoteDue_claims (h : Nat) : (promoteDue d h).claims = d.claims := rfl
@[simp] theorem promoteDue_claimQ (h : Nat) : (promoteDue d h).claimQ = d.claimQ := rfl
@[simp] theorem promoteDue_codecs (h : Nat) : (promoteDue d h).codecs = d.codecs := rfl
@[simp] theorem promoteDue_ctxs (h : Nat) : (promoteDue d h).ctxs = d.ctxs := rfl
@[simp] theorem promoteDue_handles (h : Nat) : (promoteDue d h).handles = d.handles := rfl
@[simp] theorem promoteDue_princ (h : Nat) : (promoteDue d h).princ = d.princ := rfl
@[simp] theorem promoteDue_gateShut (h : Nat) : (promoteDue d h).gateShut = d.gateShut := rfl
@[simp] theorem promoteDue_ports (h : Nat) : (promoteDue d h).ports = d.ports := rfl
@[simp] theorem promoteDue_links (h : Nat) : (promoteDue d h).links = d.links := rfl
@[simp] theorem promoteDue_heldPkts (h : Nat) : (promoteDue d h).heldPkts = d.heldPkts := rfl
@[simp] theorem promoteDue_inbox (h : Nat) : (promoteDue d h).inbox = d.inbox := rfl
@[simp] theorem promoteDue_mesh (h : Nat) : (promoteDue d h).mesh = d.mesh := rfl
@[simp] theorem promoteDue_igReads (h : Nat) : (promoteDue d h).igReads = d.igReads := rfl
@[simp] theorem promoteDue_groups (h : Nat) : (promoteDue d h).groups = d.groups := rfl
@[simp] theorem promoteDue_out (h : Nat) : (promoteDue d h).out = d.out := rfl
@[simp] theorem promoteDue_errLog (h : Nat) : (promoteDue d h).errLog = d.errLog := rfl
@[simp] theorem promoteDue_resets (h : Nat) : (promoteDue d h).resets = d.resets := rfl
@[simp] theorem promoteDue_vault (h : Nat) : (promoteDue d h).vault = d.vault := rfl
@[simp] theorem promoteDue_proof (h : Nat) : (promoteDue d h).proof = d.proof := rfl
@[simp] theorem promoteDue_holders (h : Nat) : (promoteDue d h).holders = d.holders := rfl
@[simp] theorem promoteDue_lh (h : Nat) : (promoteDue d h).lh = d.lh := rfl
@[simp] theorem promoteDue_igPeers (h : Nat) : (promoteDue d h).igPeers = d.igPeers := rfl
@[simp] theorem promoteDue_igForm (h : Nat) : (promoteDue d h).igForm = d.igForm := rfl
@[simp] theorem promoteDue_power (h : Nat) : (promoteDue d h).power = d.power := rfl
@[simp] theorem promoteDue_reg (h : Nat) : (promoteDue d h).reg = d.reg := rfl
@[simp] theorem promoteDue_rst (h : Nat) : (promoteDue d h).rst = d.rst := rfl
@[simp] theorem promoteDue_recov (h : Nat) : (promoteDue d h).recov = d.recov := rfl
@[simp] theorem promoteDue_host (h : Nat) : (promoteDue d h).host = { d.host with promote := d.host.promote ++ [h] } := rfl
@[simp] theorem promoteDue_arbs (h : Nat) : (promoteDue d h).arbs = d.arbs := rfl

/-! ## What an update reads back as -/

@[simp] theorem Dev.core_setCore_same (c : Nat) (k : Core) : (d.setCore c k).core c = k := SMap.get_put_same ..
theorem Dev.core_setCore_other {c e : Nat} (k : Core) (h : e ≠ c) : (d.setCore c k).core e = d.core e := SMap.get_put_other _ _ _ h
@[simp] theorem Dev.core_modCore_same (c : Nat) (g : Core → Core) : (d.modCore c g).core c = g (d.core c) := SMap.get_put_same ..
theorem Dev.core_modCore_other {c e : Nat} (g : Core → Core) (h : e ≠ c) : (d.modCore c g).core e = d.core e := SMap.get_put_other _ _ _ h
@[simp] theorem Dev.ctx_setCtx_same (c : Nat) (x : Context) : (d.setCtx c x).ctx c = x := SMap.get_put_same ..
theorem Dev.ctx_setCtx_other {c e : Nat} (x : Context) (h : e ≠ c) : (d.setCtx c x).ctx e = d.ctx e := SMap.get_put_other _ _ _ h
@[simp] theorem Dev.engine_setEngine_same (e : Nat) (x : CodecEngine) : (d.setEngine e x).engine e = x := SMap.get_put_same ..
@[simp] theorem Dev.group_setGroup_same (g : Nat) (x : Group) : (d.setGroup g x).group g = x := SMap.get_put_same ..
theorem Dev.group_setGroup_other {g e : Nat} (x : Group) (h : e ≠ g) : (d.setGroup g x).group e = d.group e := SMap.get_put_other _ _ _ h
@[simp] theorem Dev.group_modGroup_same (g : Nat) (h : Group → Group) : (d.modGroup g h).group g = h (d.group g) := SMap.get_put_same ..
@[simp] theorem Dev.holder_setHolder_same (x : Nat) (h : Holder) : (d.setHolder x h).holder x = h := SMap.get_put_same ..
@[simp] theorem Dev.holder_modHolder_same (x : Nat) (g : Holder → Holder) : (d.modHolder x g).holder x = g (d.holder x) := SMap.get_put_same ..
@[simp] theorem Dev.lhPort_modLh_same (p : Nat) (g : LhPort → LhPort) : (d.modLh p g).lhPort p = g (d.lhPort p) := SMap.get_put_same ..
@[simp] theorem obj_setObj_same (f : Fuses) (i s v : Nat) : obj f (d.setObj i s v) i s = v := by
  unfold obj; simp [Dev.setObj]
theorem obj_setObj_other (f : Fuses) (i s v : Nat) {j u : Nat} (h : ob j u ≠ ob i s) : obj f (d.setObj i s v) j u = obj f d j u := by
  unfold obj; simp only [Dev.setObj, SMap.find?_put_other _ _ h]
@[simp] theorem ctr_setObj_same (i s v : Nat) : ctr (d.setObj i s v) i s = v := SMap.get_put_same ..
theorem ctr_setObj_other (i s v : Nat) {j u : Nat} (h : ob j u ≠ ob i s) : ctr (d.setObj i s v) j u = ctr d j u := SMap.get_put_other _ _ _ h

/-! ## A core's parts -/

@[simp] theorem Core.setTh_store (k : Core) (t : Thr) (x : Thread) : (k.setTh t x).store = k.store := by cases t <;> rfl
@[simp] theorem Core.setTh_fLen (k : Core) (t : Thr) (x : Thread) : (k.setTh t x).fLen = k.fLen := by cases t <;> rfl
@[simp] theorem Core.setTh_bLen (k : Core) (t : Thr) (x : Thread) : (k.setTh t x).bLen = k.bLen := by cases t <;> rfl
@[simp] theorem Core.setTh_acceptRemote (k : Core) (t : Thr) (x : Thread) : (k.setTh t x).acceptRemote = k.acceptRemote := by cases t <;> rfl
@[simp] theorem Core.setTh_held (k : Core) (t : Thr) (x : Thread) : (k.setTh t x).held = k.held := by cases t <;> rfl
@[simp] theorem Core.setTh_qcfg (k : Core) (t : Thr) (x : Thread) : (k.setTh t x).qcfg = k.qcfg := by cases t <;> rfl
@[simp] theorem Core.setTh_tokens (k : Core) (t : Thr) (x : Thread) : (k.setTh t x).tokens = k.tokens := by cases t <;> rfl
@[simp] theorem Core.setTh_credits (k : Core) (t : Thr) (x : Thread) : (k.setTh t x).credits = k.credits := by cases t <;> rfl
@[simp] theorem Core.setTh_queues (k : Core) (t : Thr) (x : Thread) : (k.setTh t x).queues = k.queues := by cases t <;> rfl
@[simp] theorem Core.setTh_qport (k : Core) (t : Thr) (x : Thread) : (k.setTh t x).qport = k.qport := by cases t <;> rfl
@[simp] theorem Core.setTh_plate (k : Core) (t : Thr) (x : Thread) : (k.setTh t x).plate = k.plate := by cases t <;> rfl
@[simp] theorem Core.setTh_plateBad (k : Core) (t : Thr) (x : Thread) : (k.setTh t x).plateBad = k.plateBad := by cases t <;> rfl
@[simp] theorem Core.setTh_mma (k : Core) (t : Thr) (x : Thread) : (k.setTh t x).mma = k.mma := by cases t <;> rfl
@[simp] theorem Core.setTh_vec (k : Core) (t : Thr) (x : Thread) : (k.setTh t x).vec = k.vec := by cases t <;> rfl
@[simp] theorem Core.setTh_upd (k : Core) (t : Thr) (x : Thread) : (k.setTh t x).upd = k.upd := by cases t <;> rfl
@[simp] theorem Core.setTh_movF (k : Core) (t : Thr) (x : Thread) : (k.setTh t x).movF = k.movF := by cases t <;> rfl
@[simp] theorem Core.setTh_movB (k : Core) (t : Thr) (x : Thread) : (k.setTh t x).movB = k.movB := by cases t <;> rfl
@[simp] theorem Core.setTh_coll (k : Core) (t : Thr) (x : Thread) : (k.setTh t x).coll = k.coll := by cases t <;> rfl
@[simp] theorem Core.setTh_trace (k : Core) (t : Thr) (x : Thread) : (k.setTh t x).trace = k.trace := by cases t <;> rfl
@[simp] theorem Core.setMov_f (k : Core) (t : Thr) (x : List MoveOp) : (k.setMov t x).f = k.f := by cases t <;> rfl
@[simp] theorem Core.setMov_b (k : Core) (t : Thr) (x : List MoveOp) : (k.setMov t x).b = k.b := by cases t <;> rfl
@[simp] theorem Core.setMov_store (k : Core) (t : Thr) (x : List MoveOp) : (k.setMov t x).store = k.store := by cases t <;> rfl
@[simp] theorem Core.setMov_fLen (k : Core) (t : Thr) (x : List MoveOp) : (k.setMov t x).fLen = k.fLen := by cases t <;> rfl
@[simp] theorem Core.setMov_bLen (k : Core) (t : Thr) (x : List MoveOp) : (k.setMov t x).bLen = k.bLen := by cases t <;> rfl
@[simp] theorem Core.setMov_acceptRemote (k : Core) (t : Thr) (x : List MoveOp) : (k.setMov t x).acceptRemote = k.acceptRemote := by cases t <;> rfl
@[simp] theorem Core.setMov_held (k : Core) (t : Thr) (x : List MoveOp) : (k.setMov t x).held = k.held := by cases t <;> rfl
@[simp] theorem Core.setMov_qcfg (k : Core) (t : Thr) (x : List MoveOp) : (k.setMov t x).qcfg = k.qcfg := by cases t <;> rfl
@[simp] theorem Core.setMov_tokens (k : Core) (t : Thr) (x : List MoveOp) : (k.setMov t x).tokens = k.tokens := by cases t <;> rfl
@[simp] theorem Core.setMov_credits (k : Core) (t : Thr) (x : List MoveOp) : (k.setMov t x).credits = k.credits := by cases t <;> rfl
@[simp] theorem Core.setMov_queues (k : Core) (t : Thr) (x : List MoveOp) : (k.setMov t x).queues = k.queues := by cases t <;> rfl
@[simp] theorem Core.setMov_qport (k : Core) (t : Thr) (x : List MoveOp) : (k.setMov t x).qport = k.qport := by cases t <;> rfl
@[simp] theorem Core.setMov_plate (k : Core) (t : Thr) (x : List MoveOp) : (k.setMov t x).plate = k.plate := by cases t <;> rfl
@[simp] theorem Core.setMov_plateBad (k : Core) (t : Thr) (x : List MoveOp) : (k.setMov t x).plateBad = k.plateBad := by cases t <;> rfl
@[simp] theorem Core.setMov_mma (k : Core) (t : Thr) (x : List MoveOp) : (k.setMov t x).mma = k.mma := by cases t <;> rfl
@[simp] theorem Core.setMov_vec (k : Core) (t : Thr) (x : List MoveOp) : (k.setMov t x).vec = k.vec := by cases t <;> rfl
@[simp] theorem Core.setMov_upd (k : Core) (t : Thr) (x : List MoveOp) : (k.setMov t x).upd = k.upd := by cases t <;> rfl
@[simp] theorem Core.setMov_coll (k : Core) (t : Thr) (x : List MoveOp) : (k.setMov t x).coll = k.coll := by cases t <;> rfl
@[simp] theorem Core.setMov_trace (k : Core) (t : Thr) (x : List MoveOp) : (k.setMov t x).trace = k.trace := by cases t <;> rfl
@[simp] theorem Core.th_setTh_same (k : Core) (t : Thr) (x : Thread) : (k.setTh t x).th t = x := by cases t <;> rfl
@[simp] theorem Core.th_setMov (k : Core) (t u : Thr) (x : List MoveOp) : (k.setMov t x).th u = k.th u := by cases t <;> cases u <;> rfl
@[simp] theorem Core.mov_setMov_same (k : Core) (t : Thr) (x : List MoveOp) : (k.setMov t x).mov t = x := by cases t <;> rfl
@[simp] theorem Core.mov_setTh (k : Core) (t u : Thr) (x : Thread) : (k.setTh t x).mov u = k.mov u := by cases t <;> cases u <;> rfl
theorem Core.th_setTh_other (k : Core) {t u : Thr} (x : Thread) (h : u ≠ t) : (k.setTh t x).th u = k.th u := by cases t <;> cases u <;> first | rfl | exact absurd rfl h

end Sys2Proof.Machine
end

