-- ==== Sys2Proof/Laws/Ops.lean ====
section
/-! SUPPORT. What each shared operation can change: the parts of the device it leaves as they were, and what it does to the
parts it acts on. -/

namespace Sys2Proof.Machine

variable (d : Dev)

/-! ## Dev.bump: it acts on objs alone -/
@[simp] theorem Dev.bump_time (i s w n : Nat) : (d.bump i s w n).time = d.time := by
  unfold Dev.bump; split <;> rfl
@[simp] theorem Dev.bump_frac (i s w n : Nat) : (d.bump i s w n).frac = d.frac := by
  unfold Dev.bump; split <;> rfl
@[simp] theorem Dev.bump_cyc (i s w n : Nat) : (d.bump i s w n).cyc = d.cyc := by
  unfold Dev.bump; split <;> rfl
@[simp] theorem Dev.bump_freeCtr (i s w n : Nat) : (d.bump i s w n).freeCtr = d.freeCtr := by
  unfold Dev.bump; split <;> rfl
@[simp] theorem Dev.bump_cores (i s w n : Nat) : (d.bump i s w n).cores = d.cores := by
  unfold Dev.bump; split <;> rfl
@[simp] theorem Dev.bump_mem (i s w n : Nat) : (d.bump i s w n).mem = d.mem := by
  unfold Dev.bump; split <;> rfl
@[simp] theorem Dev.bump_coreFaults (i s w n : Nat) : (d.bump i s w n).coreFaults = d.coreFaults := by
  unfold Dev.bump; split <;> rfl
@[simp] theorem Dev.bump_claims (i s w n : Nat) : (d.bump i s w n).claims = d.claims := by
  unfold Dev.bump; split <;> rfl
@[simp] theorem Dev.bump_claimQ (i s w n : Nat) : (d.bump i s w n).claimQ = d.claimQ := by
  unfold Dev.bump; split <;> rfl
@[simp] theorem Dev.bump_codecs (i s w n : Nat) : (d.bump i s w n).codecs = d.codecs := by
  unfold Dev.bump; split <;> rfl
@[simp] theorem Dev.bump_ctxs (i s w n : Nat) : (d.bump i s w n).ctxs = d.ctxs := by
  unfold Dev.bump; split <;> rfl
@[simp] theorem Dev.bump_handles (i s w n : Nat) : (d.bump i s w n).handles = d.handles := by
  unfold Dev.bump; split <;> rfl
@[simp] theorem Dev.bump_princ (i s w n : Nat) : (d.bump i s w n).princ = d.princ := by
  unfold Dev.bump; split <;> rfl
@[simp] theorem Dev.bump_gateShut (i s w n : Nat) : (d.bump i s w n).gateShut = d.gateShut := by
  unfold Dev.bump; split <;> rfl
@[simp] theorem Dev.bump_ports (i s w n : Nat) : (d.bump i s w n).ports = d.ports := by
  unfold Dev.bump; split <;> rfl
@[simp] theorem Dev.bump_links (i s w n : Nat) : (d.bump i s w n).links = d.links := by
  unfold Dev.bump; split <;> rfl
@[simp] theorem Dev.bump_heldPkts (i s w n : Nat) : (d.bump i s w n).heldPkts = d.heldPkts := by
  unfold Dev.bump; split <;> rfl
@[simp] theorem Dev.bump_inbox (i s w n : Nat) : (d.bump i s w n).inbox = d.inbox := by
  unfold Dev.bump; split <;> rfl
@[simp] theorem Dev.bump_mesh (i s w n : Nat) : (d.bump i s w n).mesh = d.mesh := by
  unfold Dev.bump; split <;> rfl
@[simp] theorem Dev.bump_igReads (i s w n : Nat) : (d.bump i s w n).igReads = d.igReads := by
  unfold Dev.bump; split <;> rfl
@[simp] theorem Dev.bump_groups (i s w n : Nat) : (d.bump i s w n).groups = d.groups := by
  unfold Dev.bump; split <;> rfl
@[simp] theorem Dev.bump_out (i s w n : Nat) : (d.bump i s w n).out = d.out := by
  unfold Dev.bump; split <;> rfl
@[simp] theorem Dev.bump_errLog (i s w n : Nat) : (d.bump i s w n).errLog = d.errLog := by
  unfold Dev.bump; split <;> rfl
@[simp] theorem Dev.bump_resets (i s w n : Nat) : (d.bump i s w n).resets = d.resets := by
  unfold Dev.bump; split <;> rfl
@[simp] theorem Dev.bump_vault (i s w n : Nat) : (d.bump i s w n).vault = d.vault := by
  unfold Dev.bump; split <;> rfl
@[simp] theorem Dev.bump_proof (i s w n : Nat) : (d.bump i s w n).proof = d.proof := by
  unfold Dev.bump; split <;> rfl
@[simp] theorem Dev.bump_holders (i s w n : Nat) : (d.bump i s w n).holders = d.holders := by
  unfold Dev.bump; split <;> rfl
@[simp] theorem Dev.bump_lh (i s w n : Nat) : (d.bump i s w n).lh = d.lh := by
  unfold Dev.bump; split <;> rfl
@[simp] theorem Dev.bump_igPeers (i s w n : Nat) : (d.bump i s w n).igPeers = d.igPeers := by
  unfold Dev.bump; split <;> rfl
@[simp] theorem Dev.bump_igForm (i s w n : Nat) : (d.bump i s w n).igForm = d.igForm := by
  unfold Dev.bump; split <;> rfl
@[simp] theorem Dev.bump_power (i s w n : Nat) : (d.bump i s w n).power = d.power := by
  unfold Dev.bump; split <;> rfl
@[simp] theorem Dev.bump_reg (i s w n : Nat) : (d.bump i s w n).reg = d.reg := by
  unfold Dev.bump; split <;> rfl
@[simp] theorem Dev.bump_rst (i s w n : Nat) : (d.bump i s w n).rst = d.rst := by
  unfold Dev.bump; split <;> rfl
@[simp] theorem Dev.bump_recov (i s w n : Nat) : (d.bump i s w n).recov = d.recov := by
  unfold Dev.bump; split <;> rfl
@[simp] theorem Dev.bump_host (i s w n : Nat) : (d.bump i s w n).host = d.host := by
  unfold Dev.bump; split <;> rfl
@[simp] theorem Dev.bump_arbs (i s w n : Nat) : (d.bump i s w n).arbs = d.arbs := by
  unfold Dev.bump; split <;> rfl

/-! ## Dev.grant: it acts on arbs alone -/
@[simp] theorem Dev.grant_time (i : Nat) (p : Ask) : (d.grant i p).time = d.time := rfl
@[simp] theorem Dev.grant_frac (i : Nat) (p : Ask) : (d.grant i p).frac = d.frac := rfl
@[simp] theorem Dev.grant_cyc (i : Nat) (p : Ask) : (d.grant i p).cyc = d.cyc := rfl
@[simp] theorem Dev.grant_freeCtr (i : Nat) (p : Ask) : (d.grant i p).freeCtr = d.freeCtr := rfl
@[simp] theorem Dev.grant_cores (i : Nat) (p : Ask) : (d.grant i p).cores = d.cores := rfl
@[simp] theorem Dev.grant_objs (i : Nat) (p : Ask) : (d.grant i p).objs = d.objs := rfl
@[simp] theorem Dev.grant_mem (i : Nat) (p : Ask) : (d.grant i p).mem = d.mem := rfl
@[simp] theorem Dev.grant_coreFaults (i : Nat) (p : Ask) : (d.grant i p).coreFaults = d.coreFaults := rfl
@[simp] theorem Dev.grant_claims (i : Nat) (p : Ask) : (d.grant i p).claims = d.claims := rfl
@[simp] theorem Dev.grant_claimQ (i : Nat) (p : Ask) : (d.grant i p).claimQ = d.claimQ := rfl
@[simp] theorem Dev.grant_codecs (i : Nat) (p : Ask) : (d.grant i p).codecs = d.codecs := rfl
@[simp] theorem Dev.grant_ctxs (i : Nat) (p : Ask) : (d.grant i p).ctxs = d.ctxs := rfl
@[simp] theorem Dev.grant_handles (i : Nat) (p : Ask) : (d.grant i p).handles = d.handles := rfl
@[simp] theorem Dev.grant_princ (i : Nat) (p : Ask) : (d.grant i p).princ = d.princ := rfl
@[simp] theorem Dev.grant_gateShut (i : Nat) (p : Ask) : (d.grant i p).gateShut = d.gateShut := rfl
@[simp] theorem Dev.grant_ports (i : Nat) (p : Ask) : (d.grant i p).ports = d.ports := rfl
@[simp] theorem Dev.grant_links (i : Nat) (p : Ask) : (d.grant i p).links = d.links := rfl
@[simp] theorem Dev.grant_heldPkts (i : Nat) (p : Ask) : (d.grant i p).heldPkts = d.heldPkts := rfl
@[simp] theorem Dev.grant_inbox (i : Nat) (p : Ask) : (d.grant i p).inbox = d.inbox := rfl
@[simp] theorem Dev.grant_mesh (i : Nat) (p : Ask) : (d.grant i p).mesh = d.mesh := rfl
@[simp] theorem Dev.grant_igReads (i : Nat) (p : Ask) : (d.grant i p).igReads = d.igReads := rfl
@[simp] theorem Dev.grant_groups (i : Nat) (p : Ask) : (d.grant i p).groups = d.groups := rfl
@[simp] theorem Dev.grant_out (i : Nat) (p : Ask) : (d.grant i p).out = d.out := rfl
@[simp] theorem Dev.grant_errLog (i : Nat) (p : Ask) : (d.grant i p).errLog = d.errLog := rfl
@[simp] theorem Dev.grant_resets (i : Nat) (p : Ask) : (d.grant i p).resets = d.resets := rfl
@[simp] theorem Dev.grant_vault (i : Nat) (p : Ask) : (d.grant i p).vault = d.vault := rfl
@[simp] theorem Dev.grant_proof (i : Nat) (p : Ask) : (d.grant i p).proof = d.proof := rfl
@[simp] theorem Dev.grant_holders (i : Nat) (p : Ask) : (d.grant i p).holders = d.holders := rfl
@[simp] theorem Dev.grant_lh (i : Nat) (p : Ask) : (d.grant i p).lh = d.lh := rfl
@[simp] theorem Dev.grant_igPeers (i : Nat) (p : Ask) : (d.grant i p).igPeers = d.igPeers := rfl
@[simp] theorem Dev.grant_igForm (i : Nat) (p : Ask) : (d.grant i p).igForm = d.igForm := rfl
@[simp] theorem Dev.grant_power (i : Nat) (p : Ask) : (d.grant i p).power = d.power := rfl
@[simp] theorem Dev.grant_reg (i : Nat) (p : Ask) : (d.grant i p).reg = d.reg := rfl
@[simp] theorem Dev.grant_rst (i : Nat) (p : Ask) : (d.grant i p).rst = d.rst := rfl
@[simp] theorem Dev.grant_recov (i : Nat) (p : Ask) : (d.grant i p).recov = d.recov := rfl
@[simp] theorem Dev.grant_host (i : Nat) (p : Ask) : (d.grant i p).host = d.host := rfl

/-! ## Dev.moved: it acts on recov alone -/
@[simp] theorem Dev.moved_time (i n : Nat) : (d.moved i n).time = d.time := by
  unfold Dev.moved; split <;> rfl
@[simp] theorem Dev.moved_frac (i n : Nat) : (d.moved i n).frac = d.frac := by
  unfold Dev.moved; split <;> rfl
@[simp] theorem Dev.moved_cyc (i n : Nat) : (d.moved i n).cyc = d.cyc := by
  unfold Dev.moved; split <;> rfl
@[simp] theorem Dev.moved_freeCtr (i n : Nat) : (d.moved i n).freeCtr = d.freeCtr := by
  unfold Dev.moved; split <;> rfl
@[simp] theorem Dev.moved_cores (i n : Nat) : (d.moved i n).cores = d.cores := by
  unfold Dev.moved; split <;> rfl
@[simp] theorem Dev.moved_objs (i n : Nat) : (d.moved i n).objs = d.objs := by
  unfold Dev.moved; split <;> rfl
@[simp] theorem Dev.moved_mem (i n : Nat) : (d.moved i n).mem = d.mem := by
  unfold Dev.moved; split <;> rfl
@[simp] theorem Dev.moved_coreFaults (i n : Nat) : (d.moved i n).coreFaults = d.coreFaults := by
  unfold Dev.moved; split <;> rfl
@[simp] theorem Dev.moved_claims (i n : Nat) : (d.moved i n).claims = d.claims := by
  unfold Dev.moved; split <;> rfl
@[simp] theorem Dev.moved_claimQ (i n : Nat) : (d.moved i n).claimQ = d.claimQ := by
  unfold Dev.moved; split <;> rfl
@[simp] theorem Dev.moved_codecs (i n : Nat) : (d.moved i n).codecs = d.codecs := by
  unfold Dev.moved; split <;> rfl
@[simp] theorem Dev.moved_ctxs (i n : Nat) : (d.moved i n).ctxs = d.ctxs := by
  unfold Dev.moved; split <;> rfl
@[simp] theorem Dev.moved_handles (i n : Nat) : (d.moved i n).handles = d.handles := by
  unfold Dev.moved; split <;> rfl
@[simp] theorem Dev.moved_princ (i n : Nat) : (d.moved i n).princ = d.princ := by
  unfold Dev.moved; split <;> rfl
@[simp] theorem Dev.moved_gateShut (i n : Nat) : (d.moved i n).gateShut = d.gateShut := by
  unfold Dev.moved; split <;> rfl
@[simp] theorem Dev.moved_ports (i n : Nat) : (d.moved i n).ports = d.ports := by
  unfold Dev.moved; split <;> rfl
@[simp] theorem Dev.moved_links (i n : Nat) : (d.moved i n).links = d.links := by
  unfold Dev.moved; split <;> rfl
@[simp] theorem Dev.moved_heldPkts (i n : Nat) : (d.moved i n).heldPkts = d.heldPkts := by
  unfold Dev.moved; split <;> rfl
@[simp] theorem Dev.moved_inbox (i n : Nat) : (d.moved i n).inbox = d.inbox := by
  unfold Dev.moved; split <;> rfl
@[simp] theorem Dev.moved_mesh (i n : Nat) : (d.moved i n).mesh = d.mesh := by
  unfold Dev.moved; split <;> rfl
@[simp] theorem Dev.moved_igReads (i n : Nat) : (d.moved i n).igReads = d.igReads := by
  unfold Dev.moved; split <;> rfl
@[simp] theorem Dev.moved_groups (i n : Nat) : (d.moved i n).groups = d.groups := by
  unfold Dev.moved; split <;> rfl
@[simp] theorem Dev.moved_out (i n : Nat) : (d.moved i n).out = d.out := by
  unfold Dev.moved; split <;> rfl
@[simp] theorem Dev.moved_errLog (i n : Nat) : (d.moved i n).errLog = d.errLog := by
  unfold Dev.moved; split <;> rfl
@[simp] theorem Dev.moved_resets (i n : Nat) : (d.moved i n).resets = d.resets := by
  unfold Dev.moved; split <;> rfl
@[simp] theorem Dev.moved_vault (i n : Nat) : (d.moved i n).vault = d.vault := by
  unfold Dev.moved; split <;> rfl
@[simp] theorem Dev.moved_proof (i n : Nat) : (d.moved i n).proof = d.proof := by
  unfold Dev.moved; split <;> rfl
@[simp] theorem Dev.moved_holders (i n : Nat) : (d.moved i n).holders = d.holders := by
  unfold Dev.moved; split <;> rfl
@[simp] theorem Dev.moved_lh (i n : Nat) : (d.moved i n).lh = d.lh := by
  unfold Dev.moved; split <;> rfl
@[simp] theorem Dev.moved_igPeers (i n : Nat) : (d.moved i n).igPeers = d.igPeers := by
  unfold Dev.moved; split <;> rfl
@[simp] theorem Dev.moved_igForm (i n : Nat) : (d.moved i n).igForm = d.igForm := by
  unfold Dev.moved; split <;> rfl
@[simp] theorem Dev.moved_power (i n : Nat) : (d.moved i n).power = d.power := by
  unfold Dev.moved; split <;> rfl
@[simp] theorem Dev.moved_reg (i n : Nat) : (d.moved i n).reg = d.reg := by
  unfold Dev.moved; split <;> rfl
@[simp] theorem Dev.moved_rst (i n : Nat) : (d.moved i n).rst = d.rst := by
  unfold Dev.moved; split <;> rfl
@[simp] theorem Dev.moved_host (i n : Nat) : (d.moved i n).host = d.host := by
  unfold Dev.moved; split <;> rfl
@[simp] theorem Dev.moved_arbs (i n : Nat) : (d.moved i n).arbs = d.arbs := by
  unfold Dev.moved; split <;> rfl

/-! ## Dev.log: it acts on errLog, recov alone -/
@[simp] theorem Dev.log_time (st sv u p : Nat) (l : List Nat) : (d.log st sv u p l).time = d.time := rfl
@[simp] theorem Dev.log_frac (st sv u p : Nat) (l : List Nat) : (d.log st sv u p l).frac = d.frac := rfl
@[simp] theorem Dev.log_cyc (st sv u p : Nat) (l : List Nat) : (d.log st sv u p l).cyc = d.cyc := rfl
@[simp] theorem Dev.log_freeCtr (st sv u p : Nat) (l : List Nat) : (d.log st sv u p l).freeCtr = d.freeCtr := rfl
@[simp] theorem Dev.log_cores (st sv u p : Nat) (l : List Nat) : (d.log st sv u p l).cores = d.cores := rfl
@[simp] theorem Dev.log_objs (st sv u p : Nat) (l : List Nat) : (d.log st sv u p l).objs = d.objs := rfl
@[simp] theorem Dev.log_mem (st sv u p : Nat) (l : List Nat) : (d.log st sv u p l).mem = d.mem := rfl
@[simp] theorem Dev.log_coreFaults (st sv u p : Nat) (l : List Nat) : (d.log st sv u p l).coreFaults = d.coreFaults := rfl
@[simp] theorem Dev.log_claims (st sv u p : Nat) (l : List Nat) : (d.log st sv u p l).claims = d.claims := rfl
@[simp] theorem Dev.log_claimQ (st sv u p : Nat) (l : List Nat) : (d.log st sv u p l).claimQ = d.claimQ := rfl
@[simp] theorem Dev.log_codecs (st sv u p : Nat) (l : List Nat) : (d.log st sv u p l).codecs = d.codecs := rfl
@[simp] theorem Dev.log_ctxs (st sv u p : Nat) (l : List Nat) : (d.log st sv u p l).ctxs = d.ctxs := rfl
@[simp] theorem Dev.log_handles (st sv u p : Nat) (l : List Nat) : (d.log st sv u p l).handles = d.handles := rfl
@[simp] theorem Dev.log_princ (st sv u p : Nat) (l : List Nat) : (d.log st sv u p l).princ = d.princ := rfl
@[simp] theorem Dev.log_gateShut (st sv u p : Nat) (l : List Nat) : (d.log st sv u p l).gateShut = d.gateShut := rfl
@[simp] theorem Dev.log_ports (st sv u p : Nat) (l : List Nat) : (d.log st sv u p l).ports = d.ports := rfl
@[simp] theorem Dev.log_links (st sv u p : Nat) (l : List Nat) : (d.log st sv u p l).links = d.links := rfl
@[simp] theorem Dev.log_heldPkts (st sv u p : Nat) (l : List Nat) : (d.log st sv u p l).heldPkts = d.heldPkts := rfl
@[simp] theorem Dev.log_inbox (st sv u p : Nat) (l : List Nat) : (d.log st sv u p l).inbox = d.inbox := rfl
@[simp] theorem Dev.log_mesh (st sv u p : Nat) (l : List Nat) : (d.log st sv u p l).mesh = d.mesh := rfl
@[simp] theorem Dev.log_igReads (st sv u p : Nat) (l : List Nat) : (d.log st sv u p l).igReads = d.igReads := rfl
@[simp] theorem Dev.log_groups (st sv u p : Nat) (l : List Nat) : (d.log st sv u p l).groups = d.groups := rfl
@[simp] theorem Dev.log_out (st sv u p : Nat) (l : List Nat) : (d.log st sv u p l).out = d.out := rfl
@[simp] theorem Dev.log_resets (st sv u p : Nat) (l : List Nat) : (d.log st sv u p l).resets = d.resets := rfl
@[simp] theorem Dev.log_vault (st sv u p : Nat) (l : List Nat) : (d.log st sv u p l).vault = d.vault := rfl
@[simp] theorem Dev.log_proof (st sv u p : Nat) (l : List Nat) : (d.log st sv u p l).proof = d.proof := rfl
@[simp] theorem Dev.log_holders (st sv u p : Nat) (l : List Nat) : (d.log st sv u p l).holders = d.holders := rfl
@[simp] theorem Dev.log_lh (st sv u p : Nat) (l : List Nat) : (d.log st sv u p l).lh = d.lh := rfl
@[simp] theorem Dev.log_igPeers (st sv u p : Nat) (l : List Nat) : (d.log st sv u p l).igPeers = d.igPeers := rfl
@[simp] theorem Dev.log_igForm (st sv u p : Nat) (l : List Nat) : (d.log st sv u p l).igForm = d.igForm := rfl
@[simp] theorem Dev.log_power (st sv u p : Nat) (l : List Nat) : (d.log st sv u p l).power = d.power := rfl
@[simp] theorem Dev.log_reg (st sv u p : Nat) (l : List Nat) : (d.log st sv u p l).reg = d.reg := rfl
@[simp] theorem Dev.log_rst (st sv u p : Nat) (l : List Nat) : (d.log st sv u p l).rst = d.rst := rfl
@[simp] theorem Dev.log_host (st sv u p : Nat) (l : List Nat) : (d.log st sv u p l).host = d.host := rfl
@[simp] theorem Dev.log_arbs (st sv u p : Nat) (l : List Nat) : (d.log st sv u p l).arbs = d.arbs := rfl

/-! ## mboxLeft: it acts on ctxs alone -/
@[simp] theorem mboxLeft_time (o : Out) : (mboxLeft d o).time = d.time := by cases o <;> rfl
@[simp] theorem mboxLeft_frac (o : Out) : (mboxLeft d o).frac = d.frac := by cases o <;> rfl
@[simp] theorem mboxLeft_cyc (o : Out) : (mboxLeft d o).cyc = d.cyc := by cases o <;> rfl
@[simp] theorem mboxLeft_freeCtr (o : Out) : (mboxLeft d o).freeCtr = d.freeCtr := by cases o <;> rfl
@[simp] theorem mboxLeft_cores (o : Out) : (mboxLeft d o).cores = d.cores := by cases o <;> rfl
@[simp] theorem mboxLeft_objs (o : Out) : (mboxLeft d o).objs = d.objs := by cases o <;> rfl
@[simp] theorem mboxLeft_mem (o : Out) : (mboxLeft d o).mem = d.mem := by cases o <;> rfl
@[simp] theorem mboxLeft_coreFaults (o : Out) : (mboxLeft d o).coreFaults = d.coreFaults := by cases o <;> rfl
@[simp] theorem mboxLeft_claims (o : Out) : (mboxLeft d o).claims = d.claims := by cases o <;> rfl
@[simp] theorem mboxLeft_claimQ (o : Out) : (mboxLeft d o).claimQ = d.claimQ := by cases o <;> rfl
@[simp] theorem mboxLeft_codecs (o : Out) : (mboxLeft d o).codecs = d.codecs := by cases o <;> rfl
@[simp] theorem mboxLeft_handles (o : Out) : (mboxLeft d o).handles = d.handles := by cases o <;> rfl
@[simp] theorem mboxLeft_princ (o : Out) : (mboxLeft d o).princ = d.princ := by cases o <;> rfl
@[simp] theorem mboxLeft_gateShut (o : Out) : (mboxLeft d o).gateShut = d.gateShut := by cases o <;> rfl
@[simp] theorem mboxLeft_ports (o : Out) : (mboxLeft d o).ports = d.ports := by cases o <;> rfl
@[simp] theorem mboxLeft_links (o : Out) : (mboxLeft d o).links = d.links := by cases o <;> rfl
@[simp] theorem mboxLeft_heldPkts (o : Out) : (mboxLeft d o).heldPkts = d.heldPkts := by cases o <;> rfl
@[simp] theorem mboxLeft_inbox (o : Out) : (mboxLeft d o).inbox = d.inbox := by cases o <;> rfl
@[simp] theorem mboxLeft_mesh (o : Out) : (mboxLeft d o).mesh = d.mesh := by cases o <;> rfl
@[simp] theorem mboxLeft_igReads (o : Out) : (mboxLeft d o).igReads = d.igReads := by cases o <;> rfl
@[simp] theorem mboxLeft_groups (o : Out) : (mboxLeft d o).groups = d.groups := by cases o <;> rfl
@[simp] theorem mboxLeft_errLog (o : Out) : (mboxLeft d o).errLog = d.errLog := by cases o <;> rfl
@[simp] theorem mboxLeft_resets (o : Out) : (mboxLeft d o).resets = d.resets := by cases o <;> rfl
@[simp] theorem mboxLeft_vault (o : Out) : (mboxLeft d o).vault = d.vault := by cases o <;> rfl
@[simp] theorem mboxLeft_proof (o : Out) : (mboxLeft d o).proof = d.proof := by cases o <;> rfl
@[simp] theorem mboxLeft_holders (o : Out) : (mboxLeft d o).holders = d.holders := by cases o <;> rfl
@[simp] theorem mboxLeft_lh (o : Out) : (mboxLeft d o).lh = d.lh := by cases o <;> rfl
@[simp] theorem mboxLeft_igPeers (o : Out) : (mboxLeft d o).igPeers = d.igPeers := by cases o <;> rfl
@[simp] theorem mboxLeft_igForm (o : Out) : (mboxLeft d o).igForm = d.igForm := by cases o <;> rfl
@[simp] theorem mboxLeft_power (o : Out) : (mboxLeft d o).power = d.power := by cases o <;> rfl
@[simp] theorem mboxLeft_reg (o : Out) : (mboxLeft d o).reg = d.reg := by cases o <;> rfl
@[simp] theorem mboxLeft_rst (o : Out) : (mboxLeft d o).rst = d.rst := by cases o <;> rfl
@[simp] theorem mboxLeft_recov (o : Out) : (mboxLeft d o).recov = d.recov := by cases o <;> rfl
@[simp] theorem mboxLeft_host (o : Out) : (mboxLeft d o).host = d.host := by cases o <;> rfl
@[simp] theorem mboxLeft_arbs (o : Out) : (mboxLeft d o).arbs = d.arbs := by cases o <;> rfl
@[simp] theorem mboxLeft_out (o : Out) : (mboxLeft d o).out = d.out := by cases o <;> rfl

/-! ## Dev.emit: it acts on out, host, arbs, ctxs alone -/
@[simp] theorem Dev.emit_time (o : Out) : (d.emit o).time = d.time := by
  unfold Dev.emit; split
  · rfl
  · split <;> simp
@[simp] theorem Dev.emit_frac (o : Out) : (d.emit o).frac = d.frac := by
  unfold Dev.emit; split
  · rfl
  · split <;> simp
@[simp] theorem Dev.emit_cyc (o : Out) : (d.emit o).cyc = d.cyc := by
  unfold Dev.emit; split
  · rfl
  · split <;> simp
@[simp] theorem Dev.emit_freeCtr (o : Out) : (d.emit o).freeCtr = d.freeCtr := by
  unfold Dev.emit; split
  · rfl
  · split <;> simp
@[simp] theorem Dev.emit_cores (o : Out) : (d.emit o).cores = d.cores := by
  unfold Dev.emit; split
  · rfl
  · split <;> simp
@[simp] theorem Dev.emit_objs (o : Out) : (d.emit o).objs = d.objs := by
  unfold Dev.emit; split
  · rfl
  · split <;> simp
@[simp] theorem Dev.emit_mem (o : Out) : (d.emit o).mem = d.mem := by
  unfold Dev.emit; split
  · rfl
  · split <;> simp
@[simp] theorem Dev.emit_coreFaults (o : Out) : (d.emit o).coreFaults = d.coreFaults := by
  unfold Dev.emit; split
  · rfl
  · split <;> simp
@[simp] theorem Dev.emit_claims (o : Out) : (d.emit o).claims = d.claims := by
  unfold Dev.emit; split
  · rfl
  · split <;> simp
@[simp] theorem Dev.emit_claimQ (o : Out) : (d.emit o).claimQ = d.claimQ := by
  unfold Dev.emit; split
  · rfl
  · split <;> simp
@[simp] theorem Dev.emit_codecs (o : Out) : (d.emit o).codecs = d.codecs := by
  unfold Dev.emit; split
  · rfl
  · split <;> simp
@[simp] theorem Dev.emit_handles (o : Out) : (d.emit o).handles = d.handles := by
  unfold Dev.emit; split
  · rfl
  · split <;> simp
@[simp] theorem Dev.emit_princ (o : Out) : (d.emit o).princ = d.princ := by
  unfold Dev.emit; split
  · rfl
  · split <;> simp
@[simp] theorem Dev.emit_gateShut (o : Out) : (d.emit o).gateShut = d.gateShut := by
  unfold Dev.emit; split
  · rfl
  · split <;> simp
@[simp] theorem Dev.emit_ports (o : Out) : (d.emit o).ports = d.ports := by
  unfold Dev.emit; split
  · rfl
  · split <;> simp
@[simp] theorem Dev.emit_links (o : Out) : (d.emit o).links = d.links := by
  unfold Dev.emit; split
  · rfl
  · split <;> simp
@[simp] theorem Dev.emit_heldPkts (o : Out) : (d.emit o).heldPkts = d.heldPkts := by
  unfold Dev.emit; split
  · rfl
  · split <;> simp
@[simp] theorem Dev.emit_inbox (o : Out) : (d.emit o).inbox = d.inbox := by
  unfold Dev.emit; split
  · rfl
  · split <;> simp
@[simp] theorem Dev.emit_mesh (o : Out) : (d.emit o).mesh = d.mesh := by
  unfold Dev.emit; split
  · rfl
  · split <;> simp
@[simp] theorem Dev.emit_igReads (o : Out) : (d.emit o).igReads = d.igReads := by
  unfold Dev.emit; split
  · rfl
  · split <;> simp
@[simp] theorem Dev.emit_groups (o : Out) : (d.emit o).groups = d.groups := by
  unfold Dev.emit; split
  · rfl
  · split <;> simp
@[simp] theorem Dev.emit_errLog (o : Out) : (d.emit o).errLog = d.errLog := by
  unfold Dev.emit; split
  · rfl
  · split <;> simp
@[simp] theorem Dev.emit_resets (o : Out) : (d.emit o).resets = d.resets := by
  unfold Dev.emit; split
  · rfl
  · split <;> simp
@[simp] theorem Dev.emit_vault (o : Out) : (d.emit o).vault = d.vault := by
  unfold Dev.emit; split
  · rfl
  · split <;> simp
@[simp] theorem Dev.emit_proof (o : Out) : (d.emit o).proof = d.proof := by
  unfold Dev.emit; split
  · rfl
  · split <;> simp
@[simp] theorem Dev.emit_holders (o : Out) : (d.emit o).holders = d.holders := by
  unfold Dev.emit; split
  · rfl
  · split <;> simp
@[simp] theorem Dev.emit_lh (o : Out) : (d.emit o).lh = d.lh := by
  unfold Dev.emit; split
  · rfl
  · split <;> simp
@[simp] theorem Dev.emit_igPeers (o : Out) : (d.emit o).igPeers = d.igPeers := by
  unfold Dev.emit; split
  · rfl
  · split <;> simp
@[simp] theorem Dev.emit_igForm (o : Out) : (d.emit o).igForm = d.igForm := by
  unfold Dev.emit; split
  · rfl
  · split <;> simp
@[simp] theorem Dev.emit_power (o : Out) : (d.emit o).power = d.power := by
  unfold Dev.emit; split
  · rfl
  · split <;> simp
@[simp] theorem Dev.emit_reg (o : Out) : (d.emit o).reg = d.reg := by
  unfold Dev.emit; split
  · rfl
  · split <;> simp
@[simp] theorem Dev.emit_rst (o : Out) : (d.emit o).rst = d.rst := by
  unfold Dev.emit; split
  · rfl
  · split <;> simp
@[simp] theorem Dev.emit_recov (o : Out) : (d.emit o).recov = d.recov := by
  unfold Dev.emit; split
  · rfl
  · split <;> simp

/-! ## cmcEvent: it acts on out, host, arbs, ctxs alone -/
@[simp] theorem cmcEvent_time (st a : Nat) : (cmcEvent d st a).time = d.time := by
  simp [cmcEvent]
@[simp] theorem cmcEvent_frac (st a : Nat) : (cmcEvent d st a).frac = d.frac := by
  simp [cmcEvent]
@[simp] theorem cmcEvent_cyc (st a : Nat) : (cmcEvent d st a).cyc = d.cyc := by
  simp [cmcEvent]
@[simp] theorem cmcEvent_freeCtr (st a : Nat) : (cmcEvent d st a).freeCtr = d.freeCtr := by
  simp [cmcEvent]
@[simp] theorem cmcEvent_cores (st a : Nat) : (cmcEvent d st a).cores = d.cores := by
  simp [cmcEvent]
@[simp] theorem cmcEvent_objs (st a : Nat) : (cmcEvent d st a).objs = d.objs := by
  simp [cmcEvent]
@[simp] theorem cmcEvent_mem (st a : Nat) : (cmcEvent d st a).mem = d.mem := by
  simp [cmcEvent]
@[simp] theorem cmcEvent_coreFaults (st a : Nat) : (cmcEvent d st a).coreFaults = d.coreFaults := by
  simp [cmcEvent]
@[simp] theorem cmcEvent_claims (st a : Nat) : (cmcEvent d st a).claims = d.claims := by
  simp [cmcEvent]
@[simp] theorem cmcEvent_claimQ (st a : Nat) : (cmcEvent d st a).claimQ = d.claimQ := by
  simp [cmcEvent]
@[simp] theorem cmcEvent_codecs (st a : Nat) : (cmcEvent d st a).codecs = d.codecs := by
  simp [cmcEvent]
@[simp] theorem cmcEvent_handles (st a : Nat) : (cmcEvent d st a).handles = d.handles := by
  simp [cmcEvent]
@[simp] theorem cmcEvent_princ (st a : Nat) : (cmcEvent d st a).princ = d.princ := by
  simp [cmcEvent]
@[simp] theorem cmcEvent_gateShut (st a : Nat) : (cmcEvent d st a).gateShut = d.gateShut := by
  simp [cmcEvent]
@[simp] theorem cmcEvent_ports (st a : Nat) : (cmcEvent d st a).ports = d.ports := by
  simp [cmcEvent]
@[simp] theorem cmcEvent_links (st a : Nat) : (cmcEvent d st a).links = d.links := by
  simp [cmcEvent]
@[simp] theorem cmcEvent_heldPkts (st a : Nat) : (cmcEvent d st a).heldPkts = d.heldPkts := by
  simp [cmcEvent]
@[simp] theorem cmcEvent_inbox (st a : Nat) : (cmcEvent d st a).inbox = d.inbox := by
  simp [cmcEvent]
@[simp] theorem cmcEvent_mesh (st a : Nat) : (cmcEvent d st a).mesh = d.mesh := by
  simp [cmcEvent]
@[simp] theorem cmcEvent_igReads (st a : Nat) : (cmcEvent d st a).igReads = d.igReads := by
  simp [cmcEvent]
@[simp] theorem cmcEvent_groups (st a : Nat) : (cmcEvent d st a).groups = d.groups := by
  simp [cmcEvent]
@[simp] theorem cmcEvent_errLog (st a : Nat) : (cmcEvent d st a).errLog = d.errLog := by
  simp [cmcEvent]
@[simp] theorem cmcEvent_resets (st a : Nat) : (cmcEvent d st a).resets = d.resets := by
  simp [cmcEvent]
@[simp] theorem cmcEvent_vault (st a : Nat) : (cmcEvent d st a).vault = d.vault := by
  simp [cmcEvent]
@[simp] theorem cmcEvent_proof (st a : Nat) : (cmcEvent d st a).proof = d.proof := by
  simp [cmcEvent]
@[simp] theorem cmcEvent_holders (st a : Nat) : (cmcEvent d st a).holders = d.holders := by
  simp [cmcEvent]
@[simp] theorem cmcEvent_lh (st a : Nat) : (cmcEvent d st a).lh = d.lh := by
  simp [cmcEvent]
@[simp] theorem cmcEvent_igPeers (st a : Nat) : (cmcEvent d st a).igPeers = d.igPeers := by
  simp [cmcEvent]
@[simp] theorem cmcEvent_igForm (st a : Nat) : (cmcEvent d st a).igForm = d.igForm := by
  simp [cmcEvent]
@[simp] theorem cmcEvent_power (st a : Nat) : (cmcEvent d st a).power = d.power := by
  simp [cmcEvent]
@[simp] theorem cmcEvent_reg (st a : Nat) : (cmcEvent d st a).reg = d.reg := by
  simp [cmcEvent]
@[simp] theorem cmcEvent_rst (st a : Nat) : (cmcEvent d st a).rst = d.rst := by
  simp [cmcEvent]
@[simp] theorem cmcEvent_recov (st a : Nat) : (cmcEvent d st a).recov = d.recov := by
  simp [cmcEvent]

/-! ## writeEvent: it acts on out, host, arbs, ctxs alone -/
@[simp] theorem writeEvent_time (f : Fuses) (c h st k t a l : Nat) : ((writeEvent f d c h st k t a l).1).time = d.time := by
  simp [writeEvent]
@[simp] theorem writeEvent_frac (f : Fuses) (c h st k t a l : Nat) : ((writeEvent f d c h st k t a l).1).frac = d.frac := by
  simp [writeEvent]
@[simp] theorem writeEvent_cyc (f : Fuses) (c h st k t a l : Nat) : ((writeEvent f d c h st k t a l).1).cyc = d.cyc := by
  simp [writeEvent]
@[simp] theorem writeEvent_freeCtr (f : Fuses) (c h st k t a l : Nat) : ((writeEvent f d c h st k t a l).1).freeCtr = d.freeCtr := by
  simp [writeEvent]
@[simp] theorem writeEvent_cores (f : Fuses) (c h st k t a l : Nat) : ((writeEvent f d c h st k t a l).1).cores = d.cores := by
  simp [writeEvent]
@[simp] theorem writeEvent_objs (f : Fuses) (c h st k t a l : Nat) : ((writeEvent f d c h st k t a l).1).objs = d.objs := by
  simp [writeEvent]
@[simp] theorem writeEvent_mem (f : Fuses) (c h st k t a l : Nat) : ((writeEvent f d c h st k t a l).1).mem = d.mem := by
  simp [writeEvent]
@[simp] theorem writeEvent_coreFaults (f : Fuses) (c h st k t a l : Nat) : ((writeEvent f d c h st k t a l).1).coreFaults = d.coreFaults := by
  simp [writeEvent]
@[simp] theorem writeEvent_claims (f : Fuses) (c h st k t a l : Nat) : ((writeEvent f d c h st k t a l).1).claims = d.claims := by
  simp [writeEvent]
@[simp] theorem writeEvent_claimQ (f : Fuses) (c h st k t a l : Nat) : ((writeEvent f d c h st k t a l).1).claimQ = d.claimQ := by
  simp [writeEvent]
@[simp] theorem writeEvent_codecs (f : Fuses) (c h st k t a l : Nat) : ((writeEvent f d c h st k t a l).1).codecs = d.codecs := by
  simp [writeEvent]
@[simp] theorem writeEvent_handles (f : Fuses) (c h st k t a l : Nat) : ((writeEvent f d c h st k t a l).1).handles = d.handles := by
  simp [writeEvent]
@[simp] theorem writeEvent_princ (f : Fuses) (c h st k t a l : Nat) : ((writeEvent f d c h st k t a l).1).princ = d.princ := by
  simp [writeEvent]
@[simp] theorem writeEvent_gateShut (f : Fuses) (c h st k t a l : Nat) : ((writeEvent f d c h st k t a l).1).gateShut = d.gateShut := by
  simp [writeEvent]
@[simp] theorem writeEvent_ports (f : Fuses) (c h st k t a l : Nat) : ((writeEvent f d c h st k t a l).1).ports = d.ports := by
  simp [writeEvent]
@[simp] theorem writeEvent_links (f : Fuses) (c h st k t a l : Nat) : ((writeEvent f d c h st k t a l).1).links = d.links := by
  simp [writeEvent]
@[simp] theorem writeEvent_heldPkts (f : Fuses) (c h st k t a l : Nat) : ((writeEvent f d c h st k t a l).1).heldPkts = d.heldPkts := by
  simp [writeEvent]
@[simp] theorem writeEvent_inbox (f : Fuses) (c h st k t a l : Nat) : ((writeEvent f d c h st k t a l).1).inbox = d.inbox := by
  simp [writeEvent]
@[simp] theorem writeEvent_mesh (f : Fuses) (c h st k t a l : Nat) : ((writeEvent f d c h st k t a l).1).mesh = d.mesh := by
  simp [writeEvent]
@[simp] theorem writeEvent_igReads (f : Fuses) (c h st k t a l : Nat) : ((writeEvent f d c h st k t a l).1).igReads = d.igReads := by
  simp [writeEvent]
@[simp] theorem writeEvent_groups (f : Fuses) (c h st k t a l : Nat) : ((writeEvent f d c h st k t a l).1).groups = d.groups := by
  simp [writeEvent]
@[simp] theorem writeEvent_errLog (f : Fuses) (c h st k t a l : Nat) : ((writeEvent f d c h st k t a l).1).errLog = d.errLog := by
  simp [writeEvent]
@[simp] theorem writeEvent_resets (f : Fuses) (c h st k t a l : Nat) : ((writeEvent f d c h st k t a l).1).resets = d.resets := by
  simp [writeEvent]
@[simp] theorem writeEvent_vault (f : Fuses) (c h st k t a l : Nat) : ((writeEvent f d c h st k t a l).1).vault = d.vault := by
  simp [writeEvent]
@[simp] theorem writeEvent_proof (f : Fuses) (c h st k t a l : Nat) : ((writeEvent f d c h st k t a l).1).proof = d.proof := by
  simp [writeEvent]
@[simp] theorem writeEvent_holders (f : Fuses) (c h st k t a l : Nat) : ((writeEvent f d c h st k t a l).1).holders = d.holders := by
  simp [writeEvent]
@[simp] theorem writeEvent_lh (f : Fuses) (c h st k t a l : Nat) : ((writeEvent f d c h st k t a l).1).lh = d.lh := by
  simp [writeEvent]
@[simp] theorem writeEvent_igPeers (f : Fuses) (c h st k t a l : Nat) : ((writeEvent f d c h st k t a l).1).igPeers = d.igPeers := by
  simp [writeEvent]
@[simp] theorem writeEvent_igForm (f : Fuses) (c h st k t a l : Nat) : ((writeEvent f d c h st k t a l).1).igForm = d.igForm := by
  simp [writeEvent]
@[simp] theorem writeEvent_power (f : Fuses) (c h st k t a l : Nat) : ((writeEvent f d c h st k t a l).1).power = d.power := by
  simp [writeEvent]
@[simp] theorem writeEvent_reg (f : Fuses) (c h st k t a l : Nat) : ((writeEvent f d c h st k t a l).1).reg = d.reg := by
  simp [writeEvent]
@[simp] theorem writeEvent_rst (f : Fuses) (c h st k t a l : Nat) : ((writeEvent f d c h st k t a l).1).rst = d.rst := by
  simp [writeEvent]
@[simp] theorem writeEvent_recov (f : Fuses) (c h st k t a l : Nat) : ((writeEvent f d c h st k t a l).1).recov = d.recov := by
  simp [writeEvent]

/-! ## writeMarker: it acts on out, host, arbs, ctxs alone -/
@[simp] theorem writeMarker_time (f : Fuses) (c : Nat) : (writeMarker f d c).time = d.time := by
  unfold writeMarker; dsimp only; split <;> simp
@[simp] theorem writeMarker_frac (f : Fuses) (c : Nat) : (writeMarker f d c).frac = d.frac := by
  unfold writeMarker; dsimp only; split <;> simp
@[simp] theorem writeMarker_cyc (f : Fuses) (c : Nat) : (writeMarker f d c).cyc = d.cyc := by
  unfold writeMarker; dsimp only; split <;> simp
@[simp] theorem writeMarker_freeCtr (f : Fuses) (c : Nat) : (writeMarker f d c).freeCtr = d.freeCtr := by
  unfold writeMarker; dsimp only; split <;> simp
@[simp] theorem writeMarker_cores (f : Fuses) (c : Nat) : (writeMarker f d c).cores = d.cores := by
  unfold writeMarker; dsimp only; split <;> simp
@[simp] theorem writeMarker_objs (f : Fuses) (c : Nat) : (writeMarker f d c).objs = d.objs := by
  unfold writeMarker; dsimp only; split <;> simp
@[simp] theorem writeMarker_mem (f : Fuses) (c : Nat) : (writeMarker f d c).mem = d.mem := by
  unfold writeMarker; dsimp only; split <;> simp
@[simp] theorem writeMarker_coreFaults (f : Fuses) (c : Nat) : (writeMarker f d c).coreFaults = d.coreFaults := by
  unfold writeMarker; dsimp only; split <;> simp
@[simp] theorem writeMarker_claims (f : Fuses) (c : Nat) : (writeMarker f d c).claims = d.claims := by
  unfold writeMarker; dsimp only; split <;> simp
@[simp] theorem writeMarker_claimQ (f : Fuses) (c : Nat) : (writeMarker f d c).claimQ = d.claimQ := by
  unfold writeMarker; dsimp only; split <;> simp
@[simp] theorem writeMarker_codecs (f : Fuses) (c : Nat) : (writeMarker f d c).codecs = d.codecs := by
  unfold writeMarker; dsimp only; split <;> simp
@[simp] theorem writeMarker_handles (f : Fuses) (c : Nat) : (writeMarker f d c).handles = d.handles := by
  unfold writeMarker; dsimp only; split <;> simp
@[simp] theorem writeMarker_princ (f : Fuses) (c : Nat) : (writeMarker f d c).princ = d.princ := by
  unfold writeMarker; dsimp only; split <;> simp
@[simp] theorem writeMarker_gateShut (f : Fuses) (c : Nat) : (writeMarker f d c).gateShut = d.gateShut := by
  unfold writeMarker; dsimp only; split <;> simp
@[simp] theorem writeMarker_ports (f : Fuses) (c : Nat) : (writeMarker f d c).ports = d.ports := by
  unfold writeMarker; dsimp only; split <;> simp
@[simp] theorem writeMarker_links (f : Fuses) (c : Nat) : (writeMarker f d c).links = d.links := by
  unfold writeMarker; dsimp only; split <;> simp
@[simp] theorem writeMarker_heldPkts (f : Fuses) (c : Nat) : (writeMarker f d c).heldPkts = d.heldPkts := by
  unfold writeMarker; dsimp only; split <;> simp
@[simp] theorem writeMarker_inbox (f : Fuses) (c : Nat) : (writeMarker f d c).inbox = d.inbox := by
  unfold writeMarker; dsimp only; split <;> simp
@[simp] theorem writeMarker_mesh (f : Fuses) (c : Nat) : (writeMarker f d c).mesh = d.mesh := by
  unfold writeMarker; dsimp only; split <;> simp
@[simp] theorem writeMarker_igReads (f : Fuses) (c : Nat) : (writeMarker f d c).igReads = d.igReads := by
  unfold writeMarker; dsimp only; split <;> simp
@[simp] theorem writeMarker_groups (f : Fuses) (c : Nat) : (writeMarker f d c).groups = d.groups := by
  unfold writeMarker; dsimp only; split <;> simp
@[simp] theorem writeMarker_errLog (f : Fuses) (c : Nat) : (writeMarker f d c).errLog = d.errLog := by
  unfold writeMarker; dsimp only; split <;> simp
@[simp] theorem writeMarker_resets (f : Fuses) (c : Nat) : (writeMarker f d c).resets = d.resets := by
  unfold writeMarker; dsimp only; split <;> simp
@[simp] theorem writeMarker_vault (f : Fuses) (c : Nat) : (writeMarker f d c).vault = d.vault := by
  unfold writeMarker; dsimp only; split <;> simp
@[simp] theorem writeMarker_proof (f : Fuses) (c : Nat) : (writeMarker f d c).proof = d.proof := by
  unfold writeMarker; dsimp only; split <;> simp
@[simp] theorem writeMarker_holders (f : Fuses) (c : Nat) : (writeMarker f d c).holders = d.holders := by
  unfold writeMarker; dsimp only; split <;> simp
@[simp] theorem writeMarker_lh (f : Fuses) (c : Nat) : (writeMarker f d c).lh = d.lh := by
  unfold writeMarker; dsimp only; split <;> simp
@[simp] theorem writeMarker_igPeers (f : Fuses) (c : Nat) : (writeMarker f d c).igPeers = d.igPeers := by
  unfold writeMarker; dsimp only; split <;> simp
@[simp] theorem writeMarker_igForm (f : Fuses) (c : Nat) : (writeMarker f d c).igForm = d.igForm := by
  unfold writeMarker; dsimp only; split <;> simp
@[simp] theorem writeMarker_power (f : Fuses) (c : Nat) : (writeMarker f d c).power = d.power := by
  unfold writeMarker; dsimp only; split <;> simp
@[simp] theorem writeMarker_reg (f : Fuses) (c : Nat) : (writeMarker f d c).reg = d.reg := by
  unfold writeMarker; dsimp only; split <;> simp
@[simp] theorem writeMarker_rst (f : Fuses) (c : Nat) : (writeMarker f d c).rst = d.rst := by
  unfold writeMarker; dsimp only; split <;> simp
@[simp] theorem writeMarker_recov (f : Fuses) (c : Nat) : (writeMarker f d c).recov = d.recov := by
  unfold writeMarker; dsimp only; split <;> simp

/-! ## announce: it acts on out, host, arbs, ctxs alone -/
@[simp] theorem announce_time (f : Fuses) (c : Nat) : (announce f d c).time = d.time := by
  unfold announce; dsimp only; (repeat' split) <;> simp
@[simp] theorem announce_frac (f : Fuses) (c : Nat) : (announce f d c).frac = d.frac := by
  unfold announce; dsimp only; (repeat' split) <;> simp
@[simp] theorem announce_cyc (f : Fuses) (c : Nat) : (announce f d c).cyc = d.cyc := by
  unfold announce; dsimp only; (repeat' split) <;> simp
@[simp] theorem announce_freeCtr (f : Fuses) (c : Nat) : (announce f d c).freeCtr = d.freeCtr := by
  unfold announce; dsimp only; (repeat' split) <;> simp
@[simp] theorem announce_cores (f : Fuses) (c : Nat) : (announce f d c).cores = d.cores := by
  unfold announce; dsimp only; (repeat' split) <;> simp
@[simp] theorem announce_objs (f : Fuses) (c : Nat) : (announce f d c).objs = d.objs := by
  unfold announce; dsimp only; (repeat' split) <;> simp
@[simp] theorem announce_mem (f : Fuses) (c : Nat) : (announce f d c).mem = d.mem := by
  unfold announce; dsimp only; (repeat' split) <;> simp
@[simp] theorem announce_coreFaults (f : Fuses) (c : Nat) : (announce f d c).coreFaults = d.coreFaults := by
  unfold announce; dsimp only; (repeat' split) <;> simp
@[simp] theorem announce_claims (f : Fuses) (c : Nat) : (announce f d c).claims = d.claims := by
  unfold announce; dsimp only; (repeat' split) <;> simp
@[simp] theorem announce_claimQ (f : Fuses) (c : Nat) : (announce f d c).claimQ = d.claimQ := by
  unfold announce; dsimp only; (repeat' split) <;> simp
@[simp] theorem announce_codecs (f : Fuses) (c : Nat) : (announce f d c).codecs = d.codecs := by
  unfold announce; dsimp only; (repeat' split) <;> simp
@[simp] theorem announce_handles (f : Fuses) (c : Nat) : (announce f d c).handles = d.handles := by
  unfold announce; dsimp only; (repeat' split) <;> simp
@[simp] theorem announce_princ (f : Fuses) (c : Nat) : (announce f d c).princ = d.princ := by
  unfold announce; dsimp only; (repeat' split) <;> simp
@[simp] theorem announce_gateShut (f : Fuses) (c : Nat) : (announce f d c).gateShut = d.gateShut := by
  unfold announce; dsimp only; (repeat' split) <;> simp
@[simp] theorem announce_ports (f : Fuses) (c : Nat) : (announce f d c).ports = d.ports := by
  unfold announce; dsimp only; (repeat' split) <;> simp
@[simp] theorem announce_links (f : Fuses) (c : Nat) : (announce f d c).links = d.links := by
  unfold announce; dsimp only; (repeat' split) <;> simp
@[simp] theorem announce_heldPkts (f : Fuses) (c : Nat) : (announce f d c).heldPkts = d.heldPkts := by
  unfold announce; dsimp only; (repeat' split) <;> simp
@[simp] theorem announce_inbox (f : Fuses) (c : Nat) : (announce f d c).inbox = d.inbox := by
  unfold announce; dsimp only; (repeat' split) <;> simp
@[simp] theorem announce_mesh (f : Fuses) (c : Nat) : (announce f d c).mesh = d.mesh := by
  unfold announce; dsimp only; (repeat' split) <;> simp
@[simp] theorem announce_igReads (f : Fuses) (c : Nat) : (announce f d c).igReads = d.igReads := by
  unfold announce; dsimp only; (repeat' split) <;> simp
@[simp] theorem announce_groups (f : Fuses) (c : Nat) : (announce f d c).groups = d.groups := by
  unfold announce; dsimp only; (repeat' split) <;> simp
@[simp] theorem announce_errLog (f : Fuses) (c : Nat) : (announce f d c).errLog = d.errLog := by
  unfold announce; dsimp only; (repeat' split) <;> simp
@[simp] theorem announce_resets (f : Fuses) (c : Nat) : (announce f d c).resets = d.resets := by
  unfold announce; dsimp only; (repeat' split) <;> simp
@[simp] theorem announce_vault (f : Fuses) (c : Nat) : (announce f d c).vault = d.vault := by
  unfold announce; dsimp only; (repeat' split) <;> simp
@[simp] theorem announce_proof (f : Fuses) (c : Nat) : (announce f d c).proof = d.proof := by
  unfold announce; dsimp only; (repeat' split) <;> simp
@[simp] theorem announce_holders (f : Fuses) (c : Nat) : (announce f d c).holders = d.holders := by
  unfold announce; dsimp only; (repeat' split) <;> simp
@[simp] theorem announce_lh (f : Fuses) (c : Nat) : (announce f d c).lh = d.lh := by
  unfold announce; dsimp only; (repeat' split) <;> simp
@[simp] theorem announce_igPeers (f : Fuses) (c : Nat) : (announce f d c).igPeers = d.igPeers := by
  unfold announce; dsimp only; (repeat' split) <;> simp
@[simp] theorem announce_igForm (f : Fuses) (c : Nat) : (announce f d c).igForm = d.igForm := by
  unfold announce; dsimp only; (repeat' split) <;> simp
@[simp] theorem announce_power (f : Fuses) (c : Nat) : (announce f d c).power = d.power := by
  unfold announce; dsimp only; (repeat' split) <;> simp
@[simp] theorem announce_reg (f : Fuses) (c : Nat) : (announce f d c).reg = d.reg := by
  unfold announce; dsimp only; (repeat' split) <;> simp
@[simp] theorem announce_rst (f : Fuses) (c : Nat) : (announce f d c).rst = d.rst := by
  unfold announce; dsimp only; (repeat' split) <;> simp
@[simp] theorem announce_recov (f : Fuses) (c : Nat) : (announce f d c).recov = d.recov := by
  unfold announce; dsimp only; (repeat' split) <;> simp

/-! ## postEvent: it acts on out, host, arbs, ctxs, objs alone -/
@[simp] theorem postEvent_time (f : Fuses) (c h st k t a : Nat) : ((postEvent f d c h st k t a).1).time = d.time := by
  unfold postEvent; dsimp only; (repeat' split) <;> simp
@[simp] theorem postEvent_frac (f : Fuses) (c h st k t a : Nat) : ((postEvent f d c h st k t a).1).frac = d.frac := by
  unfold postEvent; dsimp only; (repeat' split) <;> simp
@[simp] theorem postEvent_cyc (f : Fuses) (c h st k t a : Nat) : ((postEvent f d c h st k t a).1).cyc = d.cyc := by
  unfold postEvent; dsimp only; (repeat' split) <;> simp
@[simp] theorem postEvent_freeCtr (f : Fuses) (c h st k t a : Nat) : ((postEvent f d c h st k t a).1).freeCtr = d.freeCtr := by
  unfold postEvent; dsimp only; (repeat' split) <;> simp
@[simp] theorem postEvent_cores (f : Fuses) (c h st k t a : Nat) : ((postEvent f d c h st k t a).1).cores = d.cores := by
  unfold postEvent; dsimp only; (repeat' split) <;> simp
@[simp] theorem postEvent_mem (f : Fuses) (c h st k t a : Nat) : ((postEvent f d c h st k t a).1).mem = d.mem := by
  unfold postEvent; dsimp only; (repeat' split) <;> simp
@[simp] theorem postEvent_coreFaults (f : Fuses) (c h st k t a : Nat) : ((postEvent f d c h st k t a).1).coreFaults = d.coreFaults := by
  unfold postEvent; dsimp only; (repeat' split) <;> simp
@[simp] theorem postEvent_claims (f : Fuses) (c h st k t a : Nat) : ((postEvent f d c h st k t a).1).claims = d.claims := by
  unfold postEvent; dsimp only; (repeat' split) <;> simp
@[simp] theorem postEvent_claimQ (f : Fuses) (c h st k t a : Nat) : ((postEvent f d c h st k t a).1).claimQ = d.claimQ := by
  unfold postEvent; dsimp only; (repeat' split) <;> simp
@[simp] theorem postEvent_codecs (f : Fuses) (c h st k t a : Nat) : ((postEvent f d c h st k t a).1).codecs = d.codecs := by
  unfold postEvent; dsimp only; (repeat' split) <;> simp
@[simp] theorem postEvent_handles (f : Fuses) (c h st k t a : Nat) : ((postEvent f d c h st k t a).1).handles = d.handles := by
  unfold postEvent; dsimp only; (repeat' split) <;> simp
@[simp] theorem postEvent_princ (f : Fuses) (c h st k t a : Nat) : ((postEvent f d c h st k t a).1).princ = d.princ := by
  unfold postEvent; dsimp only; (repeat' split) <;> simp
@[simp] theorem postEvent_gateShut (f : Fuses) (c h st k t a : Nat) : ((postEvent f d c h st k t a).1).gateShut = d.gateShut := by
  unfold postEvent; dsimp only; (repeat' split) <;> simp
@[simp] theorem postEvent_ports (f : Fuses) (c h st k t a : Nat) : ((postEvent f d c h st k t a).1).ports = d.ports := by
  unfold postEvent; dsimp only; (repeat' split) <;> simp
@[simp] theorem postEvent_links (f : Fuses) (c h st k t a : Nat) : ((postEvent f d c h st k t a).1).links = d.links := by
  unfold postEvent; dsimp only; (repeat' split) <;> simp
@[simp] theorem postEvent_heldPkts (f : Fuses) (c h st k t a : Nat) : ((postEvent f d c h st k t a).1).heldPkts = d.heldPkts := by
  unfold postEvent; dsimp only; (repeat' split) <;> simp
@[simp] theorem postEvent_inbox (f : Fuses) (c h st k t a : Nat) : ((postEvent f d c h st k t a).1).inbox = d.inbox := by
  unfold postEvent; dsimp only; (repeat' split) <;> simp
@[simp] theorem postEvent_mesh (f : Fuses) (c h st k t a : Nat) : ((postEvent f d c h st k t a).1).mesh = d.mesh := by
  unfold postEvent; dsimp only; (repeat' split) <;> simp
@[simp] theorem postEvent_igReads (f : Fuses) (c h st k t a : Nat) : ((postEvent f d c h st k t a).1).igReads = d.igReads := by
  unfold postEvent; dsimp only; (repeat' split) <;> simp
@[simp] theorem postEvent_groups (f : Fuses) (c h st k t a : Nat) : ((postEvent f d c h st k t a).1).groups = d.groups := by
  unfold postEvent; dsimp only; (repeat' split) <;> simp
@[simp] theorem postEvent_errLog (f : Fuses) (c h st k t a : Nat) : ((postEvent f d c h st k t a).1).errLog = d.errLog := by
  unfold postEvent; dsimp only; (repeat' split) <;> simp
@[simp] theorem postEvent_resets (f : Fuses) (c h st k t a : Nat) : ((postEvent f d c h st k t a).1).resets = d.resets := by
  unfold postEvent; dsimp only; (repeat' split) <;> simp
@[simp] theorem postEvent_vault (f : Fuses) (c h st k t a : Nat) : ((postEvent f d c h st k t a).1).vault = d.vault := by
  unfold postEvent; dsimp only; (repeat' split) <;> simp
@[simp] theorem postEvent_proof (f : Fuses) (c h st k t a : Nat) : ((postEvent f d c h st k t a).1).proof = d.proof := by
  unfold postEvent; dsimp only; (repeat' split) <;> simp
@[simp] theorem postEvent_holders (f : Fuses) (c h st k t a : Nat) : ((postEvent f d c h st k t a).1).holders = d.holders := by
  unfold postEvent; dsimp only; (repeat' split) <;> simp
@[simp] theorem postEvent_lh (f : Fuses) (c h st k t a : Nat) : ((postEvent f d c h st k t a).1).lh = d.lh := by
  unfold postEvent; dsimp only; (repeat' split) <;> simp
@[simp] theorem postEvent_igPeers (f : Fuses) (c h st k t a : Nat) : ((postEvent f d c h st k t a).1).igPeers = d.igPeers := by
  unfold postEvent; dsimp only; (repeat' split) <;> simp
@[simp] theorem postEvent_igForm (f : Fuses) (c h st k t a : Nat) : ((postEvent f d c h st k t a).1).igForm = d.igForm := by
  unfold postEvent; dsimp only; (repeat' split) <;> simp
@[simp] theorem postEvent_power (f : Fuses) (c h st k t a : Nat) : ((postEvent f d c h st k t a).1).power = d.power := by
  unfold postEvent; dsimp only; (repeat' split) <;> simp
@[simp] theorem postEvent_reg (f : Fuses) (c h st k t a : Nat) : ((postEvent f d c h st k t a).1).reg = d.reg := by
  unfold postEvent; dsimp only; (repeat' split) <;> simp
@[simp] theorem postEvent_rst (f : Fuses) (c h st k t a : Nat) : ((postEvent f d c h st k t a).1).rst = d.rst := by
  unfold postEvent; dsimp only; (repeat' split) <;> simp
@[simp] theorem postEvent_recov (f : Fuses) (c h st k t a : Nat) : ((postEvent f d c h st k t a).1).recov = d.recov := by
  unfold postEvent; dsimp only; (repeat' split) <;> simp

/-! ## ctxEvent: it acts on out, host, arbs, ctxs, objs alone -/
@[simp] theorem ctxEvent_time (f : Fuses) (c st a : Nat) : (ctxEvent f d c st a).time = d.time := by
  simp [ctxEvent]
@[simp] theorem ctxEvent_frac (f : Fuses) (c st a : Nat) : (ctxEvent f d c st a).frac = d.frac := by
  simp [ctxEvent]
@[simp] theorem ctxEvent_cyc (f : Fuses) (c st a : Nat) : (ctxEvent f d c st a).cyc = d.cyc := by
  simp [ctxEvent]
@[simp] theorem ctxEvent_freeCtr (f : Fuses) (c st a : Nat) : (ctxEvent f d c st a).freeCtr = d.freeCtr := by
  simp [ctxEvent]
@[simp] theorem ctxEvent_cores (f : Fuses) (c st a : Nat) : (ctxEvent f d c st a).cores = d.cores := by
  simp [ctxEvent]
@[simp] theorem ctxEvent_mem (f : Fuses) (c st a : Nat) : (ctxEvent f d c st a).mem = d.mem := by
  simp [ctxEvent]
@[simp] theorem ctxEvent_coreFaults (f : Fuses) (c st a : Nat) : (ctxEvent f d c st a).coreFaults = d.coreFaults := by
  simp [ctxEvent]
@[simp] theorem ctxEvent_claims (f : Fuses) (c st a : Nat) : (ctxEvent f d c st a).claims = d.claims := by
  simp [ctxEvent]
@[simp] theorem ctxEvent_claimQ (f : Fuses) (c st a : Nat) : (ctxEvent f d c st a).claimQ = d.claimQ := by
  simp [ctxEvent]
@[simp] theorem ctxEvent_codecs (f : Fuses) (c st a : Nat) : (ctxEvent f d c st a).codecs = d.codecs := by
  simp [ctxEvent]
@[simp] theorem ctxEvent_handles (f : Fuses) (c st a : Nat) : (ctxEvent f d c st a).handles = d.handles := by
  simp [ctxEvent]
@[simp] theorem ctxEvent_princ (f : Fuses) (c st a : Nat) : (ctxEvent f d c st a).princ = d.princ := by
  simp [ctxEvent]
@[simp] theorem ctxEvent_gateShut (f : Fuses) (c st a : Nat) : (ctxEvent f d c st a).gateShut = d.gateShut := by
  simp [ctxEvent]
@[simp] theorem ctxEvent_ports (f : Fuses) (c st a : Nat) : (ctxEvent f d c st a).ports = d.ports := by
  simp [ctxEvent]
@[simp] theorem ctxEvent_links (f : Fuses) (c st a : Nat) : (ctxEvent f d c st a).links = d.links := by
  simp [ctxEvent]
@[simp] theorem ctxEvent_heldPkts (f : Fuses) (c st a : Nat) : (ctxEvent f d c st a).heldPkts = d.heldPkts := by
  simp [ctxEvent]
@[simp] theorem ctxEvent_inbox (f : Fuses) (c st a : Nat) : (ctxEvent f d c st a).inbox = d.inbox := by
  simp [ctxEvent]
@[simp] theorem ctxEvent_mesh (f : Fuses) (c st a : Nat) : (ctxEvent f d c st a).mesh = d.mesh := by
  simp [ctxEvent]
@[simp] theorem ctxEvent_igReads (f : Fuses) (c st a : Nat) : (ctxEvent f d c st a).igReads = d.igReads := by
  simp [ctxEvent]
@[simp] theorem ctxEvent_groups (f : Fuses) (c st a : Nat) : (ctxEvent f d c st a).groups = d.groups := by
  simp [ctxEvent]
@[simp] theorem ctxEvent_errLog (f : Fuses) (c st a : Nat) : (ctxEvent f d c st a).errLog = d.errLog := by
  simp [ctxEvent]
@[simp] theorem ctxEvent_resets (f : Fuses) (c st a : Nat) : (ctxEvent f d c st a).resets = d.resets := by
  simp [ctxEvent]
@[simp] theorem ctxEvent_vault (f : Fuses) (c st a : Nat) : (ctxEvent f d c st a).vault = d.vault := by
  simp [ctxEvent]
@[simp] theorem ctxEvent_proof (f : Fuses) (c st a : Nat) : (ctxEvent f d c st a).proof = d.proof := by
  simp [ctxEvent]
@[simp] theorem ctxEvent_holders (f : Fuses) (c st a : Nat) : (ctxEvent f d c st a).holders = d.holders := by
  simp [ctxEvent]
@[simp] theorem ctxEvent_lh (f : Fuses) (c st a : Nat) : (ctxEvent f d c st a).lh = d.lh := by
  simp [ctxEvent]
@[simp] theorem ctxEvent_igPeers (f : Fuses) (c st a : Nat) : (ctxEvent f d c st a).igPeers = d.igPeers := by
  simp [ctxEvent]
@[simp] theorem ctxEvent_igForm (f : Fuses) (c st a : Nat) : (ctxEvent f d c st a).igForm = d.igForm := by
  simp [ctxEvent]
@[simp] theorem ctxEvent_power (f : Fuses) (c st a : Nat) : (ctxEvent f d c st a).power = d.power := by
  simp [ctxEvent]
@[simp] theorem ctxEvent_reg (f : Fuses) (c st a : Nat) : (ctxEvent f d c st a).reg = d.reg := by
  simp [ctxEvent]
@[simp] theorem ctxEvent_rst (f : Fuses) (c st a : Nat) : (ctxEvent f d c st a).rst = d.rst := by
  simp [ctxEvent]
@[simp] theorem ctxEvent_recov (f : Fuses) (c st a : Nat) : (ctxEvent f d c st a).recov = d.recov := by
  simp [ctxEvent]

/-! ## event0: it acts on out, host, arbs, ctxs, objs alone -/
@[simp] theorem event0_time (f : Fuses) (st a : Nat) : (event0 f d st a).time = d.time := by
  simp [event0]
@[simp] theorem event0_frac (f : Fuses) (st a : Nat) : (event0 f d st a).frac = d.frac := by
  simp [event0]
@[simp] theorem event0_cyc (f : Fuses) (st a : Nat) : (event0 f d st a).cyc = d.cyc := by
  simp [event0]
@[simp] theorem event0_freeCtr (f : Fuses) (st a : Nat) : (event0 f d st a).freeCtr = d.freeCtr := by
  simp [event0]
@[simp] theorem event0_cores (f : Fuses) (st a : Nat) : (event0 f d st a).cores = d.cores := by
  simp [event0]
@[simp] theorem event0_mem (f : Fuses) (st a : Nat) : (event0 f d st a).mem = d.mem := by
  simp [event0]
@[simp] theorem event0_coreFaults (f : Fuses) (st a : Nat) : (event0 f d st a).coreFaults = d.coreFaults := by
  simp [event0]
@[simp] theorem event0_claims (f : Fuses) (st a : Nat) : (event0 f d st a).claims = d.claims := by
  simp [event0]
@[simp] theorem event0_claimQ (f : Fuses) (st a : Nat) : (event0 f d st a).claimQ = d.claimQ := by
  simp [event0]
@[simp] theorem event0_codecs (f : Fuses) (st a : Nat) : (event0 f d st a).codecs = d.codecs := by
  simp [event0]
@[simp] theorem event0_handles (f : Fuses) (st a : Nat) : (event0 f d st a).handles = d.handles := by
  simp [event0]
@[simp] theorem event0_princ (f : Fuses) (st a : Nat) : (event0 f d st a).princ = d.princ := by
  simp [event0]
@[simp] theorem event0_gateShut (f : Fuses) (st a : Nat) : (event0 f d st a).gateShut = d.gateShut := by
  simp [event0]
@[simp] theorem event0_ports (f : Fuses) (st a : Nat) : (event0 f d st a).ports = d.ports := by
  simp [event0]
@[simp] theorem event0_links (f : Fuses) (st a : Nat) : (event0 f d st a).links = d.links := by
  simp [event0]
@[simp] theorem event0_heldPkts (f : Fuses) (st a : Nat) : (event0 f d st a).heldPkts = d.heldPkts := by
  simp [event0]
@[simp] theorem event0_inbox (f : Fuses) (st a : Nat) : (event0 f d st a).inbox = d.inbox := by
  simp [event0]
@[simp] theorem event0_mesh (f : Fuses) (st a : Nat) : (event0 f d st a).mesh = d.mesh := by
  simp [event0]
@[simp] theorem event0_igReads (f : Fuses) (st a : Nat) : (event0 f d st a).igReads = d.igReads := by
  simp [event0]
@[simp] theorem event0_groups (f : Fuses) (st a : Nat) : (event0 f d st a).groups = d.groups := by
  simp [event0]
@[simp] theorem event0_errLog (f : Fuses) (st a : Nat) : (event0 f d st a).errLog = d.errLog := by
  simp [event0]
@[simp] theorem event0_resets (f : Fuses) (st a : Nat) : (event0 f d st a).resets = d.resets := by
  simp [event0]
@[simp] theorem event0_vault (f : Fuses) (st a : Nat) : (event0 f d st a).vault = d.vault := by
  simp [event0]
@[simp] theorem event0_proof (f : Fuses) (st a : Nat) : (event0 f d st a).proof = d.proof := by
  simp [event0]
@[simp] theorem event0_holders (f : Fuses) (st a : Nat) : (event0 f d st a).holders = d.holders := by
  simp [event0]
@[simp] theorem event0_lh (f : Fuses) (st a : Nat) : (event0 f d st a).lh = d.lh := by
  simp [event0]
@[simp] theorem event0_igPeers (f : Fuses) (st a : Nat) : (event0 f d st a).igPeers = d.igPeers := by
  simp [event0]
@[simp] theorem event0_igForm (f : Fuses) (st a : Nat) : (event0 f d st a).igForm = d.igForm := by
  simp [event0]
@[simp] theorem event0_power (f : Fuses) (st a : Nat) : (event0 f d st a).power = d.power := by
  simp [event0]
@[simp] theorem event0_reg (f : Fuses) (st a : Nat) : (event0 f d st a).reg = d.reg := by
  simp [event0]
@[simp] theorem event0_rst (f : Fuses) (st a : Nat) : (event0 f d st a).rst = d.rst := by
  simp [event0]
@[simp] theorem event0_recov (f : Fuses) (st a : Nat) : (event0 f d st a).recov = d.recov := by
  simp [event0]

/-! ## completeHandle: it acts on out, host, arbs, ctxs, objs, handles alone -/
@[simp] theorem completeHandle_time (f : Fuses) (h st r : Nat) : (completeHandle f d h st r).time = d.time := by
  unfold completeHandle; dsimp only; (repeat' split) <;> simp
@[simp] theorem completeHandle_frac (f : Fuses) (h st r : Nat) : (completeHandle f d h st r).frac = d.frac := by
  unfold completeHandle; dsimp only; (repeat' split) <;> simp
@[simp] theorem completeHandle_cyc (f : Fuses) (h st r : Nat) : (completeHandle f d h st r).cyc = d.cyc := by
  unfold completeHandle; dsimp only; (repeat' split) <;> simp
@[simp] theorem completeHandle_freeCtr (f : Fuses) (h st r : Nat) : (completeHandle f d h st r).freeCtr = d.freeCtr := by
  unfold completeHandle; dsimp only; (repeat' split) <;> simp
@[simp] theorem completeHandle_cores (f : Fuses) (h st r : Nat) : (completeHandle f d h st r).cores = d.cores := by
  unfold completeHandle; dsimp only; (repeat' split) <;> simp
@[simp] theorem completeHandle_mem (f : Fuses) (h st r : Nat) : (completeHandle f d h st r).mem = d.mem := by
  unfold completeHandle; dsimp only; (repeat' split) <;> simp
@[simp] theorem completeHandle_coreFaults (f : Fuses) (h st r : Nat) : (completeHandle f d h st r).coreFaults = d.coreFaults := by
  unfold completeHandle; dsimp only; (repeat' split) <;> simp
@[simp] theorem completeHandle_claims (f : Fuses) (h st r : Nat) : (completeHandle f d h st r).claims = d.claims := by
  unfold completeHandle; dsimp only; (repeat' split) <;> simp
@[simp] theorem completeHandle_claimQ (f : Fuses) (h st r : Nat) : (completeHandle f d h st r).claimQ = d.claimQ := by
  unfold completeHandle; dsimp only; (repeat' split) <;> simp
@[simp] theorem completeHandle_codecs (f : Fuses) (h st r : Nat) : (completeHandle f d h st r).codecs = d.codecs := by
  unfold completeHandle; dsimp only; (repeat' split) <;> simp
@[simp] theorem completeHandle_princ (f : Fuses) (h st r : Nat) : (completeHandle f d h st r).princ = d.princ := by
  unfold completeHandle; dsimp only; (repeat' split) <;> simp
@[simp] theorem completeHandle_gateShut (f : Fuses) (h st r : Nat) : (completeHandle f d h st r).gateShut = d.gateShut := by
  unfold completeHandle; dsimp only; (repeat' split) <;> simp
@[simp] theorem completeHandle_ports (f : Fuses) (h st r : Nat) : (completeHandle f d h st r).ports = d.ports := by
  unfold completeHandle; dsimp only; (repeat' split) <;> simp
@[simp] theorem completeHandle_links (f : Fuses) (h st r : Nat) : (completeHandle f d h st r).links = d.links := by
  unfold completeHandle; dsimp only; (repeat' split) <;> simp
@[simp] theorem completeHandle_heldPkts (f : Fuses) (h st r : Nat) : (completeHandle f d h st r).heldPkts = d.heldPkts := by
  unfold completeHandle; dsimp only; (repeat' split) <;> simp
@[simp] theorem completeHandle_inbox (f : Fuses) (h st r : Nat) : (completeHandle f d h st r).inbox = d.inbox := by
  unfold completeHandle; dsimp only; (repeat' split) <;> simp
@[simp] theorem completeHandle_mesh (f : Fuses) (h st r : Nat) : (completeHandle f d h st r).mesh = d.mesh := by
  unfold completeHandle; dsimp only; (repeat' split) <;> simp
@[simp] theorem completeHandle_igReads (f : Fuses) (h st r : Nat) : (completeHandle f d h st r).igReads = d.igReads := by
  unfold completeHandle; dsimp only; (repeat' split) <;> simp
@[simp] theorem completeHandle_groups (f : Fuses) (h st r : Nat) : (completeHandle f d h st r).groups = d.groups := by
  unfold completeHandle; dsimp only; (repeat' split) <;> simp
@[simp] theorem completeHandle_errLog (f : Fuses) (h st r : Nat) : (completeHandle f d h st r).errLog = d.errLog := by
  unfold completeHandle; dsimp only; (repeat' split) <;> simp
@[simp] theorem completeHandle_resets (f : Fuses) (h st r : Nat) : (completeHandle f d h st r).resets = d.resets := by
  unfold completeHandle; dsimp only; (repeat' split) <;> simp
@[simp] theorem completeHandle_vault (f : Fuses) (h st r : Nat) : (completeHandle f d h st r).vault = d.vault := by
  unfold completeHandle; dsimp only; (repeat' split) <;> simp
@[simp] theorem completeHandle_proof (f : Fuses) (h st r : Nat) : (completeHandle f d h st r).proof = d.proof := by
  unfold completeHandle; dsimp only; (repeat' split) <;> simp
@[simp] theorem completeHandle_holders (f : Fuses) (h st r : Nat) : (completeHandle f d h st r).holders = d.holders := by
  unfold completeHandle; dsimp only; (repeat' split) <;> simp
@[simp] theorem completeHandle_lh (f : Fuses) (h st r : Nat) : (completeHandle f d h st r).lh = d.lh := by
  unfold completeHandle; dsimp only; (repeat' split) <;> simp
@[simp] theorem completeHandle_igPeers (f : Fuses) (h st r : Nat) : (completeHandle f d h st r).igPeers = d.igPeers := by
  unfold completeHandle; dsimp only; (repeat' split) <;> simp
@[simp] theorem completeHandle_igForm (f : Fuses) (h st r : Nat) : (completeHandle f d h st r).igForm = d.igForm := by
  unfold completeHandle; dsimp only; (repeat' split) <;> simp
@[simp] theorem completeHandle_power (f : Fuses) (h st r : Nat) : (completeHandle f d h st r).power = d.power := by
  unfold completeHandle; dsimp only; (repeat' split) <;> simp
@[simp] theorem completeHandle_reg (f : Fuses) (h st r : Nat) : (completeHandle f d h st r).reg = d.reg := by
  unfold completeHandle; dsimp only; (repeat' split) <;> simp
@[simp] theorem completeHandle_rst (f : Fuses) (h st r : Nat) : (completeHandle f d h st r).rst = d.rst := by
  unfold completeHandle; dsimp only; (repeat' split) <;> simp
@[simp] theorem completeHandle_recov (f : Fuses) (h st r : Nat) : (completeHandle f d h st r).recov = d.recov := by
  unfold completeHandle; dsimp only; (repeat' split) <;> simp

/-! ## completeOpt: it acts on out, host, arbs, ctxs, objs, handles alone -/
@[simp] theorem completeOpt_time (f : Fuses) (h : Option Nat) (st r : Nat) : (completeOpt f d h st r).time = d.time := by
  unfold completeOpt; split <;> simp
@[simp] theorem completeOpt_frac (f : Fuses) (h : Option Nat) (st r : Nat) : (completeOpt f d h st r).frac = d.frac := by
  unfold completeOpt; split <;> simp
@[simp] theorem completeOpt_cyc (f : Fuses) (h : Option Nat) (st r : Nat) : (completeOpt f d h st r).cyc = d.cyc := by
  unfold completeOpt; split <;> simp
@[simp] theorem completeOpt_freeCtr (f : Fuses) (h : Option Nat) (st r : Nat) : (completeOpt f d h st r).freeCtr = d.freeCtr := by
  unfold completeOpt; split <;> simp
@[simp] theorem completeOpt_cores (f : Fuses) (h : Option Nat) (st r : Nat) : (completeOpt f d h st r).cores = d.cores := by
  unfold completeOpt; split <;> simp
@[simp] theorem completeOpt_mem (f : Fuses) (h : Option Nat) (st r : Nat) : (completeOpt f d h st r).mem = d.mem := by
  unfold completeOpt; split <;> simp
@[simp] theorem completeOpt_coreFaults (f : Fuses) (h : Option Nat) (st r : Nat) : (completeOpt f d h st r).coreFaults = d.coreFaults := by
  unfold completeOpt; split <;> simp
@[simp] theorem completeOpt_claims (f : Fuses) (h : Option Nat) (st r : Nat) : (completeOpt f d h st r).claims = d.claims := by
  unfold completeOpt; split <;> simp
@[simp] theorem completeOpt_claimQ (f : Fuses) (h : Option Nat) (st r : Nat) : (completeOpt f d h st r).claimQ = d.claimQ := by
  unfold completeOpt; split <;> simp
@[simp] theorem completeOpt_codecs (f : Fuses) (h : Option Nat) (st r : Nat) : (completeOpt f d h st r).codecs = d.codecs := by
  unfold completeOpt; split <;> simp
@[simp] theorem completeOpt_princ (f : Fuses) (h : Option Nat) (st r : Nat) : (completeOpt f d h st r).princ = d.princ := by
  unfold completeOpt; split <;> simp
@[simp] theorem completeOpt_gateShut (f : Fuses) (h : Option Nat) (st r : Nat) : (completeOpt f d h st r).gateShut = d.gateShut := by
  unfold completeOpt; split <;> simp
@[simp] theorem completeOpt_ports (f : Fuses) (h : Option Nat) (st r : Nat) : (completeOpt f d h st r).ports = d.ports := by
  unfold completeOpt; split <;> simp
@[simp] theorem completeOpt_links (f : Fuses) (h : Option Nat) (st r : Nat) : (completeOpt f d h st r).links = d.links := by
  unfold completeOpt; split <;> simp
@[simp] theorem completeOpt_heldPkts (f : Fuses) (h : Option Nat) (st r : Nat) : (completeOpt f d h st r).heldPkts = d.heldPkts := by
  unfold completeOpt; split <;> simp
@[simp] theorem completeOpt_inbox (f : Fuses) (h : Option Nat) (st r : Nat) : (completeOpt f d h st r).inbox = d.inbox := by
  unfold completeOpt; split <;> simp
@[simp] theorem completeOpt_mesh (f : Fuses) (h : Option Nat) (st r : Nat) : (completeOpt f d h st r).mesh = d.mesh := by
  unfold completeOpt; split <;> simp
@[simp] theorem completeOpt_igReads (f : Fuses) (h : Option Nat) (st r : Nat) : (completeOpt f d h st r).igReads = d.igReads := by
  unfold completeOpt; split <;> simp
@[simp] theorem completeOpt_groups (f : Fuses) (h : Option Nat) (st r : Nat) : (completeOpt f d h st r).groups = d.groups := by
  unfold completeOpt; split <;> simp
@[simp] theorem completeOpt_errLog (f : Fuses) (h : Option Nat) (st r : Nat) : (completeOpt f d h st r).errLog = d.errLog := by
  unfold completeOpt; split <;> simp
@[simp] theorem completeOpt_resets (f : Fuses) (h : Option Nat) (st r : Nat) : (completeOpt f d h st r).resets = d.resets := by
  unfold completeOpt; split <;> simp
@[simp] theorem completeOpt_vault (f : Fuses) (h : Option Nat) (st r : Nat) : (completeOpt f d h st r).vault = d.vault := by
  unfold completeOpt; split <;> simp
@[simp] theorem completeOpt_proof (f : Fuses) (h : Option Nat) (st r : Nat) : (completeOpt f d h st r).proof = d.proof := by
  unfold completeOpt; split <;> simp
@[simp] theorem completeOpt_holders (f : Fuses) (h : Option Nat) (st r : Nat) : (completeOpt f d h st r).holders = d.holders := by
  unfold completeOpt; split <;> simp
@[simp] theorem completeOpt_lh (f : Fuses) (h : Option Nat) (st r : Nat) : (completeOpt f d h st r).lh = d.lh := by
  unfold completeOpt; split <;> simp
@[simp] theorem completeOpt_igPeers (f : Fuses) (h : Option Nat) (st r : Nat) : (completeOpt f d h st r).igPeers = d.igPeers := by
  unfold completeOpt; split <;> simp
@[simp] theorem completeOpt_igForm (f : Fuses) (h : Option Nat) (st r : Nat) : (completeOpt f d h st r).igForm = d.igForm := by
  unfold completeOpt; split <;> simp
@[simp] theorem completeOpt_power (f : Fuses) (h : Option Nat) (st r : Nat) : (completeOpt f d h st r).power = d.power := by
  unfold completeOpt; split <;> simp
@[simp] theorem completeOpt_reg (f : Fuses) (h : Option Nat) (st r : Nat) : (completeOpt f d h st r).reg = d.reg := by
  unfold completeOpt; split <;> simp
@[simp] theorem completeOpt_rst (f : Fuses) (h : Option Nat) (st r : Nat) : (completeOpt f d h st r).rst = d.rst := by
  unfold completeOpt; split <;> simp
@[simp] theorem completeOpt_recov (f : Fuses) (h : Option Nat) (st r : Nat) : (completeOpt f d h st r).recov = d.recov := by
  unfold completeOpt; split <;> simp

/-! ## faultThread: it acts on out, host, arbs, ctxs, objs, cores, coreFaults alone -/
@[simp] theorem faultThread_time (f : Fuses) (c : Nat) (t : Thr) (r : FaultRec) : (faultThread f d c t r).time = d.time := by
  unfold faultThread; dsimp only; (repeat' split) <;> simp
@[simp] theorem faultThread_frac (f : Fuses) (c : Nat) (t : Thr) (r : FaultRec) : (faultThread f d c t r).frac = d.frac := by
  unfold faultThread; dsimp only; (repeat' split) <;> simp
@[simp] theorem faultThread_cyc (f : Fuses) (c : Nat) (t : Thr) (r : FaultRec) : (faultThread f d c t r).cyc = d.cyc := by
  unfold faultThread; dsimp only; (repeat' split) <;> simp
@[simp] theorem faultThread_freeCtr (f : Fuses) (c : Nat) (t : Thr) (r : FaultRec) : (faultThread f d c t r).freeCtr = d.freeCtr := by
  unfold faultThread; dsimp only; (repeat' split) <;> simp
@[simp] theorem faultThread_mem (f : Fuses) (c : Nat) (t : Thr) (r : FaultRec) : (faultThread f d c t r).mem = d.mem := by
  unfold faultThread; dsimp only; (repeat' split) <;> simp
@[simp] theorem faultThread_claims (f : Fuses) (c : Nat) (t : Thr) (r : FaultRec) : (faultThread f d c t r).claims = d.claims := by
  unfold faultThread; dsimp only; (repeat' split) <;> simp
@[simp] theorem faultThread_claimQ (f : Fuses) (c : Nat) (t : Thr) (r : FaultRec) : (faultThread f d c t r).claimQ = d.claimQ := by
  unfold faultThread; dsimp only; (repeat' split) <;> simp
@[simp] theorem faultThread_codecs (f : Fuses) (c : Nat) (t : Thr) (r : FaultRec) : (faultThread f d c t r).codecs = d.codecs := by
  unfold faultThread; dsimp only; (repeat' split) <;> simp
@[simp] theorem faultThread_handles (f : Fuses) (c : Nat) (t : Thr) (r : FaultRec) : (faultThread f d c t r).handles = d.handles := by
  unfold faultThread; dsimp only; (repeat' split) <;> simp
@[simp] theorem faultThread_princ (f : Fuses) (c : Nat) (t : Thr) (r : FaultRec) : (faultThread f d c t r).princ = d.princ := by
  unfold faultThread; dsimp only; (repeat' split) <;> simp
@[simp] theorem faultThread_gateShut (f : Fuses) (c : Nat) (t : Thr) (r : FaultRec) : (faultThread f d c t r).gateShut = d.gateShut := by
  unfold faultThread; dsimp only; (repeat' split) <;> simp
@[simp] theorem faultThread_ports (f : Fuses) (c : Nat) (t : Thr) (r : FaultRec) : (faultThread f d c t r).ports = d.ports := by
  unfold faultThread; dsimp only; (repeat' split) <;> simp
@[simp] theorem faultThread_links (f : Fuses) (c : Nat) (t : Thr) (r : FaultRec) : (faultThread f d c t r).links = d.links := by
  unfold faultThread; dsimp only; (repeat' split) <;> simp
@[simp] theorem faultThread_heldPkts (f : Fuses) (c : Nat) (t : Thr) (r : FaultRec) : (faultThread f d c t r).heldPkts = d.heldPkts := by
  unfold faultThread; dsimp only; (repeat' split) <;> simp
@[simp] theorem faultThread_inbox (f : Fuses) (c : Nat) (t : Thr) (r : FaultRec) : (faultThread f d c t r).inbox = d.inbox := by
  unfold faultThread; dsimp only; (repeat' split) <;> simp
@[simp] theorem faultThread_mesh (f : Fuses) (c : Nat) (t : Thr) (r : FaultRec) : (faultThread f d c t r).mesh = d.mesh := by
  unfold faultThread; dsimp only; (repeat' split) <;> simp
@[simp] theorem faultThread_igReads (f : Fuses) (c : Nat) (t : Thr) (r : FaultRec) : (faultThread f d c t r).igReads = d.igReads := by
  unfold faultThread; dsimp only; (repeat' split) <;> simp
@[simp] theorem faultThread_groups (f : Fuses) (c : Nat) (t : Thr) (r : FaultRec) : (faultThread f d c t r).groups = d.groups := by
  unfold faultThread; dsimp only; (repeat' split) <;> simp
@[simp] theorem faultThread_errLog (f : Fuses) (c : Nat) (t : Thr) (r : FaultRec) : (faultThread f d c t r).errLog = d.errLog := by
  unfold faultThread; dsimp only; (repeat' split) <;> simp
@[simp] theorem faultThread_resets (f : Fuses) (c : Nat) (t : Thr) (r : FaultRec) : (faultThread f d c t r).resets = d.resets := by
  unfold faultThread; dsimp only; (repeat' split) <;> simp
@[simp] theorem faultThread_vault (f : Fuses) (c : Nat) (t : Thr) (r : FaultRec) : (faultThread f d c t r).vault = d.vault := by
  unfold faultThread; dsimp only; (repeat' split) <;> simp
@[simp] theorem faultThread_proof (f : Fuses) (c : Nat) (t : Thr) (r : FaultRec) : (faultThread f d c t r).proof = d.proof := by
  unfold faultThread; dsimp only; (repeat' split) <;> simp
@[simp] theorem faultThread_holders (f : Fuses) (c : Nat) (t : Thr) (r : FaultRec) : (faultThread f d c t r).holders = d.holders := by
  unfold faultThread; dsimp only; (repeat' split) <;> simp
@[simp] theorem faultThread_lh (f : Fuses) (c : Nat) (t : Thr) (r : FaultRec) : (faultThread f d c t r).lh = d.lh := by
  unfold faultThread; dsimp only; (repeat' split) <;> simp
@[simp] theorem faultThread_igPeers (f : Fuses) (c : Nat) (t : Thr) (r : FaultRec) : (faultThread f d c t r).igPeers = d.igPeers := by
  unfold faultThread; dsimp only; (repeat' split) <;> simp
@[simp] theorem faultThread_igForm (f : Fuses) (c : Nat) (t : Thr) (r : FaultRec) : (faultThread f d c t r).igForm = d.igForm := by
  unfold faultThread; dsimp only; (repeat' split) <;> simp
@[simp] theorem faultThread_power (f : Fuses) (c : Nat) (t : Thr) (r : FaultRec) : (faultThread f d c t r).power = d.power := by
  unfold faultThread; dsimp only; (repeat' split) <;> simp
@[simp] theorem faultThread_reg (f : Fuses) (c : Nat) (t : Thr) (r : FaultRec) : (faultThread f d c t r).reg = d.reg := by
  unfold faultThread; dsimp only; (repeat' split) <;> simp
@[simp] theorem faultThread_rst (f : Fuses) (c : Nat) (t : Thr) (r : FaultRec) : (faultThread f d c t r).rst = d.rst := by
  unfold faultThread; dsimp only; (repeat' split) <;> simp
@[simp] theorem faultThread_recov (f : Fuses) (c : Nat) (t : Thr) (r : FaultRec) : (faultThread f d c t r).recov = d.recov := by
  unfold faultThread; dsimp only; (repeat' split) <;> simp

/-! ## recordStatus: it acts on cores alone -/
@[simp] theorem recordStatus_time (c : Nat) (t : Thr) (st : Nat) : (recordStatus d c t st).time = d.time := by
  unfold recordStatus; split <;> rfl
@[simp] theorem recordStatus_frac (c : Nat) (t : Thr) (st : Nat) : (recordStatus d c t st).frac = d.frac := by
  unfold recordStatus; split <;> rfl
@[simp] theorem recordStatus_cyc (c : Nat) (t : Thr) (st : Nat) : (recordStatus d c t st).cyc = d.cyc := by
  unfold recordStatus; split <;> rfl
@[simp] theorem recordStatus_freeCtr (c : Nat) (t : Thr) (st : Nat) : (recordStatus d c t st).freeCtr = d.freeCtr := by
  unfold recordStatus; split <;> rfl
@[simp] theorem recordStatus_objs (c : Nat) (t : Thr) (st : Nat) : (recordStatus d c t st).objs = d.objs := by
  unfold recordStatus; split <;> rfl
@[simp] theorem recordStatus_mem (c : Nat) (t : Thr) (st : Nat) : (recordStatus d c t st).mem = d.mem := by
  unfold recordStatus; split <;> rfl
@[simp] theorem recordStatus_coreFaults (c : Nat) (t : Thr) (st : Nat) : (recordStatus d c t st).coreFaults = d.coreFaults := by
  unfold recordStatus; split <;> rfl
@[simp] theorem recordStatus_claims (c : Nat) (t : Thr) (st : Nat) : (recordStatus d c t st).claims = d.claims := by
  unfold recordStatus; split <;> rfl
@[simp] theorem recordStatus_claimQ (c : Nat) (t : Thr) (st : Nat) : (recordStatus d c t st).claimQ = d.claimQ := by
  unfold recordStatus; split <;> rfl
@[simp] theorem recordStatus_codecs (c : Nat) (t : Thr) (st : Nat) : (recordStatus d c t st).codecs = d.codecs := by
  unfold recordStatus; split <;> rfl
@[simp] theorem recordStatus_ctxs (c : Nat) (t : Thr) (st : Nat) : (recordStatus d c t st).ctxs = d.ctxs := by
  unfold recordStatus; split <;> rfl
@[simp] theorem recordStatus_handles (c : Nat) (t : Thr) (st : Nat) : (recordStatus d c t st).handles = d.handles := by
  unfold recordStatus; split <;> rfl
@[simp] theorem recordStatus_princ (c : Nat) (t : Thr) (st : Nat) : (recordStatus d c t st).princ = d.princ := by
  unfold recordStatus; split <;> rfl
@[simp] theorem recordStatus_gateShut (c : Nat) (t : Thr) (st : Nat) : (recordStatus d c t st).gateShut = d.gateShut := by
  unfold recordStatus; split <;> rfl
@[simp] theorem recordStatus_ports (c : Nat) (t : Thr) (st : Nat) : (recordStatus d c t st).ports = d.ports := by
  unfold recordStatus; split <;> rfl
@[simp] theorem recordStatus_links (c : Nat) (t : Thr) (st : Nat) : (recordStatus d c t st).links = d.links := by
  unfold recordStatus; split <;> rfl
@[simp] theorem recordStatus_heldPkts (c : Nat) (t : Thr) (st : Nat) : (recordStatus d c t st).heldPkts = d.heldPkts := by
  unfold recordStatus; split <;> rfl
@[simp] theorem recordStatus_inbox (c : Nat) (t : Thr) (st : Nat) : (recordStatus d c t st).inbox = d.inbox := by
  unfold recordStatus; split <;> rfl
@[simp] theorem recordStatus_mesh (c : Nat) (t : Thr) (st : Nat) : (recordStatus d c t st).mesh = d.mesh := by
  unfold recordStatus; split <;> rfl
@[simp] theorem recordStatus_igReads (c : Nat) (t : Thr) (st : Nat) : (recordStatus d c t st).igReads = d.igReads := by
  unfold recordStatus; split <;> rfl
@[simp] theorem recordStatus_groups (c : Nat) (t : Thr) (st : Nat) : (recordStatus d c t st).groups = d.groups := by
  unfold recordStatus; split <;> rfl
@[simp] theorem recordStatus_out (c : Nat) (t : Thr) (st : Nat) : (recordStatus d c t st).out = d.out := by
  unfold recordStatus; split <;> rfl
@[simp] theorem recordStatus_errLog (c : Nat) (t : Thr) (st : Nat) : (recordStatus d c t st).errLog = d.errLog := by
  unfold recordStatus; split <;> rfl
@[simp] theorem recordStatus_resets (c : Nat) (t : Thr) (st : Nat) : (recordStatus d c t st).resets = d.resets := by
  unfold recordStatus; split <;> rfl
@[simp] theorem recordStatus_vault (c : Nat) (t : Thr) (st : Nat) : (recordStatus d c t st).vault = d.vault := by
  unfold recordStatus; split <;> rfl
@[simp] theorem recordStatus_proof (c : Nat) (t : Thr) (st : Nat) : (recordStatus d c t st).proof = d.proof := by
  unfold recordStatus; split <;> rfl
@[simp] theorem recordStatus_holders (c : Nat) (t : Thr) (st : Nat) : (recordStatus d c t st).holders = d.holders := by
  unfold recordStatus; split <;> rfl
@[simp] theorem recordStatus_lh (c : Nat) (t : Thr) (st : Nat) : (recordStatus d c t st).lh = d.lh := by
  unfold recordStatus; split <;> rfl
@[simp] theorem recordStatus_igPeers (c : Nat) (t : Thr) (st : Nat) : (recordStatus d c t st).igPeers = d.igPeers := by
  unfold recordStatus; split <;> rfl
@[simp] theorem recordStatus_igForm (c : Nat) (t : Thr) (st : Nat) : (recordStatus d c t st).igForm = d.igForm := by
  unfold recordStatus; split <;> rfl
@[simp] theorem recordStatus_power (c : Nat) (t : Thr) (st : Nat) : (recordStatus d c t st).power = d.power := by
  unfold recordStatus; split <;> rfl
@[simp] theorem recordStatus_reg (c : Nat) (t : Thr) (st : Nat) : (recordStatus d c t st).reg = d.reg := by
  unfold recordStatus; split <;> rfl
@[simp] theorem recordStatus_rst (c : Nat) (t : Thr) (st : Nat) : (recordStatus d c t st).rst = d.rst := by
  unfold recordStatus; split <;> rfl
@[simp] theorem recordStatus_recov (c : Nat) (t : Thr) (st : Nat) : (recordStatus d c t st).recov = d.recov := by
  unfold recordStatus; split <;> rfl
@[simp] theorem recordStatus_host (c : Nat) (t : Thr) (st : Nat) : (recordStatus d c t st).host = d.host := by
  unfold recordStatus; split <;> rfl
@[simp] theorem recordStatus_arbs (c : Nat) (t : Thr) (st : Nat) : (recordStatus d c t st).arbs = d.arbs := by
  unfold recordStatus; split <;> rfl

/-! ## addCounter: it acts on out, host, arbs, ctxs, objs, cores, coreFaults alone -/
@[simp] theorem addCounter_time (f : Fuses) (c : Nat) (r : CtrRef) (a so st m : Nat) : (addCounter f d c r a so st m).time = d.time := by
  unfold addCounter; dsimp only; split <;> simp
@[simp] theorem addCounter_frac (f : Fuses) (c : Nat) (r : CtrRef) (a so st m : Nat) : (addCounter f d c r a so st m).frac = d.frac := by
  unfold addCounter; dsimp only; split <;> simp
@[simp] theorem addCounter_cyc (f : Fuses) (c : Nat) (r : CtrRef) (a so st m : Nat) : (addCounter f d c r a so st m).cyc = d.cyc := by
  unfold addCounter; dsimp only; split <;> simp
@[simp] theorem addCounter_freeCtr (f : Fuses) (c : Nat) (r : CtrRef) (a so st m : Nat) : (addCounter f d c r a so st m).freeCtr = d.freeCtr := by
  unfold addCounter; dsimp only; split <;> simp
@[simp] theorem addCounter_mem (f : Fuses) (c : Nat) (r : CtrRef) (a so st m : Nat) : (addCounter f d c r a so st m).mem = d.mem := by
  unfold addCounter; dsimp only; split <;> simp
@[simp] theorem addCounter_claims (f : Fuses) (c : Nat) (r : CtrRef) (a so st m : Nat) : (addCounter f d c r a so st m).claims = d.claims := by
  unfold addCounter; dsimp only; split <;> simp
@[simp] theorem addCounter_claimQ (f : Fuses) (c : Nat) (r : CtrRef) (a so st m : Nat) : (addCounter f d c r a so st m).claimQ = d.claimQ := by
  unfold addCounter; dsimp only; split <;> simp
@[simp] theorem addCounter_codecs (f : Fuses) (c : Nat) (r : CtrRef) (a so st m : Nat) : (addCounter f d c r a so st m).codecs = d.codecs := by
  unfold addCounter; dsimp only; split <;> simp
@[simp] theorem addCounter_handles (f : Fuses) (c : Nat) (r : CtrRef) (a so st m : Nat) : (addCounter f d c r a so st m).handles = d.handles := by
  unfold addCounter; dsimp only; split <;> simp
@[simp] theorem addCounter_princ (f : Fuses) (c : Nat) (r : CtrRef) (a so st m : Nat) : (addCounter f d c r a so st m).princ = d.princ := by
  unfold addCounter; dsimp only; split <;> simp
@[simp] theorem addCounter_gateShut (f : Fuses) (c : Nat) (r : CtrRef) (a so st m : Nat) : (addCounter f d c r a so st m).gateShut = d.gateShut := by
  unfold addCounter; dsimp only; split <;> simp
@[simp] theorem addCounter_ports (f : Fuses) (c : Nat) (r : CtrRef) (a so st m : Nat) : (addCounter f d c r a so st m).ports = d.ports := by
  unfold addCounter; dsimp only; split <;> simp
@[simp] theorem addCounter_links (f : Fuses) (c : Nat) (r : CtrRef) (a so st m : Nat) : (addCounter f d c r a so st m).links = d.links := by
  unfold addCounter; dsimp only; split <;> simp
@[simp] theorem addCounter_heldPkts (f : Fuses) (c : Nat) (r : CtrRef) (a so st m : Nat) : (addCounter f d c r a so st m).heldPkts = d.heldPkts := by
  unfold addCounter; dsimp only; split <;> simp
@[simp] theorem addCounter_inbox (f : Fuses) (c : Nat) (r : CtrRef) (a so st m : Nat) : (addCounter f d c r a so st m).inbox = d.inbox := by
  unfold addCounter; dsimp only; split <;> simp
@[simp] theorem addCounter_mesh (f : Fuses) (c : Nat) (r : CtrRef) (a so st m : Nat) : (addCounter f d c r a so st m).mesh = d.mesh := by
  unfold addCounter; dsimp only; split <;> simp
@[simp] theorem addCounter_igReads (f : Fuses) (c : Nat) (r : CtrRef) (a so st m : Nat) : (addCounter f d c r a so st m).igReads = d.igReads := by
  unfold addCounter; dsimp only; split <;> simp
@[simp] theorem addCounter_groups (f : Fuses) (c : Nat) (r : CtrRef) (a so st m : Nat) : (addCounter f d c r a so st m).groups = d.groups := by
  unfold addCounter; dsimp only; split <;> simp
@[simp] theorem addCounter_errLog (f : Fuses) (c : Nat) (r : CtrRef) (a so st m : Nat) : (addCounter f d c r a so st m).errLog = d.errLog := by
  unfold addCounter; dsimp only; split <;> simp
@[simp] theorem addCounter_resets (f : Fuses) (c : Nat) (r : CtrRef) (a so st m : Nat) : (addCounter f d c r a so st m).resets = d.resets := by
  unfold addCounter; dsimp only; split <;> simp
@[simp] theorem addCounter_vault (f : Fuses) (c : Nat) (r : CtrRef) (a so st m : Nat) : (addCounter f d c r a so st m).vault = d.vault := by
  unfold addCounter; dsimp only; split <;> simp
@[simp] theorem addCounter_proof (f : Fuses) (c : Nat) (r : CtrRef) (a so st m : Nat) : (addCounter f d c r a so st m).proof = d.proof := by
  unfold addCounter; dsimp only; split <;> simp
@[simp] theorem addCounter_holders (f : Fuses) (c : Nat) (r : CtrRef) (a so st m : Nat) : (addCounter f d c r a so st m).holders = d.holders := by
  unfold addCounter; dsimp only; split <;> simp
@[simp] theorem addCounter_lh (f : Fuses) (c : Nat) (r : CtrRef) (a so st m : Nat) : (addCounter f d c r a so st m).lh = d.lh := by
  unfold addCounter; dsimp only; split <;> simp
@[simp] theorem addCounter_igPeers (f : Fuses) (c : Nat) (r : CtrRef) (a so st m : Nat) : (addCounter f d c r a so st m).igPeers = d.igPeers := by
  unfold addCounter; dsimp only; split <;> simp
@[simp] theorem addCounter_igForm (f : Fuses) (c : Nat) (r : CtrRef) (a so st m : Nat) : (addCounter f d c r a so st m).igForm = d.igForm := by
  unfold addCounter; dsimp only; split <;> simp
@[simp] theorem addCounter_power (f : Fuses) (c : Nat) (r : CtrRef) (a so st m : Nat) : (addCounter f d c r a so st m).power = d.power := by
  unfold addCounter; dsimp only; split <;> simp
@[simp] theorem addCounter_reg (f : Fuses) (c : Nat) (r : CtrRef) (a so st m : Nat) : (addCounter f d c r a so st m).reg = d.reg := by
  unfold addCounter; dsimp only; split <;> simp
@[simp] theorem addCounter_rst (f : Fuses) (c : Nat) (r : CtrRef) (a so st m : Nat) : (addCounter f d c r a so st m).rst = d.rst := by
  unfold addCounter; dsimp only; split <;> simp
@[simp] theorem addCounter_recov (f : Fuses) (c : Nat) (r : CtrRef) (a so st m : Nat) : (addCounter f d c r a so st m).recov = d.recov := by
  unfold addCounter; dsimp only; split <;> simp

/-! ## signal: it acts on out, host, arbs, ctxs, objs, cores, coreFaults alone -/
@[simp] theorem signal_time (f : Fuses) (c : Nat) (r : Option CtrRef) (st : Nat) : (signal f d c r st).time = d.time := by
  unfold signal; split <;> simp
@[simp] theorem signal_frac (f : Fuses) (c : Nat) (r : Option CtrRef) (st : Nat) : (signal f d c r st).frac = d.frac := by
  unfold signal; split <;> simp
@[simp] theorem signal_cyc (f : Fuses) (c : Nat) (r : Option CtrRef) (st : Nat) : (signal f d c r st).cyc = d.cyc := by
  unfold signal; split <;> simp
@[simp] theorem signal_freeCtr (f : Fuses) (c : Nat) (r : Option CtrRef) (st : Nat) : (signal f d c r st).freeCtr = d.freeCtr := by
  unfold signal; split <;> simp
@[simp] theorem signal_mem (f : Fuses) (c : Nat) (r : Option CtrRef) (st : Nat) : (signal f d c r st).mem = d.mem := by
  unfold signal; split <;> simp
@[simp] theorem signal_claims (f : Fuses) (c : Nat) (r : Option CtrRef) (st : Nat) : (signal f d c r st).claims = d.claims := by
  unfold signal; split <;> simp
@[simp] theorem signal_claimQ (f : Fuses) (c : Nat) (r : Option CtrRef) (st : Nat) : (signal f d c r st).claimQ = d.claimQ := by
  unfold signal; split <;> simp
@[simp] theorem signal_codecs (f : Fuses) (c : Nat) (r : Option CtrRef) (st : Nat) : (signal f d c r st).codecs = d.codecs := by
  unfold signal; split <;> simp
@[simp] theorem signal_handles (f : Fuses) (c : Nat) (r : Option CtrRef) (st : Nat) : (signal f d c r st).handles = d.handles := by
  unfold signal; split <;> simp
@[simp] theorem signal_princ (f : Fuses) (c : Nat) (r : Option CtrRef) (st : Nat) : (signal f d c r st).princ = d.princ := by
  unfold signal; split <;> simp
@[simp] theorem signal_gateShut (f : Fuses) (c : Nat) (r : Option CtrRef) (st : Nat) : (signal f d c r st).gateShut = d.gateShut := by
  unfold signal; split <;> simp
@[simp] theorem signal_ports (f : Fuses) (c : Nat) (r : Option CtrRef) (st : Nat) : (signal f d c r st).ports = d.ports := by
  unfold signal; split <;> simp
@[simp] theorem signal_links (f : Fuses) (c : Nat) (r : Option CtrRef) (st : Nat) : (signal f d c r st).links = d.links := by
  unfold signal; split <;> simp
@[simp] theorem signal_heldPkts (f : Fuses) (c : Nat) (r : Option CtrRef) (st : Nat) : (signal f d c r st).heldPkts = d.heldPkts := by
  unfold signal; split <;> simp
@[simp] theorem signal_inbox (f : Fuses) (c : Nat) (r : Option CtrRef) (st : Nat) : (signal f d c r st).inbox = d.inbox := by
  unfold signal; split <;> simp
@[simp] theorem signal_mesh (f : Fuses) (c : Nat) (r : Option CtrRef) (st : Nat) : (signal f d c r st).mesh = d.mesh := by
  unfold signal; split <;> simp
@[simp] theorem signal_igReads (f : Fuses) (c : Nat) (r : Option CtrRef) (st : Nat) : (signal f d c r st).igReads = d.igReads := by
  unfold signal; split <;> simp
@[simp] theorem signal_groups (f : Fuses) (c : Nat) (r : Option CtrRef) (st : Nat) : (signal f d c r st).groups = d.groups := by
  unfold signal; split <;> simp
@[simp] theorem signal_errLog (f : Fuses) (c : Nat) (r : Option CtrRef) (st : Nat) : (signal f d c r st).errLog = d.errLog := by
  unfold signal; split <;> simp
@[simp] theorem signal_resets (f : Fuses) (c : Nat) (r : Option CtrRef) (st : Nat) : (signal f d c r st).resets = d.resets := by
  unfold signal; split <;> simp
@[simp] theorem signal_vault (f : Fuses) (c : Nat) (r : Option CtrRef) (st : Nat) : (signal f d c r st).vault = d.vault := by
  unfold signal; split <;> simp
@[simp] theorem signal_proof (f : Fuses) (c : Nat) (r : Option CtrRef) (st : Nat) : (signal f d c r st).proof = d.proof := by
  unfold signal; split <;> simp
@[simp] theorem signal_holders (f : Fuses) (c : Nat) (r : Option CtrRef) (st : Nat) : (signal f d c r st).holders = d.holders := by
  unfold signal; split <;> simp
@[simp] theorem signal_lh (f : Fuses) (c : Nat) (r : Option CtrRef) (st : Nat) : (signal f d c r st).lh = d.lh := by
  unfold signal; split <;> simp
@[simp] theorem signal_igPeers (f : Fuses) (c : Nat) (r : Option CtrRef) (st : Nat) : (signal f d c r st).igPeers = d.igPeers := by
  unfold signal; split <;> simp
@[simp] theorem signal_igForm (f : Fuses) (c : Nat) (r : Option CtrRef) (st : Nat) : (signal f d c r st).igForm = d.igForm := by
  unfold signal; split <;> simp
@[simp] theorem signal_power (f : Fuses) (c : Nat) (r : Option CtrRef) (st : Nat) : (signal f d c r st).power = d.power := by
  unfold signal; split <;> simp
@[simp] theorem signal_reg (f : Fuses) (c : Nat) (r : Option CtrRef) (st : Nat) : (signal f d c r st).reg = d.reg := by
  unfold signal; split <;> simp
@[simp] theorem signal_rst (f : Fuses) (c : Nat) (r : Option CtrRef) (st : Nat) : (signal f d c r st).rst = d.rst := by
  unfold signal; split <;> simp
@[simp] theorem signal_recov (f : Fuses) (c : Nat) (r : Option CtrRef) (st : Nat) : (signal f d c r st).recov = d.recov := by
  unfold signal; split <;> simp

/-! ## countEv: it acts on objs alone -/
@[simp] theorem countEv_time (c : Nat) (e : Ev) : (countEv d c e).time = d.time := by
  simp [countEv]
@[simp] theorem countEv_frac (c : Nat) (e : Ev) : (countEv d c e).frac = d.frac := by
  simp [countEv]
@[simp] theorem countEv_cyc (c : Nat) (e : Ev) : (countEv d c e).cyc = d.cyc := by
  simp [countEv]
@[simp] theorem countEv_freeCtr (c : Nat) (e : Ev) : (countEv d c e).freeCtr = d.freeCtr := by
  simp [countEv]
@[simp] theorem countEv_cores (c : Nat) (e : Ev) : (countEv d c e).cores = d.cores := by
  simp [countEv]
@[simp] theorem countEv_mem (c : Nat) (e : Ev) : (countEv d c e).mem = d.mem := by
  simp [countEv]
@[simp] theorem countEv_coreFaults (c : Nat) (e : Ev) : (countEv d c e).coreFaults = d.coreFaults := by
  simp [countEv]
@[simp] theorem countEv_claims (c : Nat) (e : Ev) : (countEv d c e).claims = d.claims := by
  simp [countEv]
@[simp] theorem countEv_claimQ (c : Nat) (e : Ev) : (countEv d c e).claimQ = d.claimQ := by
  simp [countEv]
@[simp] theorem countEv_codecs (c : Nat) (e : Ev) : (countEv d c e).codecs = d.codecs := by
  simp [countEv]
@[simp] theorem countEv_ctxs (c : Nat) (e : Ev) : (countEv d c e).ctxs = d.ctxs := by
  simp [countEv]
@[simp] theorem countEv_handles (c : Nat) (e : Ev) : (countEv d c e).handles = d.handles := by
  simp [countEv]
@[simp] theorem countEv_princ (c : Nat) (e : Ev) : (countEv d c e).princ = d.princ := by
  simp [countEv]
@[simp] theorem countEv_gateShut (c : Nat) (e : Ev) : (countEv d c e).gateShut = d.gateShut := by
  simp [countEv]
@[simp] theorem countEv_ports (c : Nat) (e : Ev) : (countEv d c e).ports = d.ports := by
  simp [countEv]
@[simp] theorem countEv_links (c : Nat) (e : Ev) : (countEv d c e).links = d.links := by
  simp [countEv]
@[simp] theorem countEv_heldPkts (c : Nat) (e : Ev) : (countEv d c e).heldPkts = d.heldPkts := by
  simp [countEv]
@[simp] theorem countEv_inbox (c : Nat) (e : Ev) : (countEv d c e).inbox = d.inbox := by
  simp [countEv]
@[simp] theorem countEv_mesh (c : Nat) (e : Ev) : (countEv d c e).mesh = d.mesh := by
  simp [countEv]
@[simp] theorem countEv_igReads (c : Nat) (e : Ev) : (countEv d c e).igReads = d.igReads := by
  simp [countEv]
@[simp] theorem countEv_groups (c : Nat) (e : Ev) : (countEv d c e).groups = d.groups := by
  simp [countEv]
@[simp] theorem countEv_out (c : Nat) (e : Ev) : (countEv d c e).out = d.out := by
  simp [countEv]
@[simp] theorem countEv_errLog (c : Nat) (e : Ev) : (countEv d c e).errLog = d.errLog := by
  simp [countEv]
@[simp] theorem countEv_resets (c : Nat) (e : Ev) : (countEv d c e).resets = d.resets := by
  simp [countEv]
@[simp] theorem countEv_vault (c : Nat) (e : Ev) : (countEv d c e).vault = d.vault := by
  simp [countEv]
@[simp] theorem countEv_proof (c : Nat) (e : Ev) : (countEv d c e).proof = d.proof := by
  simp [countEv]
@[simp] theorem countEv_holders (c : Nat) (e : Ev) : (countEv d c e).holders = d.holders := by
  simp [countEv]
@[simp] theorem countEv_lh (c : Nat) (e : Ev) : (countEv d c e).lh = d.lh := by
  simp [countEv]
@[simp] theorem countEv_igPeers (c : Nat) (e : Ev) : (countEv d c e).igPeers = d.igPeers := by
  simp [countEv]
@[simp] theorem countEv_igForm (c : Nat) (e : Ev) : (countEv d c e).igForm = d.igForm := by
  simp [countEv]
@[simp] theorem countEv_power (c : Nat) (e : Ev) : (countEv d c e).power = d.power := by
  simp [countEv]
@[simp] theorem countEv_reg (c : Nat) (e : Ev) : (countEv d c e).reg = d.reg := by
  simp [countEv]
@[simp] theorem countEv_rst (c : Nat) (e : Ev) : (countEv d c e).rst = d.rst := by
  simp [countEv]
@[simp] theorem countEv_recov (c : Nat) (e : Ev) : (countEv d c e).recov = d.recov := by
  simp [countEv]
@[simp] theorem countEv_host (c : Nat) (e : Ev) : (countEv d c e).host = d.host := by
  simp [countEv]
@[simp] theorem countEv_arbs (c : Nat) (e : Ev) : (countEv d c e).arbs = d.arbs := by
  simp [countEv]

/-! ## takeHandle: it acts on ctxs, handles alone -/
@[simp] theorem takeHandle_time (c : Nat) (h : HandleRec) : ((takeHandle d c h).1).time = d.time := rfl
@[simp] theorem takeHandle_frac (c : Nat) (h : HandleRec) : ((takeHandle d c h).1).frac = d.frac := rfl
@[simp] theorem takeHandle_cyc (c : Nat) (h : HandleRec) : ((takeHandle d c h).1).cyc = d.cyc := rfl
@[simp] theorem takeHandle_freeCtr (c : Nat) (h : HandleRec) : ((takeHandle d c h).1).freeCtr = d.freeCtr := rfl
@[simp] theorem takeHandle_cores (c : Nat) (h : HandleRec) : ((takeHandle d c h).1).cores = d.cores := rfl
@[simp] theorem takeHandle_objs (c : Nat) (h : HandleRec) : ((takeHandle d c h).1).objs = d.objs := rfl
@[simp] theorem takeHandle_mem (c : Nat) (h : HandleRec) : ((takeHandle d c h).1).mem = d.mem := rfl
@[simp] theorem takeHandle_coreFaults (c : Nat) (h : HandleRec) : ((takeHandle d c h).1).coreFaults = d.coreFaults := rfl
@[simp] theorem takeHandle_claims (c : Nat) (h : HandleRec) : ((takeHandle d c h).1).claims = d.claims := rfl
@[simp] theorem takeHandle_claimQ (c : Nat) (h : HandleRec) : ((takeHandle d c h).1).claimQ = d.claimQ := rfl
@[simp] theorem takeHandle_codecs (c : Nat) (h : HandleRec) : ((takeHandle d c h).1).codecs = d.codecs := rfl
@[simp] theorem takeHandle_princ (c : Nat) (h : HandleRec) : ((takeHandle d c h).1).princ = d.princ := rfl
@[simp] theorem takeHandle_gateShut (c : Nat) (h : HandleRec) : ((takeHandle d c h).1).gateShut = d.gateShut := rfl
@[simp] theorem takeHandle_ports (c : Nat) (h : HandleRec) : ((takeHandle d c h).1).ports = d.ports := rfl
@[simp] theorem takeHandle_links (c : Nat) (h : HandleRec) : ((takeHandle d c h).1).links = d.links := rfl
@[simp] theorem takeHandle_heldPkts (c : Nat) (h : HandleRec) : ((takeHandle d c h).1).heldPkts = d.heldPkts := rfl
@[simp] theorem takeHandle_inbox (c : Nat) (h : HandleRec) : ((takeHandle d c h).1).inbox = d.inbox := rfl
@[simp] theorem takeHandle_mesh (c : Nat) (h : HandleRec) : ((takeHandle d c h).1).mesh = d.mesh := rfl
@[simp] theorem takeHandle_igReads (c : Nat) (h : HandleRec) : ((takeHandle d c h).1).igReads = d.igReads := rfl
@[simp] theorem takeHandle_groups (c : Nat) (h : HandleRec) : ((takeHandle d c h).1).groups = d.groups := rfl
@[simp] theorem takeHandle_out (c : Nat) (h : HandleRec) : ((takeHandle d c h).1).out = d.out := rfl
@[simp] theorem takeHandle_errLog (c : Nat) (h : HandleRec) : ((takeHandle d c h).1).errLog = d.errLog := rfl
@[simp] theorem takeHandle_resets (c : Nat) (h : HandleRec) : ((takeHandle d c h).1).resets = d.resets := rfl
@[simp] theorem takeHandle_vault (c : Nat) (h : HandleRec) : ((takeHandle d c h).1).vault = d.vault := rfl
@[simp] theorem takeHandle_proof (c : Nat) (h : HandleRec) : ((takeHandle d c h).1).proof = d.proof := rfl
@[simp] theorem takeHandle_holders (c : Nat) (h : HandleRec) : ((takeHandle d c h).1).holders = d.holders := rfl
@[simp] theorem takeHandle_lh (c : Nat) (h : HandleRec) : ((takeHandle d c h).1).lh = d.lh := rfl
@[simp] theorem takeHandle_igPeers (c : Nat) (h : HandleRec) : ((takeHandle d c h).1).igPeers = d.igPeers := rfl
@[simp] theorem takeHandle_igForm (c : Nat) (h : HandleRec) : ((takeHandle d c h).1).igForm = d.igForm := rfl
@[simp] theorem takeHandle_power (c : Nat) (h : HandleRec) : ((takeHandle d c h).1).power = d.power := rfl
@[simp] theorem takeHandle_reg (c : Nat) (h : HandleRec) : ((takeHandle d c h).1).reg = d.reg := rfl
@[simp] theorem takeHandle_rst (c : Nat) (h : HandleRec) : ((takeHandle d c h).1).rst = d.rst := rfl
@[simp] theorem takeHandle_recov (c : Nat) (h : HandleRec) : ((takeHandle d c h).1).recov = d.recov := rfl
@[simp] theorem takeHandle_host (c : Nat) (h : HandleRec) : ((takeHandle d c h).1).host = d.host := rfl
@[simp] theorem takeHandle_arbs (c : Nat) (h : HandleRec) : ((takeHandle d c h).1).arbs = d.arbs := rfl

/-! ## spendFree: it acts on freeCtr alone -/
@[simp] theorem spendFree_time (b : Bool) : (spendFree d b).time = d.time := by
  unfold spendFree; split <;> rfl
@[simp] theorem spendFree_frac (b : Bool) : (spendFree d b).frac = d.frac := by
  unfold spendFree; split <;> rfl
@[simp] theorem spendFree_cyc (b : Bool) : (spendFree d b).cyc = d.cyc := by
  unfold spendFree; split <;> rfl
@[simp] theorem spendFree_cores (b : Bool) : (spendFree d b).cores = d.cores := by
  unfold spendFree; split <;> rfl
@[simp] theorem spendFree_objs (b : Bool) : (spendFree d b).objs = d.objs := by
  unfold spendFree; split <;> rfl
@[simp] theorem spendFree_mem (b : Bool) : (spendFree d b).mem = d.mem := by
  unfold spendFree; split <;> rfl
@[simp] theorem spendFree_coreFaults (b : Bool) : (spendFree d b).coreFaults = d.coreFaults := by
  unfold spendFree; split <;> rfl
@[simp] theorem spendFree_claims (b : Bool) : (spendFree d b).claims = d.claims := by
  unfold spendFree; split <;> rfl
@[simp] theorem spendFree_claimQ (b : Bool) : (spendFree d b).claimQ = d.claimQ := by
  unfold spendFree; split <;> rfl
@[simp] theorem spendFree_codecs (b : Bool) : (spendFree d b).codecs = d.codecs := by
  unfold spendFree; split <;> rfl
@[simp] theorem spendFree_ctxs (b : Bool) : (spendFree d b).ctxs = d.ctxs := by
  unfold spendFree; split <;> rfl
@[simp] theorem spendFree_handles (b : Bool) : (spendFree d b).handles = d.handles := by
  unfold spendFree; split <;> rfl
@[simp] theorem spendFree_princ (b : Bool) : (spendFree d b).princ = d.princ := by
  unfold spendFree; split <;> rfl
@[simp] theorem spendFree_gateShut (b : Bool) : (spendFree d b).gateShut = d.gateShut := by
  unfold spendFree; split <;> rfl
@[simp] theorem spendFree_ports (b : Bool) : (spendFree d b).ports = d.ports := by
  unfold spendFree; split <;> rfl
@[simp] theorem spendFree_links (b : Bool) : (spendFree d b).links = d.links := by
  unfold spendFree; split <;> rfl
@[simp] theorem spendFree_heldPkts (b : Bool) : (spendFree d b).heldPkts = d.heldPkts := by
  unfold spendFree; split <;> rfl
@[simp] theorem spendFree_inbox (b : Bool) : (spendFree d b).inbox = d.inbox := by
  unfold spendFree; split <;> rfl
@[simp] theorem spendFree_mesh (b : Bool) : (spendFree d b).mesh = d.mesh := by
  unfold spendFree; split <;> rfl
@[simp] theorem spendFree_igReads (b : Bool) : (spendFree d b).igReads = d.igReads := by
  unfold spendFree; split <;> rfl
@[simp] theorem spendFree_groups (b : Bool) : (spendFree d b).groups = d.groups := by
  unfold spendFree; split <;> rfl
@[simp] theorem spendFree_out (b : Bool) : (spendFree d b).out = d.out := by
  unfold spendFree; split <;> rfl
@[simp] theorem spendFree_errLog (b : Bool) : (spendFree d b).errLog = d.errLog := by
  unfold spendFree; split <;> rfl
@[simp] theorem spendFree_resets (b : Bool) : (spendFree d b).resets = d.resets := by
  unfold spendFree; split <;> rfl
@[simp] theorem spendFree_vault (b : Bool) : (spendFree d b).vault = d.vault := by
  unfold spendFree; split <;> rfl
@[simp] theorem spendFree_proof (b : Bool) : (spendFree d b).proof = d.proof := by
  unfold spendFree; split <;> rfl
@[simp] theorem spendFree_holders (b : Bool) : (spendFree d b).holders = d.holders := by
  unfold spendFree; split <;> rfl
@[simp] theorem spendFree_lh (b : Bool) : (spendFree d b).lh = d.lh := by
  unfold spendFree; split <;> rfl
@[simp] theorem spendFree_igPeers (b : Bool) : (spendFree d b).igPeers = d.igPeers := by
  unfold spendFree; split <;> rfl
@[simp] theorem spendFree_igForm (b : Bool) : (spendFree d b).igForm = d.igForm := by
  unfold spendFree; split <;> rfl
@[simp] theorem spendFree_power (b : Bool) : (spendFree d b).power = d.power := by
  unfold spendFree; split <;> rfl
@[simp] theorem spendFree_reg (b : Bool) : (spendFree d b).reg = d.reg := by
  unfold spendFree; split <;> rfl
@[simp] theorem spendFree_rst (b : Bool) : (spendFree d b).rst = d.rst := by
  unfold spendFree; split <;> rfl
@[simp] theorem spendFree_recov (b : Bool) : (spendFree d b).recov = d.recov := by
  unfold spendFree; split <;> rfl
@[simp] theorem spendFree_host (b : Bool) : (spendFree d b).host = d.host := by
  unfold spendFree; split <;> rfl
@[simp] theorem spendFree_arbs (b : Bool) : (spendFree d b).arbs = d.arbs := by
  unfold spendFree; split <;> rfl

/-! ## What the shared operations do -/

theorem bump_zero (i s w : Nat) : d.bump i s w 0 = d := rfl

/-- A counter that is bumped gains `n`, up to the largest number of its width (R75); another object is as it was. -/
theorem ctr_bump_same (i s w n : Nat) (h : ctr d i s ≤ 2 ^ w - 1) : ctr (d.bump i s w n) i s = satAdd (2 ^ w - 1) (ctr d i s) n := by
  unfold Dev.bump
  split
  · rename_i hn; subst hn; unfold satAdd; omega
  · exact SMap.get_put_same ..

theorem ctr_bump_other (i s w n : Nat) {j u : Nat} (h : ob j u ≠ ob i s) : ctr (d.bump i s w n) j u = ctr d j u := by
  unfold Dev.bump
  split
  · rfl
  · exact SMap.get_put_other _ _ _ h

theorem find?_bump_other (i s w n : Nat) {k : Nat} (h : k ≠ ob i s) : SMap.find? (d.bump i s w n).objs k = SMap.find? d.objs k := by
  unfold Dev.bump
  split
  · rfl
  · exact SMap.find?_put_other _ _ h

theorem obj_bump_other (f : Fuses) (i s w n : Nat) {j u : Nat} (h : ob j u ≠ ob i s) : obj f (d.bump i s w n) j u = obj f d j u := by
  unfold obj; rw [find?_bump_other d i s w n h]

/-- What leaves by another way than the PCIe port leaves at once (R509). -/
theorem emit_plain (o : Out) (h : o.pcie = none) : d.emit o = { d with out := o :: d.out } := by
  unfold Dev.emit; rw [h]

/-- A frozen PCIe egress holds what would leave there (R515). -/
theorem emit_held (o : Out) (q : Ask) (h : o.pcie = some q) (hf : d.frozen 0x8000 = true) :
    d.emit o = { d with host := { d.host with heldOut := d.host.heldOut ++ [(d.stampNow, o)] } } := by
  unfold Dev.emit; simp only [h, hf, if_true]

theorem emit_sent (o : Out) (q : Ask) (h : o.pcie = some q) (hf : d.frozen 0x8000 = false) :
    d.emit o = (mboxLeft { d with out := o :: d.out } o).grant 0x8000 { q with stamp := d.stampNow } := by
  unfold Dev.emit; simp [h, hf]

/-- An event to a context that is neither OPEN nor RUNNING goes nowhere (R472). -/
theorem postEvent_dead (f : Fuses) (c h st k t a : Nat) (hl : (d.ctx c).live = false) : postEvent f d c h st k t a = (d, none) := by
  unfold postEvent; simp [hl]

/-- Completing a handle that no entry of the table holds, or that is complete, changes nothing (R470). -/
theorem completeHandle_absent (f : Fuses) (h st r : Nat) (hn : SMap.find? d.handles h = none) : completeHandle f d h st r = d := by
  unfold completeHandle; rw [hn]

theorem completeHandle_again (f : Fuses) (h st res : Nat) (r : HandleRec) (hf : SMap.find? d.handles h = some r)
    (hc : r.complete = true) : completeHandle f d h st res = d := by
  unfold completeHandle; simp [hf, hc]

/-- Completing a handle in flight leaves its record complete with the status and the result (R470), and every other record as it
was. -/
theorem completeHandle_done (f : Fuses) (h st res : Nat) (r : HandleRec) (hf : SMap.find? d.handles h = some r)
    (hc : r.complete = false) :
    ∃ ev, (completeHandle f d h st res).handles =
      d.handles.put h { r with complete := true, status := st, result := res, event := ev } := by
  unfold completeHandle
  simp only [hf, hc]
  split
  · rename_i h; exact absurd h (by decide)
  · split
    · exact ⟨_, by simp only [postEvent_handles, Dev.bump_handles]; rw [put_put]⟩
    · exact ⟨r.event, by simp⟩
where
  put_put {α : Type} (m : SMap α) (k : Nat) (v w : α) : SMap.put (SMap.put m k v) k w = SMap.put m k w := by
    induction m with
    | nil => simp [SMap.put]
    | cons p t ih =>
      obtain ⟨k', v'⟩ := p
      by_cases h1 : k < k'
      · simp [SMap.put, h1]
      · by_cases h2 : k = k'
        · subst h2; simp [SMap.put]
        · simp [SMap.put, h1, h2, ih]

/-- A thread in FAULT keeps its record (R132). -/
theorem faultThread_again (f : Fuses) (c : Nat) (t : Thr) (r : FaultRec) (h : ((d.core c).th t).state = .fault) :
    faultThread f d c t r = d := by
  unfold faultThread; simp [h]

/-- A thread that faults enters FAULT, with its status and its record, TIME in it (R131, R132). -/
theorem faultThread_thread (f : Fuses) (c : Nat) (t : Thr) (r : FaultRec) (h : ((d.core c).th t).state ≠ .fault) :
    (faultThread f d c t r).core c = (d.core c).setTh t { (d.core c).th t with
      state := .fault, status := r.status, fault := { r with time := d.now }, stopping := false } := by
  have e : ∀ a b : Dev, a.cores = b.cores → a.core c = b.core c := fun a b h => by unfold Dev.core; rw [h]
  unfold faultThread
  simp only [if_neg h]
  rw [e _ (d.setCore c ((d.core c).setTh t { (d.core c).th t with
    state := .fault, status := r.status, fault := { r with time := d.now }, stopping := false }))]
  · exact Dev.core_setCore_same ..
  · simp only [cmcEvent_cores]
    split <;> simp <;> split <;> rfl

theorem faultThread_other (f : Fuses) (c e : Nat) (t : Thr) (r : FaultRec) (he : e ≠ c) :
    (faultThread f d c t r).core e = d.core e := by
  by_cases h : ((d.core c).th t).state = .fault
  · rw [faultThread_again d f c t r h]
  · have ec : ∀ a b : Dev, a.cores = b.cores → a.core e = b.core e := fun a b h => by unfold Dev.core; rw [h]
    unfold faultThread
    simp only [if_neg h]
    rw [ec _ (d.setCore c ((d.core c).setTh t { (d.core c).th t with
      state := .fault, status := r.status, fault := { r with time := d.now }, stopping := false }))]
    · exact Dev.core_setCore_other d _ he
    · simp only [cmcEvent_cores]
      split <;> simp <;> split <;> rfl

/-- An update that fits is taken (R116); one that would pass FFFFh leaves the counter and faults the owning thread. -/
theorem addCounter_fits (f : Fuses) (c : Nat) (r : CtrRef) (a so st m : Nat) (h : (d.core c).counter r + a ≤ 0xFFFF) :
    addCounter f d c r a so st m = d.setCore c ((d.core c).setCounter r ((d.core c).counter r + a)) := by
  unfold addCounter; simp [h]

theorem addCounter_over (f : Fuses) (c : Nat) (r : CtrRef) (a so st m : Nat) (h : 0xFFFF < (d.core c).counter r + a) :
    addCounter f d c r a so st m = faultThread f d c (ownerOf r)
      { status := if r.credit then Status.creditOverflow else Status.tokenOverflow, source := so,
        resource := if r.credit then 3 else 2, stroke := st, index := r.idx, requested := a, limit := (d.core c).counter r,
        message := m } := by
  unfold addCounter; simp [show ¬ ((d.core c).counter r + a ≤ 65535) by omega]

@[simp] theorem signal_none (f : Fuses) (c st : Nat) : signal f d c none st = d := rfl

/-- A handle that is taken is in the table with its record (R470). -/
theorem takeHandle_record (c : Nat) (h : HandleRec) :
    SMap.find? (takeHandle d c h).1.handles (takeHandle d c h).2 = some h := SMap.find?_put_same ..

/-! ## The rows -/

/-- A row of any time leads to the effect and to what follows every command. -/
theorem anyTime_eq (g : Fuses → Dev → Dev) (s : State) : anyTime g s = .next { s with dev := finish s.fuses (g s.fuses s.dev) } := rfl

theorem whenReady_eq (g : Fuses → Dev → Dev) (s : State) (h : ready s.dev = true) : whenReady g s = anyTime g s := by
  unfold whenReady anyTime; simp [h]

theorem whenReady_rest (g : Fuses → Dev → Dev) (s : State) (h : ready s.dev = false) :
    whenReady g s = .next { s with dev := finish s.fuses s.dev } := by
  unfold whenReady anyTime; simp [h]

/-! ## The shape of a stroke row (R113, R123, R465) -/

theorem strokeGo_elsewhere (f : Fuses) (c : Nat) (t : Thr) (sel unit : Nat → Bool) (go : Nat → Dev)
    (h : strokeHere d c t sel = false) : strokeGo f d c t sel unit go = d := by
  unfold strokeGo; simp [h]

/-- The stroke issues. -/
theorem strokeGo_issues (f : Fuses) (c : Nat) (t : Thr) (sel unit : Nat → Bool) (go : Nat → Dev)
    (h : strokeHere d c t sel = true) (hr : ((d.core c).th t).recheck = false)
    (hw : waitsHold (d.core c) ((d.core c).word ((d.core c).th t).pc) = true)
    (hu : unit ((d.core c).word ((d.core c).th t).pc) = true) :
    strokeGo f d c t sel unit go = go ((d.core c).word ((d.core c).th t).pc) := by
  unfold strokeGo; simp [h, hr, hw, hu]

/-- The stroke waits. -/
theorem strokeGo_waits (f : Fuses) (c : Nat) (t : Thr) (sel unit : Nat → Bool) (go : Nat → Dev)
    (h : strokeHere d c t sel = true) (hr : ((d.core c).th t).recheck = false)
    (hw : (waitsHold (d.core c) ((d.core c).word ((d.core c).th t).pc) && unit ((d.core c).word ((d.core c).th t).pc)) = false) :
    strokeGo f d c t sel unit go = waitThread d c t := by
  unfold strokeGo; simp [h, hr, hw]

/-! ## Device memory (R220, R221, R224) -/

@[simp] theorem meshGrant_mem (a b act stamp : Nat) : (meshGrant d a b act stamp).mem = d.mem := by
  unfold meshGrant
  generalize (meshPath a b).zip (0 :: (meshPath a b).map Prod.snd) = l
  induction l generalizing d with
  | nil => rfl
  | cons x t ih => rw [List.foldl_cons, ih]; rfl

@[simp] theorem allocLine_bytes (f : Fuses) (u : Who) (line : Nat) (w : Bool) : (allocLine f d u line w).mem.bytes = d.mem.bytes := by
  unfold allocLine; dsimp only; (repeat' split) <;> simp

@[simp] theorem touchLine_bytes (f : Fuses) (u : Who) (line : Nat) (w o : Bool) : (touchLine f d u line w o).mem.bytes = d.mem.bytes := by
  unfold touchLine; dsimp only; (repeat' split) <;> simp

/-- Storing over device memory keeps its canonical form. -/
theorem memWf_writeRun (f : Fuses) (u : Who) (a : Nat) (l : List Byte) (h : memWf d.mem.bytes = true) :
    memWf (writeRun f d u a l).mem.bytes = true := by
  unfold writeRun
  generalize linesOf a l.length = ls
  induction ls generalizing d with
  | nil => exact h
  | cons x t ih =>
    rw [List.foldl_cons]
    apply ih
    dsimp only
    split
    · simpa using h
    · simpa using memWf_writeBytes _ _ _ h

theorem memWf_writeRuns (f : Fuses) (u : Who) (rs : List (Nat × Nat)) (l : List Byte) (h : memWf d.mem.bytes = true) :
    memWf (writeRuns f d u rs l).mem.bytes = true := by
  unfold writeRuns
  have key : ∀ (rs : List (Nat × Nat)) (p : Dev × List Byte), memWf p.1.mem.bytes = true →
      memWf (rs.foldl (fun (p : Dev × List Byte) r => (writeRun f p.1 u r.1 (p.2.take r.2), p.2.drop r.2)) p).1.mem.bytes = true := by
    intro rs
    induction rs with
    | nil => exact fun _ h => h
    | cons r t ih => exact fun p h => ih _ (memWf_writeRun p.1 f _ _ _ h)
  exact key rs (d, l) h

theorem memWf_serveLine (f : Fuses) (line : Nat) (w : TcWaiter) (h : memWf d.mem.bytes = true) :
    memWf (serveLine f d line w).mem.bytes = true := by
  unfold serveLine poisonRead
  split
  · dsimp only; split <;> simpa using h
  · simpa using memWf_writeBytes _ _ _ h

/-- The memory a reset leaves has the canonical form where the one before had it (R229, R230). -/
theorem memWf_clearedDev (f : Fuses) (k : RKind) (h : memWf d.mem.bytes = true) : memWf (clearedDev f d k).mem.bytes = true := by
  unfold clearedDev resetMem
  dsimp only
  split
  · exact h
  · rfl

/-- A Plate keeps its canonical form when a read of it meets errors (R105). -/
theorem memWf_freeWords (ws : List Nat) (v : Nat → List Byte) (m : List Host.Cell) (h : memWf m = true) :
    memWf (ws.foldl (fun m w => writeBytes m (8 * w) (v w)) m) = true := by
  induction ws generalizing m with
  | nil => exact h
  | cons w t ih => exact ih _ (memWf_writeBytes m _ _ h)

theorem memWf_meetUpset (c : Nat) (u : Upset) (rs : List (Nat × Nat)) (h : ∀ e, memWf (d.core e).plate = true) (e : Nat) :
    memWf ((meetUpset d c u rs).core e).plate = true := by
  have ec : ∀ (a b : Dev) (e : Nat), a.cores = b.cores → a.core e = b.core e := fun a b e h => by unfold Dev.core; rw [h]
  unfold meetUpset
  dsimp only
  split
  · rw [ec _ d e (Dev.bump_cores ..)]; exact h e
  · change memWf (SMap.get ({} : Core) (SMap.put _ c _) e).plate = true
    rw [SMap.get_put]
    split
    · apply memWf_freeWords
      rw [ec _ d c (Dev.bump_cores ..)]; exact h c
    · rw [Dev.bump_cores]; exact h e

end Sys2Proof.Machine
end

