-- ==== Sys2Proof/Laws/Quiet.lean ====
section
/-! SUPPORT. A block that owes nothing of its own does nothing when a command has had its effect. -/

namespace Sys2Proof.Machine

variable (f : Fuses) (d : Dev)

/-- A fold whose every step leaves the state is none. -/
theorem foldl_still {α β : Type} (g : α → β → α) (l : List β) (a : α) (h : ∀ b ∈ l, g a b = a) : l.foldl g a = a := by
  induction l with
  | nil => rfl
  | cons b t ih => rw [List.foldl_cons, h b (by simp)]; exact ih fun x hx => h x (by simp [hx])

/-- What holds of the default and of every entry of a map holds of what it gives. -/
theorem get_all {α : Type} (P : α → Prop) {z : α} (hz : P z) (m : SMap α) (k : Nat) (h : ∀ p ∈ m, P p.2) : P (SMap.get z m k) := by
  induction m with
  | nil => exact hz
  | cons q t ih =>
    unfold SMap.get
    split
    · exact h q (by simp)
    · exact ih fun p hp => h p (by simp [hp])

theorem serveMemory_still (h : quietMem d.mem = true) : serveMemory f d = d := by
  simp only [quietMem, Bool.and_eq_true, List.all_eq_true] at h
  have h1 : d.mem.banks.foldl (fun d p => serveBank f p.1 p.2.length d) d = d :=
    foldl_still _ _ _ fun p hp => by rw [List.isEmpty_iff.1 (h.1 p hp)]; rfl
  have h2 : d.mem.fills.map (fun p => (p.2.filter (fun x => !x.granted)).map (fun x => stackIdx f (256 * x.line))) =
      d.mem.fills.map (fun _ => []) := List.map_congr_left fun p hp => by
    rw [List.filter_eq_nil_iff.2 fun x hx => by simp [h.2 p hp x hx]]; rfl
  have h3 : ∀ l : List (Nat × List TcFill), (l.map (fun _ => ([] : List Nat))).flatten = [] := fun l => by induction l <;> simp_all
  unfold serveMemory
  dsimp only
  rw [h1, h2, h3]; rfl

theorem collArrive_still (h : quietTiles d = true) : collArrive d = d := by
  simp only [quietTiles, Bool.and_eq_true, List.all_eq_true] at h
  refine foldl_still _ _ _ fun m hm => ?_
  have := h.1.1.1 m hm
  cases hb : m.body <;> simp_all

theorem collGoAll_still (h : quietTiles d = true) : collGoAll f d = d := by
  simp only [quietTiles, Bool.and_eq_true, List.all_eq_true] at h
  unfold collGoAll
  rw [List.filter_eq_nil_iff.2 fun p hp => ?_]
  · rfl
  · have := h.1.1.2 p hp
    cases hc : p.2.coll <;> simp_all

theorem wdpGo_still (h : quietHost d.host = true) : wdpGo f d = d := by
  simp only [quietHost, Bool.and_eq_true] at h
  have h1 : wdpHeld f d = d := by unfold wdpHeld; simp [h]
  unfold wdpGo relaysGo
  rw [h1, List.isEmpty_iff.1 h.1.1.1.1.1.2]; rfl

theorem beatsGo_still (h : quietRecov d.recov = true) : beatsGo f d = d := by
  simp only [quietRecov, Bool.and_eq_true] at h
  unfold beatsGo
  split
  · rfl
  · simp [h.2, Option.isNone_iff_eq_none.1 h.1.2]

theorem vaultGo_still (h : d.vault.waits = []) : vaultGo f d = d := by
  unfold vaultGo
  split
  · rw [h]; show ({ d with vault := { d.vault with waits := [] } } : Dev) = d; rw [← h]
  · rfl

theorem proofGo_still (h : quietProof d.proof = true) (hi : quietTiles d = true) : proofGo f d = d := by
  simp only [quietProof, quietTiles, Bool.and_eq_true, List.all_eq_true, decide_eq_true_eq, List.isEmpty_iff] at h hi
  have h1 : bankAnswers f d = d := by
    unfold bankAnswers
    rw [List.filter_eq_nil_iff.2 fun q hq hc => by
      have := hi.2 q hq; simp_all]; rfl
  unfold proofGo
  rw [h1, h.1.1]
  show sealGo f (restoresGo f d) = d
  have h2 : restoresGo f d = d := by unfold restoresGo; rw [h.1.2]; rfl
  rw [h2]; unfold sealGo; simp [h.2]

theorem igGo_still (h : quietIg d = true) : igGo f d = d := by
  simp only [quietIg, Bool.and_eq_true, List.all_eq_true, Option.isNone_iff_eq_none] at h
  have h1 : igFormGo f d = d := by unfold igFormGo; rw [h.1.1]
  have h2 : settlePorts f d = d := by
    refine foldl_still _ _ _ fun p _ => if_neg ?_
    intro hc
    obtain ⟨o, ho, hp⟩ := List.any_eq_true.1 hc.2.2
    have := h.1.2 o ho
    simp_all
  have hl : ∀ p, (d.lhPort p).held = [] := fun p =>
    List.isEmpty_iff.1 (get_all (fun q : LhPort => q.held.isEmpty = true) rfl d.lh p h.2)
  have hh : ∀ x, (d.holder x).live = false := fun x => by
    have : (d.holder x).state = .unformed :=
      get_all (fun o : Holder => o.state = .unformed) rfl d.holders x fun p hp => by simpa using h.1.2 p hp
    simp [Holder.live, this]
  have h3 : [0, 1].foldl (heldFrames f) d = d := foldl_still _ _ _ fun p _ => by unfold heldFrames; simp [hl p]
  unfold igGo
  dsimp only
  rw [h1, h2, h3]
  exact foldl_still _ _ _ fun x _ => by unfold holderGo; simp [hh x]

theorem hostGo_still (h : quietHost d.host = true) :
    loadsGo f d = d ∧ fwsGo f d = d ∧ bar2Go f d = d ∧ commitGo f d = d ∧ closeGo f d = d := by
  simp only [quietHost, Bool.and_eq_true, List.isEmpty_iff] at h
  obtain ⟨⟨⟨⟨⟨⟨⟨_, _⟩, _⟩, h1⟩, h2⟩, h3⟩, h4⟩, h5⟩ := h
  refine ⟨?_, ?_, ?_, ?_, ?_⟩
  · unfold loadsGo; rw [h1]; rfl
  · unfold fwsGo; split
    · rfl
    · rw [h2]; rfl
  · unfold bar2Go; rw [h3]; rfl
  · unfold commitGo; rw [h4]; rfl
  · unfold closeGo; rw [h5]; rfl

theorem unmapsGo_still (h : quietCtxs d = true) : unmapsGo f d = d := by
  simp only [quietCtxs, Bool.and_eq_true, List.all_eq_true, Option.isNone_iff_eq_none] at h
  refine foldl_still _ _ _ fun p hp => ?_
  have : p.2.maps.filterMap Mapping.going = [] := List.filterMap_eq_nil_iff.2 fun m hm => h.1 p hp m hm
  rw [this]; rfl

theorem watchGo_still (h : quietRecov d.recov = true) (hc : d.coreFaults = []) :
    stopCheck f (pruneStalls f (autoWithdraw f d)) = d := by
  simp only [quietRecov, Bool.and_eq_true, List.isEmpty_iff, decide_eq_true_eq] at h
  obtain ⟨⟨⟨⟨hs, ht⟩, hf⟩, _⟩, _⟩ := h
  have h1 : autoWithdraw f d = d := by unfold autoWithdraw; simp [hc, hf]
  have h2 : pruneStalls f d = d := by unfold pruneStalls; simp [ht]
  rw [h1, h2]; unfold stopCheck; rw [hs]
  show ({ d with recov := { d.recov with stops := [] } } : Dev) = d
  rw [← hs]

theorem notifyAll_still (h : quietCtxs d = true) : notifyAll f d = d := by
  simp only [quietCtxs, Bool.and_eq_true, List.all_eq_true] at h
  have h4 : d.handles.filter (fun p => p.2.owesNotify) = [] :=
    List.filter_eq_nil_iff.2 fun p hp => by simpa using h.2 p hp
  have h5 : d.handles.map (fun p => if p.2.owesNotify then (p.1, { p.2 with notify := none }) else p) = d.handles := by
    refine (List.map_congr_left fun p hp => ?_).trans (List.map_id d.handles)
    have := h.2 p hp
    simp_all
  unfold notifyAll
  rw [h4, h5]; rfl

/-- At the end of a command a block that owes nothing of its own does nothing more. -/
theorem finish_of_quiet (h : quiet d = true) : finish f d = d := by
  simp only [quiet, Bool.and_eq_true] at h
  obtain ⟨⟨⟨⟨⟨⟨⟨hm, hh⟩, hr⟩, hp⟩, hi⟩, ht⟩, hc⟩, hv⟩ := h
  obtain ⟨h1, h2, h3, h4, h5⟩ := hostGo_still f d hh
  have hcf : d.coreFaults = [] := by
    simp only [quietTiles, Bool.and_eq_true, List.isEmpty_iff] at ht; exact ht.1.2
  unfold finish afterward
  simp only [serveMemory_still f d hm, collArrive_still d ht, collGoAll_still f d ht, vaultGo_still f d (List.isEmpty_iff.1 hv),
    wdpGo_still f d hh, beatsGo_still f d hr, proofGo_still f d hp ht, igGo_still f d hi, h1, h2, h3, h4, h5,
    unmapsGo_still f d hc, watchGo_still f d hr hcf, notifyAll_still f d hc]

end Sys2Proof.Machine
end

