-- ==== Sys2Proof/WellFormed.lean ====
section
/-! DEFINITION. Which commands are well formed: their operands name what a device can have.  A command that is not is sent by
nothing. -/

namespace Sys2Proof

/-- Cores 0 to 127 (R36), tiles 0 to 15, stacks 0 to 31 (R33). -/
def okCore (c : Nat) : Bool := decide (c < 128)
def okTile (t : Nat) : Bool := decide (t < 16)
def okStack (i : Nat) : Bool := decide (i < 32)

/-- The six torus ports (R317), the two long-haul ports (R389) and the two PCIe ports (R454). -/
def okPort (p : Nat) : Bool := decide (p < 6)
def okLhPort (p : Nat) : Bool := decide (p < 2)
def okPciePort (p : Nat) : Bool := decide (p < 2)

/-- Contexts 0 to 4,095 (R461); the principals are these, MGMT and untagged frames (R482). -/
def okCtx (g : Nat) : Bool := decide (g < 4096)
def okPrin (p : Nat) : Bool := decide (p < 4098)

/-- A writer: a context or MGMT, and a 32-bit SEQ (R485). -/
def okWriter (w : Writer) : Bool := decide (w.prin ≤ 4096 ∧ w.seq < 2 ^ 32)

/-- A function of the device (R456). -/
def okFunction (fn : Nat) : Bool := decide (fn < 256)

/-- Collective groups (R320), holders by X coordinate (R352), their counterparts (R353), axes and the links of a ring (R294). -/
def okGroup (g : Nat) : Bool := decide (g < 4096)
def okHolder (x : Nat) : Bool := decide (x < 256)
def okRank (j : Nat) : Bool := decide (j < 64)
def okAxis (a : Nat) : Bool := decide (a < 3)
def okLink (c : Nat) : Bool := decide (c < 256)

/-- The engines of a pair: the codec engines of a tile (R254), the cipher units (R400). -/
def okEngine (e : Nat) : Bool := decide (e < 2)

/-- A message of 128 bits (R116, R125). -/
def okWord (m : Nat) : Bool := decide (m < 2 ^ 128)

/-- A flit of 240 bytes (R296). -/
def okFlit (l : List Byte) : Bool := decide (l.length = 240)

/-- A collective packet: a header of 32 bytes and what follows it (R330). -/
def okMsg (l : List Byte) : Bool := decide (32 ≤ l.length)

/-- A frame of a long-haul port, not longer than 9,216 bytes (R366), and of the management port (R499). -/
def okFrame (l : List Byte) : Bool := decide (l.length ≤ 9216)
def okEthernet (l : List Byte) : Bool := decide (l.length ≤ 2048)

/-- What one PCIe write carries (R466). -/
def okTlp (l : List Byte) : Bool := decide (1 ≤ l.length ∧ l.length ≤ 4096)

/-- A write of a tile cache request lies in its line (R221). -/
def okStore (w : Option (Nat × List Byte)) : Bool :=
  match w with
  | some (o, l) => decide (o + l.length ≤ 256)
  | none => true

/-- Plate words that exist (R103). -/
def okUpset (u : Upset) : Bool := u.plateUe.all (fun w => decide (w < 1572864))

/-- An argument of `n` bytes, and the name of a Dictionary object (R480). -/
def okArg (n v : Nat) : Bool := decide (v < 256 ^ n)
def okObject (idx sub : Nat) : Bool := decide (idx < 65536 ∧ sub < 256)

/-- The command is well formed. -/
def wellFormed (i : Instr) : Bool :=
  match i with
  | .mma c u => okCore c && okUpset u
  | .mmaScan c u => okCore c && okUpset u
  | .cLoad c u => okCore c && okUpset u
  | .operandsFree c => okCore c
  | .drain c u => okCore c && okUpset u
  | .drainDone c => okCore c
  | .expandDecode c _ u => okCore c && okUpset u
  | .add c _ => okCore c
  | .sub c _ => okCore c
  | .mul c _ => okCore c
  | .fma c _ => okCore c
  | .max c _ => okCore c
  | .min c _ => okCore c
  | .abs c _ => okCore c
  | .neg c _ => okCore c
  | .cvt c _ => okCore c
  | .adds c _ => okCore c
  | .muls c _ => okCore c
  | .axpy c _ => okCore c
  | .exp2 c _ => okCore c
  | .log2 c _ => okCore c
  | .rcp c _ => okCore c
  | .rsqrt c _ => okCore c
  | .rsum c _ => okCore c
  | .rsumsq c _ => okCore c
  | .ramax c _ => okCore c
  | .apadd c _ => okCore c
  | .cmpgt c _ => okCore c
  | .sel c _ => okCore c
  | .vecStart c u => okCore c && okUpset u
  | .vecComplete v => okCore v.core
  | .adamwUpdate c u => okCore c && okUpset u
  | .momentumUpdate c u => okCore c && okUpset u
  | .updComplete c => okCore c
  | .load c _ => okCore c
  | .store c _ => okCore c
  | .copy c _ => okCore c
  | .put c _ => okCore c
  | .qsend c _ => okCore c
  | .qpop c _ => okCore c
  | .qflush c _ => okCore c
  | .moveStart c _ u => okCore c && okUpset u
  | .moveComplete c _ _ => okCore c
  | .wait c _ => okCore c
  | .set c _ => okCore c
  | .send c _ => okCore c
  | .claim c _ => okCore c
  | .fence c _ => okCore c
  | .syncBarrier c _ => okCore c
  | .claimServe tile => okTile tile
  | .claimReturn c _ => okCore c
  | .loop c _ => okCore c
  | .skip c _ => okCore c
  | .halt c _ => okCore c
  | .nop c _ => okCore c
  | .allgather c => okCore c
  | .reducescatter c => okCore c
  | .allreduce c => okCore c
  | .alltoall c => okCore c
  | .broadcast c => okCore c
  | .collBarrier c => okCore c
  | .collChunkDone c => okCore c
  | .build c => okCore c
  | .encode c => okCore c
  | .decode c => okCore c
  | .codecOpStart tile e u => okTile tile && okEngine e && okUpset u
  | .codecOpComplete tile e => okTile tile && okEngine e
  | .cntclr c _ => okCore c
  | .trace c _ => okCore c
  | .sysFault c _ => okCore c
  | .sysTime c _ => okCore c
  | .flagclr c _ => okCore c
  | .tokenCreditMessage m => okWord m
  | .queueWordMessage m => okWord m
  | .queueWordWrite c => okCore c
  | .tcRequest r a _ wr _ => decide (r.tile < 16) && decide (a ≤ 4) && okStore wr
  | .tcFillComplete _ _ _ => true
  | .retireListWrite => true
  | .retireGranule w granule => okWriter w && okArg 4 granule
  | .burnishGranule stack _ _ => okStack stack
  | .burnishNow w _ => okWriter w
  | .memCalibration => true
  | .refresh stack => okStack stack
  | .controllerReady stack _ => okStack stack
  | .cowCopy _ => true
  | .cowWriteAdmit => true
  | .dataFlit port raw => okPort port && okFlit raw
  | .nullFlit port raw => okPort port && okFlit raw
  | .flitNak port raw => okPort port && okFlit raw
  | .nakRepeat port => okPort port
  | .replayLimit port _ => okPort port
  | .flitIdent port raw => okPort port && okFlit raw
  | .flitProbe port raw _ _ => okPort port && okFlit raw
  | .flitEcho port raw _ => okPort port && okFlit raw
  | .laneReq port raw => okPort port && okFlit raw
  | .laneAck port raw => okPort port && okFlit raw
  | .laneSwitch port => okPort port
  | .laneSerWindow port _ _ _ => okPort port
  | .flitDown port raw => okPort port && okFlit raw
  | .lossOfSignal port _ _ => okPort port
  | .portEnable w port v => okWriter w && okPort port && okArg 1 v
  | .portReset w port => okWriter w && okPort port
  | .trainAttempt port _ => okPort port
  | .trainComplete port => okPort port
  | .ringStatus port => okPort port
  | .routeQuietExpiry axis link => okAxis axis && okLink link
  | .routeRestore w => okWriter w
  | .torusPacket port => okPort port
  | .groupForm w group => okWriter w && okArg 2 group
  | .groupDissolve w group => okWriter w && okArg 2 group
  | .formTimeout group => okGroup group
  | .collData core msg => okCore core && okMsg msg
  | .collAnchor core msg => okCore core && okMsg msg
  | .collForm core msg => okCore core && okMsg msg
  | .suspect core msg => okCore core && okMsg msg
  | .collProbe core msg => okCore core && okMsg msg
  | .reply core msg => okCore core && okMsg msg
  | .extend core msg => okCore core && okMsg msg
  | .collCommit core msg => okCore core && okMsg msg
  | .abandon core msg => okCore core && okMsg msg
  | .slow core msg => okCore core && okMsg msg
  | .hold core msg => okCore core && okMsg msg
  | .resume core msg => okCore core && okMsg msg
  | .commitReq core msg => okCore core && okMsg msg
  | .collBarrierPass core msg => okCore core && okMsg msg
  | .deadlineExpiry core _ => okCore core
  | .probeWaitExpiry group => okGroup group
  | .suspectRetryExpiry group => okGroup group
  | .slowSend group => okGroup group
  | .holdLimitExpiry group => okGroup group
  | .igForm w _ => okWriter w
  | .igFormTimeout => true
  | .igJoin w => okWriter w
  | .segment holder => okHolder holder
  | .roundEnd holder => okHolder holder
  | .release holder => okHolder holder
  | .lhEgress port _ => okLhPort port
  | .igSeg port frame => okLhPort port && okFrame frame
  | .igEnd port frame => okLhPort port && okFrame frame
  | .igAck port frame => okLhPort port && okFrame frame
  | .igNak port frame => okLhPort port && okFrame frame
  | .igReport port frame => okLhPort port && okFrame frame
  | .igAdmit port frame => okLhPort port && okFrame frame
  | .igCommit port frame => okLhPort port && okFrame frame
  | .igKeepalive port frame => okLhPort port && okFrame frame
  | .igState port frame => okLhPort port && okFrame frame
  | .join port frame => okLhPort port && okFrame frame
  | .segmentComplete holder sender _ _ => okHolder holder && okRank sender
  | .stateStreamComplete holder => okHolder holder
  | .nakWaitExpiry holder sender _ _ _ _ => okHolder holder && okRank sender
  | .endResend holder sender _ _ => okHolder holder && okRank sender
  | .reportDeadline holder _ => okHolder holder
  | .reportResend holder _ => okHolder holder
  | .admitWaitExpiry holder _ => okHolder holder
  | .keepaliveSend => true
  | .livenessExpiry holder rank => okHolder holder && okRank rank
  | .lhPortDown port => okLhPort port
  | .lhPortUp port => okLhPort port
  | .keyLoad w blob => okWriter w && decide (blob.length = 72)
  | .keyErase w slot => okWriter w && okArg 1 slot
  | .eraseAll w => okWriter w
  | .selftest w unit => okWriter w && okArg 1 unit
  | .selftestComplete _ => true
  | .cipherSeal ctx => okCtx ctx
  | .cipherOpen ctx => okCtx ctx
  | .cipherStart engine => okEngine engine
  | .cipherComplete _ _ => true
  | .vaultAlarm _ _ => true
  | .alarmRecheck _ => true
  | .proofStart w arg => okWriter w && okArg 32 arg
  | .proofAbort w => okWriter w
  | .restore w arg _ => okWriter w && okArg 12 arg
  | .boundaryCheck => true
  | .plateNote tile => okTile tile
  | .proofDrain tile _ => okTile tile
  | .proofAck _ => true
  | .sinkTimeout => true
  | .cpWrite => true
  | .regArm w arg => okWriter w && okArg 6 arg
  | .regReady port raw => okPort port && okFlit raw
  | .regWave port raw => okPort port && okFlit raw
  | .regReleased => true
  | .regTimeout => true
  | .pcieFailover _ _ => true
  | .failover w => okWriter w
  | .functionLevelReset fn => okFunction fn
  | .cmdDb port ctx _ => okPciePort port && okCtx ctx
  | .evtDb port ctx _ => okPciePort port && okCtx ctx
  | .mboxGo port ctx _ _ => okPciePort port && okCtx ctx
  | .commandFetch _ _ => true
  | .dict ctx _ => okCtx ctx
  | .loadProgram ctx => okCtx ctx
  | .coreStop ctx => okCtx ctx
  | .coreResume ctx => okCtx ctx
  | .coreRelease ctx => okCtx ctx
  | .coreFlush ctx => okCtx ctx
  | .coreReset ctx => okCtx ctx
  | .mapPages ctx => okCtx ctx
  | .unmapPages ctx => okCtx ctx
  | .nopCommand ctx => okCtx ctx
  | .ctxOpen w ctx => okWriter w && okCtx ctx
  | .ctxClose w ctx => okWriter w && okCtx ctx
  | .jobStart w ctx arg => okWriter w && okCtx ctx && okArg 16 arg
  | .jobEnd w ctx => okWriter w && okCtx ctx
  | .handleSweep w ctx => okWriter w && okCtx ctx
  | .handleRecord prin ctx => okPrin prin && okCtx ctx
  | .msixModeration ctx => okCtx ctx
  | .bar2Read port fn _ _ => okPciePort port && okFunction fn
  | .bar2Write port fn _ data => okPciePort port && okFunction fn && okTlp data
  | .bar2Base w fn v => okWriter w && okFunction fn && okArg 8 v
  | .wdpFrame torus port frame fcs => if torus then okPort port else okEthernet (frame ++ fcs)
  | .wdpRead => true
  | .wdpWrite _ => true
  | .wdpResponse => true
  | .remoteRetry => true
  | .registerWrite w idx sub _ _ => okWriter w && okObject idx sub
  | .commit w => okWriter w
  | .discard w v => okWriter w && okArg 1 v
  | .keyPromote w => okWriter w
  | .mgmtHandleRecord => true
  | .claimSet w arg => okWriter w && okArg 16 arg
  | .stateCheck w => okWriter w
  | .counterClear w core => okWriter w && okCore core
  | .updClear w core => okWriter w && okCore core
  | .discoveryReply => true
  | .plcaFallback => true
  | .plcaRestored => true
  | .freeze w v => okWriter w && okArg 1 v
  | .arbStuck _ _ _ => true
  | .railReport _ _ _ => true
  | .sensorRead _ _ _ => true
  | .thermAlarmRelease => true
  | .supplyDroop => true
  | .supplyRecover => true
  | .busbarHigh _ => true
  | .canary core _ => okCore core
  | .slewStep => true
  | .rootCap w v => okWriter w && okArg 2 v
  | .powerLimit w _ => okWriter w
  | .monitorRead _ => true
  | .planNow w _ => okWriter w
  | .agePeriod _ _ => true
  | .marginApplied => true
  | .powerOn => true
  | .perst _ _ => true
  | .rstin _ _ => true
  | .deviceReset w kind _ => okWriter w && okArg 1 kind
  | .supplyFault _ _ => true
  | .refclkLoss _ => true
  | .supplyRestart => true
  | .flashPulseEnd _ => true
  | .resetRelease => true
  | .startup _ => true
  | .refclkPresent _ => true
  | .fwUpdate w arg _ => okWriter w && okArg 16 arg
  | .fwSvnRaise w v => okWriter w && okArg 1 v
  | .heartbeatAdvance => true
  | .heartbeat port raw => okPort port && okFlit raw
  | .peerLost port => okPort port
  | .hbResetSend port => okPort port
  | .hbReset port raw _ _ => okPort port && okFlit raw
  | .escalate _ _ _ => true
  | .standbyHeartbeat => true
  | .cmcWatchdog _ _ _ _ => true
  | .standbyRestart => true
  | .unitStalled _ => true
  | .engineReset w unit => okWriter w && okArg 4 unit
  | .engineResetComplete _ => true
  | .coreWithdraw w core => okWriter w && okArg 1 core
  | .coreTest w core _ => okWriter w && okArg 1 core
  | .reinstate w core => okWriter w && okArg 1 core
  | .auxSupplyLoss => true
  | .standbyPerst => true
  | .neighbourSolicitation frame fcs => okEthernet (frame ++ fcs)
  | .ringDmaTimeout ctx => okCtx ctx

end Sys2Proof
end

