-- ==== Sys2Proof/Tests/Slice0.lean ====
section
/-! SUPPORT. The model against the spec's own worked examples and result tables, a term that each check of WellFormed refuses, and
for every statement with hypotheses a state and operands that meet them. -/

open Sys2Proof Sys2Proof.Machine Sys2Proof.Stmt

namespace Sys2Proof.Tests

set_option Elab.async false
set_option linter.unusedVariables false

/-! ## The spec's worked examples -/

def f32 (b : Nat) : Machine.Num := decodeFloat .f32 b

def ascii : List Byte := [0x31#8, 0x32#8, 0x33#8, 0x34#8, 0x35#8, 0x36#8, 0x37#8, 0x38#8, 0x39#8]

/-- 00, "reading a little-endian word". -/
theorem test_little_endian : leNat [0x34#8, 0x12#8, 0xC0#8, 0x0A#8] = 0x0AC01234 := by decide

/-- 02, "finding a core on a DV112". -/
def dv112 : Fuses := { coresPerTile := 7, hbm := 24, longHaul := true, enable := [0x7F, 0x7F, 0x7F, 0xDF] ++ List.replicate 12 0x7F }
theorem test_core_numbers : dv112.physOf 26 = 0x1E ∧ dv112.logOf 0x1E = 0x1A ∧ dv112.logOf 0x1D = 0xFF := by decide +kernel

/-- 03, "1.5 in F32 to AP": W, E and FLAGS; the bytes in the order of R11 and R58 (log entry 51). -/
theorem test_f32_to_ap : (f32 0x3FC00000).toAP = { w := 0x60 * 2 ^ 96, e := 0x18 } ∧
    (f32 0x3FC00000).toAP.toBytes = zeros 12 ++ [0x60#8, 0#8, 0#8, 0#8, 0x18#8, 0#8, 0#8, 0#8] := by decide +kernel

/-- 03, "a BS4 block whose first guess at the scale is too small". -/
theorem test_bs4_block :
    writePlanes .bs4 {} [] (([0x40E00000, 0xBF200000, 0x3F400000, 0x40200000].map f32 ++ List.replicate 28 (Machine.Num.fin false 0 0)).map Val.of) =
      ([0x96#8, 0x21#8] ++ zeros 14, [0x80#8], {}) := by decide +kernel

/-- 03, "F32 to F8E4 at a tie and at the top of the range". -/
theorem test_f8e4_rounding :
    [({}, 0, 0x3F580000), ({ rnd := 2 }, 0x7FFF, 0x3F580000), ({ rnd := 2 }, 0x8000, 0x3F580000), ({}, 0, 0x43E60000),
      ({}, 0, 0x43E80000), ({ sat := true }, 0, 0x43E80000), (({ rnd := 1 } : RC), 0, 0x43E80000)].map
        (fun p => toPlain .f8e4 p.1 p.2.1 (f32 p.2.2)) =
      [(0x36, {}), (0x35, {}), (0x36, {}), (0x7E, {}), (0x7F, { ovf := 1, nan := 1 }), (0x7E, { ovf := 1 }), (0x7E, {})] := by
  decide +kernel

/-- 04, "an F8E4 dot product of K = 8 in two chunks": the accumulator after each chunk, and 238.65625 drained to F32. -/
def laneMax (l : List Machine.Num) : Option Int := l.foldl (fun m x => maxExp m (exNum x)) none
def chunkAcc (acc : AP) (a b : List Nat) : AP :=
  let (a, b) := (a.map (decodeElem .f8e4), b.map (decodeElem .f8e4))
  accumulateChunk acc a b (pxOf (laneMax a) (laneMax b))
def chunk1 : AP := chunkAcc {} [0x34, 0xBA, 0x30, 0x20] [0x3C, 0x36, 0xC0, 0x44]
def chunk2 : AP := chunkAcc chunk1 [0x54, 0x98, 0x46, 0x38] [0x5A, 0x4C, 0xA8, 0x30]
theorem test_dot_product : chunk1 = { w := -19 * 2 ^ 95, e := 26 } ∧ chunk2 = { w := 7637 * 2 ^ 89, e := 32 } ∧
    (toPlain .f32 {} 0 chunk2.toNum).1 = 0x436EA800 := by decide +kernel

/-- 06, "two encodings": the LOOP stroke. -/
def loopWord : Nat := 0x8C0000C1 * 2 ^ 64 + 5
theorem test_loop_word : skClass loopWord = 5 ∧ skOp loopWord = 0 ∧ bits loopWord 65 64 = 1 ∧ bits loopWord 89 66 = 48 ∧
    bits loopWord 103 90 = 0x23 := by decide +kernel

/-- 06, "two encodings": the second stroke of the dot product. -/
def mmaWord : Nat := 0x0007701100408100 * 2 ^ 64 + 0x0000000221600300
theorem test_mma_word : skClass mmaWord = 0 ∧ skTctr mmaWord = 3 ∧ skTamt mmaWord = 2 ∧ skCamt mmaWord = 0 ∧
    skSig mmaWord = some ⟨true, 5⟩ ∧ skDsig mmaWord = some ⟨false, 7⟩ ∧ (mkMma {} mmaWord).init = 2 ∧ (mkMma {} mmaWord).last = true := by
  decide +kernel

/-- 07, "a sum of squares for clipping". -/
def squares : AP := (reduceAP ([0x40400000, 0xC0800000].map (fun b => (f32 b).mul (f32 b)))).1
theorem test_sum_of_squares : squares = { w := 0x64 * 2 ^ 96, e := 28 } ∧ (toPlain .f32 {} 0 squares.toNum).1 = 0x41C80000 := by
  decide +kernel
theorem test_rsqrt : (writeTrans .f32 {} 0 (transNum 0x13 (f32 0x41C80000))).1 = 0x3E4CCCCD := by decide +kernel

/-- R185, cases 1 and 2, and 07, "two drained elements". -/
theorem test_noise : noiseKey 0 0 0 0 = 0x5A0546AA ∧ noiseAt (noiseKey 0 0 0 0) 0 0 = 0x01B4 ∧ noiseAt (noiseKey 0 0 0 0) 0 1 = 0xC874 := by
  decide +kernel
theorem test_drained_elements : (toPlain .b16 { rnd := 2 } 0x01B4 (.fin false 257 (-8))).1 = 0x3F80 ∧
    (toPlain .b16 { rnd := 2 } 0xC874 (.fin false 257 (-8))).1 = 0x3F81 := by decide +kernel

/-- 09, "decoding an address on a DV112-24W". -/
theorem test_address : slotOf dv112 0x1234567AC0 = 11 ∧ slotStack dv112 11 = (11, 0) ∧ homeTile dv112 0x1234567AC0 = 11 ∧
    offsetOf dv112 0x1234567AC0 = 0xC22E4AC0 ∧ setKey dv112 (0x1234567AC0 / 256) = (11 * 16 + 0xA) * 512 + 0xE4 := by decide +kernel

/-- R216, the default bases on a DV128-32W. -/
theorem test_regions : (regionBases { coresPerTile := 8, hbm := 32, longHaul := true } {}) =
    [0x115E0000000, 0x115E0000000, 0x117E0000000, 0x11BE0000000, 0x11FE0000000, 0x11FEC000000, 0x11FF0000000] := by decide +kernel

/-- R242 and R299, the check values of the ASCII bytes "123456789". -/
theorem test_crc32c : crc32c ascii = 0xE3069283 ∧ crc32c (zeros 32) = 0x8A9136AA := by decide +kernel
theorem test_crc64 : crc64 ascii = 0x6C40DF5F0B497347 := by decide +kernel

/-- 10, "one 4 KiB sector coded": the sub-streams 0 and 1 under the codes of its lengths. -/
def sectorLengths : List Nat := (List.range 256).map (fun i =>
  if i = 0 then 1 else if i = 16 then 2 else if i = 1 then 3 else if 0xFD ≤ i then 10 else 11)
def sectorSource : List Byte := ((List.range 128).map (fun _ => [0x10#8, 1#8] ++ zeros 14 ++ [0x10#8, 1#8] ++ zeros 14)).flatten
def sectorCodes : List (List Bool) := codeBits sectorLengths
theorem test_sub_streams : subStream sectorCodes sectorSource 0 = List.replicate 32 0x55#8 ∧
    subStream sectorCodes sectorSource 1 = (List.replicate 16 [0xDB#8, 0xB6#8, 0x6D#8]).flatten := by decide +kernel

/-- 12, the default split of addresses, and "one probe". -/
def devAt (xsize : Nat) : Dev := { objs := [(ob 0x4000 0, 0x3A7C), (ob 0x4000 5, xsize)] }
theorem test_neighbour : neighbourAddr dv112 (devAt 16) 0 = some 0x3B7C ∧ neighbourAddr dv112 (devAt 11) 0 = some 0x307C ∧
    siteOf dv112 (devAt 16) 0x3A7C = 3 ∧ [0, 1, 2].map (coordOf dv112 (devAt 16) 0x3A7C) = [10, 7, 12] := by decide +kernel
theorem test_hop_delay : medianHop 0 (List.replicate 256 (185 * 16 - 648)) = 0x484 := by decide +kernel

/-- 13, "one BS8 element summed over three members". -/
def bs8Run : CollRun := { grp := 0, op := 1, stroke := 0, seq := 0, count := 32, ifmt := .bs8, ofmt := .ap, rc := {}, acc := 2,
                          chunk := 4096, sum := 0, src := {}, dst := {}, chtok := none, sig := none }
def bs8Rec : AncRec := { mx := 0x7C, mn := 0x78, nan := false }
def bs8Parts : List WireEl := [(0x60, 0x7A), (0x5A, 0x78), (0xD1, 0x7C)].map (fun p => contribution bs8Run bs8Rec p.1 p.2)
theorem test_bs8_sum : bs8Parts.map WireEl.s = [0x10000, 0x2800, -0x12000] ∧
    (collResult bs8Run bs8Rec (bs8Parts.foldl WireEl.add {})).2 = { w := 0x40 * 2 ^ 96, e := 0x13 } := by decide +kernel

/-- 21, "a re-plan that lowers ROOT": the TICK increment. -/
theorem test_tick : tickInc 4750 = 0xA1AF3 := by decide +kernel

/-- 24, "a shard that misses by 8 %". -/
def dv128 : Fuses := { coresPerTile := 8, hbm := 24, longHaul := true, enable := List.replicate 16 0xFF }
def shardPlan : List Byte := leBytes 8 80000000000 ++ leBytes 8 (20 * 2 ^ 30) ++ leBytes 4 16 ++ [0#8, 0#8, 1#8] ++ zeros 9
def shardReport : Nat × List Byte := stateReport dv128 { objs := [(ob (ctxIdx 0 0x3190) 0, leNat shardPlan)] } 0
def shardOption (i : Nat) : List Nat :=
  [field shardReport.2 (48 + 16 * i) 1, field shardReport.2 (49 + 16 * i) 1, field shardReport.2 (52 + 16 * i) 4,
    field shardReport.2 (56 + 16 * i) 8]
theorem test_state_check : shardReport.1 = 0x0501 ∧ field shardReport.2 2 2 = 5 ∧ field shardReport.2 24 8 = 0x111CD94280 ∧
    (List.range 5).map shardOption = [[1, 1, 0, 160000000000], [2, 0, 8, 8589934592], [3, 1, 18, 104027777777],
      [4, 1, 32, 309237645312], [5, 1, 0, 82500000000]] := by decide +kernel

/-- 19, "a clamped write through context 0's mailbox": the value, and the report. -/
def clampFrame : List Byte := [1#8, 2#8, 0#8, 1#8, 7#8] ++ zeros 23 ++ [0x10#8] ++ zeros 3 ++
  [0x30#8, 0x30#8, 0#8, 0#8, 0#8, 0#8, 2#8, 0#8, 0#8, 0#8, 0#8, 0#8, 0xE8#8, 3#8, 0#8, 0#8]
def mailboxHost : HostIf := { queue := [{ src := 0, addr := 0, bytes := clampFrame }] }
def mailboxDev : Dev :=
  { ctxs := [(0, { state := .opened, mboxState := 1 })], objs := [(ob 0xA000 0, 2)], vault := { state := .service }, host := mailboxHost }
def mailboxState : State := { State.reset with dev := mailboxDev }
def clampEntry : ReportEntry :=
  { idx := 0x3030, sub := 0, cause := 2, bit := 0, width := 16, requested := 0x3E8, applied := 0x2D0 }
theorem test_clamped_write : ∃ t, exec (.wdpWrite []) mailboxState = .next t ∧ obj t.fuses t.dev 0x3030 0 = 0x02D0 ∧
    (t.dev.prin 0).report = { seq := 7, status := 0, entries := [clampEntry] } ∧
    slice (t.dev.ctx 0).mboxResp 32 16 = [0x30#8, 0x30#8, 0#8, 0x10#8, 0#8, 0#8, 2#8, 0#8, 0#8, 0#8, 0#8, 0#8, 0xD0#8, 2#8, 0#8, 0#8] :=
  ⟨_, rfl, by decide +kernel⟩

/-! ## WellFormed: each check refuses an ill-formed command -/

def aWriter : Writer := { prin := 0, seq := 1 }
def flit0 : List Byte := zeros 240
theorem test_wf_accepts : ([.mma 127 {}, .dataFlit 5 flit0, .segment 255, .keyErase aWriter 11, .collData 0 (zeros 32)] : List Instr).all wellFormed = true := by
  decide +kernel
theorem test_wf_core : wellFormed (.add 128 .F) = false := by decide
theorem test_wf_upset : wellFormed (.mma 0 { plateUe := [1572864] }) = false := by decide
theorem test_wf_tile : wellFormed (.claimServe 16) = false := by decide
theorem test_wf_engine : wellFormed (.codecOpComplete 0 2) = false := by decide
theorem test_wf_word : wellFormed (.tokenCreditMessage (2 ^ 128)) = false := by decide
theorem test_wf_store : wellFormed (.tcRequest ⟨0, 0⟩ 0 0 (some (256, [0#8])) 0) = false := by decide
theorem test_wf_stack : wellFormed (.refresh 32) = false := by decide
theorem test_wf_port : wellFormed (.nakRepeat 6) = false := by decide
theorem test_wf_flit : wellFormed (.dataFlit 0 (zeros 239)) = false := by decide +kernel
theorem test_wf_axis : wellFormed (.routeQuietExpiry 3 0) = false := by decide
theorem test_wf_link : wellFormed (.routeQuietExpiry 0 256) = false := by decide
theorem test_wf_group : wellFormed (.formTimeout 4096) = false := by decide
theorem test_wf_msg : wellFormed (.collForm 0 (zeros 31)) = false := by decide
theorem test_wf_holder : wellFormed (.segment 256) = false := by decide
theorem test_wf_rank : wellFormed (.livenessExpiry 0 64) = false := by decide
theorem test_wf_lh_port : wellFormed (.lhPortUp 2) = false := by decide
theorem test_wf_frame : wellFormed (.igSeg 0 (zeros 9217)) = false := by decide +kernel
theorem test_wf_blob : wellFormed (.keyLoad aWriter (zeros 71)) = false := by decide +kernel
theorem test_wf_arg : wellFormed (.keyErase aWriter 256) = false := by decide
theorem test_wf_writer : wellFormed (.eraseAll { prin := 4097, seq := 0 }) = false := by decide
theorem test_wf_context : wellFormed (.cipherSeal 4096) = false := by decide
theorem test_wf_principal : wellFormed (.handleRecord 4098 0) = false := by decide
theorem test_wf_pcie_port : wellFormed (.cmdDb 2 0 0) = false := by decide
theorem test_wf_function : wellFormed (.functionLevelReset 256) = false := by decide
theorem test_wf_tlp : wellFormed (.bar2Write 0 0 0 []) = false := by decide
theorem test_wf_ethernet : wellFormed (.wdpFrame false 0 (zeros 2048) [0#8]) = false := by decide +kernel
theorem test_wf_object : wellFormed (.registerWrite aWriter 65536 0 0 []) = false := by decide

/-! ## States and operands that meet the hypotheses of the statements -/

/-- A READY device with core 0 granted to context 0. -/
def dev0 : Dev :=
  { ctxs := [(0, { state := .opened })], objs := [(ob 0x7000 9, 1), (ob 0xA000 0, 2)], vault := { state := .service } }

def st (d : Dev) : State := { State.reset with dev := d }

/-- Core 0 of it. -/
def kst (k : Core) : State := st { dev0 with cores := [(0, k)] }

/-- A core whose thread F stands at the first of these strokes. -/
def atF (l : SMap Nat) : Core := { f := { state := .run }, store := l, fLen := 2 }
def atB (l : SMap Nat) : Core := { b := { state := .run }, store := l, bLen := 2 }
def nopW : Nat := 0x35

def vop : VecOp :=
  { th := .F, stroke := 0, fn := 0, s1 := 0, s1x := 0, s2 := 4, s2x := 0, d := 8, dx := 0, f1 := .f32, f2 := .f32, fd := .f32,
    rc := {}, len := 1, stream := 0, scalar := 0, row0 := 0, col0 := 0, sig := none }

/-- An MMA stroke and its header with `kc` K-steps of F8E4M3 operands. -/
def mmaW : Nat := 8 * 2 ^ 64 + 10 * 2 ^ 78 + 4 * 2 ^ 92
def mmaHdr (kc : Nat) : Nat := 4 * 2 ^ 8 + 4 * 2 ^ 12 + 2 ^ 30 + 2 ^ 38 + kc * 2 ^ 46
def drec : DrainRec :=
  { stroke := 0, set := 0, rows := 1, cols := 1, fmt := .f32, rc := {}, orient := 0, out := 0, outScale := 0, stream := 0,
    row0 := 0, col0 := 0, dsig := none }
def mvop (op : Nat) : MoveOp := { op := op, stroke := 0, src := 0, dst := 32, len := 16, tgt := none, sig := none, act := 0 }
def codeOp : CodeOp :=
  { core := 0, stroke := 0, op := 1, srcMem := false, src := 0, dstMem := false, dst := 8192, recMem := false, recAt := 64,
    mapMem := false, mapAt := 0, len := 1, book := 0, sig := none }

theorem some_getD {α : Type} {o : Option α} (d : α) (h : o.isSome = true) : o = some (o.getD d) := by
  cases o with
  | none => cases h
  | some x => rfl

/-- A core whose next MMA stroke has a coded A operand. -/
def codedCore : Core := { atF [(0, mmaW), (1, nopW), (4, mmaHdr 32 + 2 ^ 16)] with
  plate := [(4, 0x01#8), (12, 0xEC#8), (13, 0x8A#8), (14, 0xCB#8), (15, 0x61#8), (16, 0x20#8), (20, 0x80#8), (21, 0x10#8),
            (32, 0xA3#8), (33, 0xD7#8), (34, 0x1B#8), (35, 0x4E#8), (40, 0x60#8), (41, 0x10#8), (44, 0x01#8), (4220, 0x52#8),
            (4221, 0xEB#8), (4222, 0xAF#8), (4223, 0x6D#8)] }
def codedOut : Expanded := expandChunk (readBook {} (kst codedCore).dev 0) (fun _ _ => false) (readBytes codedCore.plate 0 (codedMax 1)) 1

/-- Group 0 over cores 0 and 1 of the device. -/
def gdesc : Nat := 3 + 2 ^ 387 + 1000 * 2 ^ 416 + 2 ^ 448 + 2 ^ 464 + 1000 * 2 ^ 480
def grp1 : Group := { state := 1, epoch := 1, present := 3 }
def gst (k : Core) (g : Group) : State :=
  st { dev0 with cores := [(0, k)], groups := [(0, g)], objs := dev0.objs ++ [(ob 0x8010 0, gdesc)] }
def chdr : CollHdr := { grp := 0, epoch := 1, seq := 0, typ := 0, rank := 1 }
def crun (op : Nat) : CollRun :=
  { grp := 0, op := op, stroke := 0, seq := 0, count := 32, ifmt := .f32, ofmt := .f32, rc := {}, acc := 0, chunk := 16, sum := 0,
    src := {}, dst := { addr := 4096 }, chtok := none, sig := none }
/-- A collective packet that has come over the mesh, and the group with it. -/
def cpk (l : List Byte) : Nat × Packet := (16, { dest := 0, src := 0, kind := 6, act := 1, addr := 0, data := l, vc := 0 })
def gin (k : Core) (g : Group) (l : List Byte) : State := { gst k g with dev := { (gst k g).dev with inbox := [cpk l] } }

/-- A device whose tile cache holds line 0. -/
def tst (x : Nat) : State := st { dev0 with mem := { sets := [(setKey {} x, [⟨x, false⟩])] } }

/-- Port 0 of a device with two devices along X. -/
def pst (t : Port) : State :=
  st { dev0 with ports := [(0, { t with state := if t.state = .disabled then .up else t.state, credits := fullCredits })]
                 objs := dev0.objs ++ [(ob 0x4000 5, 2)] }
def ctl (code : Nat) (args : List Byte) : Flit := { typ := 1, body := slice (BitVec.ofNat 8 code :: args) 0 224 }
def identPeer (s : State) : Nat := withCoord s.fuses s.dev (devAddr s.fuses s.dev) 0 1
def torPkt : Packet := { dest := 0, src := 1, kind := 7, act := 4, addr := 0, data := [1#8], vc := 4 }
def torFlit : Flit := { typ := 0, vc := 4, sop := true, eop := true, body := slice torPkt.bytes 0 224 }
def ringPkt : Packet := { dest := 0, src := 1, kind := 8, act := 4, addr := 0, data := leBytes 2 0 ++ leBytes 2 0 ++ leBytes 2 1 ++ zeros 10, vc := 4 }

/-- A long-haul device. -/
def lst (d : Dev) : State := { st d with fuses := { longHaul := true } }
/-- Group 0 without an axis: core 0 alone. -/
def noAxis : Nat := 1 + 2 ^ 387
def wobj (o : SMap Nat) : State := st { dev0 with objs := dev0.objs ++ o }

/-- A KEY_LOAD blob: a zero key under the zero KDU. -/
def blob : List Byte := [1#8, 0#8, 0#8, 2#8] ++ zeros 12 ++ leBytes 56
  210239566905959310747212942906384186301427814973895338023571027401564798463540796168792266533569837709882512049694922676538199259346655

/-- Context 0 with 64 KiB of device memory at its address 0. -/
def ctx0 : Context := { state := .opened, maps := [⟨0, 0, 65536, true, false, none⟩] }
def cst (x : Context) (d : Dev) : State := st { d with ctxs := [(0, x)] }
/-- A ring entry of 128 bytes: its first eight, its object, and its body. -/
def entry (k flags : Nat) (b : List Byte) : FetchedCmd := ⟨slice (leBytes 8 (k + 256 * flags) ++ zeros 56 ++ b) 0 128, 2⟩
def est (e : FetchedCmd) (d : Dev) : State :=
  st { d with ctxs := [(0, { ctx0 with fetched := [e] })], handles := [(2, { entry := true })] }
/-- A SEAL (`op` 0) or OPEN descriptor of slot 4 without AAD. -/
def sealDesc (op : Nat) : List Byte :=
  leBytes 2 1 ++ leBytes 2 op ++ leBytes 4 4 ++ zeros 12 ++ leBytes 4 0 ++ leBytes 4 16 ++ zeros 4 ++ leBytes 8 0 ++ leBytes 8 0 ++
    leBytes 8 4096 ++ leBytes 8 8192
def slot4 : KeySlot := ⟨[1#8, 0#8, 4#8, 1#8] ++ zeros 12, zeros 32⟩
def sealOp : CipherOp :=
  { engine := 0, ctx := 0, handle := 2, openOp := false, slot := 4, iv := zeros 12, aad := [], src := [(0, 16)], dst := [(4096, 16)],
    tag := [(8192, 16)] }
def vdev (l : List CipherOp) : Dev := { dev0 with vault := { dev0.vault with ops := l, slots := [(4, slot4)] } }

/-- A CORE entry over core 0. -/
def coreEntry (op q : Nat) : FetchedCmd := entry 4 0 (leBytes 2 (op + 256 * q) ++ zeros 14 ++ leBytes 16 1)
/-- Context 0 with a CORE entry at the head and a core. -/
def kest (op q : Nat) (k : Core) : State := est (coreEntry op q) { dev0 with cores := [(0, k)] }
/-- A DICT entry with handle 1: the object of index idx and subindex sub, and the value b. -/
def dictEntry (idx sub : Nat) (b : List Byte) : FetchedCmd :=
  ⟨slice (leBytes 8 1 ++ leBytes 2 idx ++ leBytes 1 sub ++ zeros 53 ++ b) 0 128, 2⟩
/-- A load descriptor of core 0 whose F image is one NOP stroke at context address 4096. -/
def loadDesc : SMap Byte :=
  writeBytes [] 0 (leBytes 4 1 ++ leBytes 4 1 ++ leBytes 8 4096 ++ zeros 8 ++ leBytes 32
    0x4d8486a3fc0796221679df03f042ad2bec4cc59859501a64eb57f4a24f82a09a) ++ [(4096, 0x35#8)]
/-- A READ request of CLOCKS for the mailbox. -/
def readFrame : List Byte := [1#8, 1#8, 0#8, 1#8] ++ zeros 24 ++ leBytes 4 12 ++ leBytes 2 0xC000 ++ zeros 10
/-- A long-haul device of site 0 of sites 0 and 1 whose engine serves the holder at X 0. -/
def igd (h : Holder) : Dev :=
  { dev0 with
    ctxs := [(0, { state := .opened, maps := [⟨0, 0, 2 ^ 20, true, false, none⟩] })],
    objs := [(ob 0x3020 0, 1), (ob 0x4000 1, 1), (ob 0x5000 0x0A, 3), (ob 0x5010 0x0B, 2 ^ 20), (ob 0x5030 1, 4), (ob 0x5031 1, 4),
             (ob 0x5040 0, 4096), (ob 0x7000 9, 1), (ob 0xA000 0, 2)]
    holders := [(0, h)], lh := [(0, { up := true })], igPeers := [(256, igPeer)], vault := { state := .service, slots := [(4, slot4)] } }
where igPeer : List Byte := [1#8, 0#8] ++ leBytes 2 0x8000 ++ [1#8, 0#8] ++ leBytes 2 47104 ++ zeros 24
def hold0 : Holder := { state := .running, present := 3, coord := 1, rounds := [(0, {})] }
def igs (h : Holder) : State := lst (igd h)
/-- The header of a datagram of rank 1. -/
def ihdr (t pl : Nat) : IgHdr :=
  { typ := t, flags := 0, src := 0x8000, dst := 0, origin := 0x8000, epoch := 1, round := 0, seg := 0, group := 0, index := 0, k := 1,
    p := 0, len := 16, plen := pl, prefix_ := 0, seq := 0 }
def igBytes (h : IgHdr) (pl : List Byte) : List Byte :=
  h.toBytes ++ (gcmSeal (zeros 32) (slice h.toBytes 36 12) h.toBytes pl).1 ++ (gcmSeal (zeros 32) (slice h.toBytes 36 12) h.toBytes pl).2
/-- The frame that brings it to port 0. -/
def igFrame (h : IgHdr) (pl : List Byte) : List Byte :=
  lhFrame {} (igd hold0) 0 igd.igPeer h (gcmSeal (zeros 32) (slice h.toBytes 36 12) h.toBytes pl).1
    (gcmSeal (zeros 32) (slice h.toBytes 36 12) h.toBytes pl).2
def igBody (h : IgHdr) (pl : List Byte) : List Byte := (igFrame h pl).take ((igFrame h pl).length - 4)
/-- A post entry: kind, segment, NSEG, plane. -/
def post (kind seg nseg plane : Nat) : List Byte :=
  leBytes 4 1 ++ leBytes 4 kind ++ leBytes 4 0 ++ leBytes 2 seg ++ leBytes 2 nseg ++ leBytes 8 plane ++ zeros 8
def pigs (h : Holder) (e : List Byte) (o : SMap Nat) : State :=
  lst { igd h with mem := { bytes := writeBytes [] 0 e }, objs := o ++ (igd h).objs }
/-- The peer table at 0 and the IG block at 4096. -/
def cfgMem : List Host.Cell := writeBytes [(4104, 16#8), (4168, 16#8)] 0 igd.igPeer
def cfg (x : SMap Nat) : State := lst { igd {} with mem := { bytes := cfgMem }, objs := x ++ (igd {}).objs, holders := [(0, { coord := 1 })] }
theorem none_of {α : Type} {o : Option α} {P : α → Prop} (h : o.isNone = true) : ∀ q, o = some q → P q := by
  intro q e; subst e; cases h
/-- A region of the plan: kind, flags, address, length, elements. -/
def planEntry (k fl n a len : Nat) : List Byte := [BitVec.ofNat 8 k, BitVec.ofNat 8 fl] ++ zeros 2 ++ leBytes 4 n ++ leBytes 8 a ++ leBytes 8 len ++ zeros 8
/-- Context 0 with a plan of one region, granule 2, and a proof. -/
def prf (p : Proof) : State :=
  st { dev0 with ctxs := [(0, ctx0)], mem := { bytes := writeBytes [] 4096 (planEntry 1 1 0 8192 4096) }, proof := p, handles := [(9, {})]
                 objs := dev0.objs ++ [(ob (ctxIdx 0 0x9000) 0, 4096), (ob (ctxIdx 0 0x9000) 1, 1), (ob 0x9010 2, 4), (ob 0x7000 0x0C, 4)] }
def pitem : PItem := { region := 0, off := 0, gran := some 2, len := 4096, file := true, cp := false }
def draining : Proof := { state := 3, handle := 9, dest := 1, plan := [planEntry 1 1 0 8192 4096], left := [pitem] }
def cpPkt (src : Nat) : Packet :=
  { dest := 0, src := src, kind := 2, act := 2, addr := jobTop {} (wobj [(ob 0x3020 2, 1)]).dev + 64, data := [1#8], vc := 2 }
/-- Two devices along X, none along the others, with a barrier. -/
def rst (n : Nat) (r : Reg) : State :=
  st { dev0 with ports := [(0, { state := .up, credits := fullCredits })], reg := r, handles := [(9, {})]
                 objs := dev0.objs ++ [(ob 0x4000 5, 2), (ob 0x4000 6, 1), (ob 0x4000 7, 1), (ob 0xC000 2, n)] }
/-- A WDP frame. -/
def wdp (op fl cnt seq sid boot : Nat) (body : List Byte) : List Byte :=
  [1#8] ++ leBytes 1 op ++ leBytes 1 fl ++ leBytes 1 cnt ++ leBytes 4 seq ++ leBytes 8 sid ++ leBytes 4 boot ++ zeros 8 ++
    leBytes 2 body.length ++ zeros 2 ++ body
def wread (idx : Nat) : List Byte := leBytes 2 idx ++ zeros 10
def wwrite (idx sub v : Nat) : List Byte := leBytes 2 idx ++ leBytes 1 sub ++ zeros 3 ++ leBytes 2 1 ++ zeros 4 ++ leBytes 4 v
def wseal (l : List Byte) : List Byte := sealFrame (zeros 32) l
/-- The device with key slots 0 and 1 and one sender. -/
def wst (x : Sender) : State :=
  st { dev0 with vault := { dev0.vault with slots := [(0, slot4), (1, slot4)] }, host := { senders := [x] } }
def sender (high : Nat) : Sender := { id := 7, high := high, bitmap := 0, last := 0, addr := 0, cache := [] }
def mst (w : WdpIn) : State := st { dev0 with ctxs := [(0, { ctx0 with mboxState := 1 })], host := { queue := [w] } }
/-- A firmware image of 4,096 zero bytes behind its header. -/
def image : List Host.Cell :=
  writeBytes [] 0 (leBytes 4 0x5F0A1CA0 ++ leBytes 4 5 ++ zeros 4 ++ leBytes 4 4096 ++ leBytes 48
    0x74d7a82acfae1e4a35566fa1f709685864fc4eef4f7c735f51ff96429445c7abac2f4336fb2854c7b5d3fb3f3e9ae5c0)
def off (r : Rst) : State := st { ctxs := [(0, { state := .opened })], rst := r }
/-- A system with heartbeats. -/
def hst (t : Port) (b : SMap Beat) : State :=
  st { (pst t).dev with objs := (pst t).dev.objs ++ [(ob 0xA050 0, 1), (ob 0xA050 4, 1)], recov := { beats := b } }

/-- A WDP frame from port 5000 of fe80::9 to an address of the management port. -/
def hostIp : List Byte := [0xFE#8, 0x80#8] ++ zeros 13 ++ [9#8]
def hostEther (mac ip : List Byte) : List Byte :=
  let b := mac ++ [2#8, 0#8, 0#8, 0#8, 0#8, 9#8] ++ beBytes 2 0x86DD ++ ip
  b ++ ethFcs b
def hostFrame (mac dst l : List Byte) : List Byte :=
  hostEther mac (beBytes 4 (6 * 2 ^ 28) ++ beBytes 2 (l.length + 8) ++ [17#8, 64#8] ++ hostIp ++ dst ++
    udpPacket hostIp dst 5000 (obj {} dev0 0xE000 4) l)
def mgmtIn (l : List Byte) : List Byte := hostFrame (slice (Fuses.mac {}) 0 6) (linkLocal {}) l
def hostAddr : Nat := beNat hostIp + 2 ^ 128 * 5000 + 2 ^ 144 * 0x020000000009
/-- Its Neighbour Solicitation. -/
def solicit : List Byte :=
  let dst := solicitedNode {}
  let m := icmp6 hostIp dst [135#8, 0#8] (zeros 4 ++ linkLocal {})
  hostEther (multicastMac dst) (beBytes 4 (6 * 2 ^ 28) ++ beBytes 2 m.length ++ [58#8, 255#8] ++ hostIp ++ dst ++ m)

theorem witness_EmptyQueueIsACycle :
    ∃ s : State, s.pending = [] ∧ s.dev.rst.cur = none ∧ s.dev.power.trip = none :=
  ⟨st dev0, by decide +kernel⟩

theorem witness_AlignmentTruncatesTowardZero :
    (∃ (a : AP) (e2 : Int), e2 ≤ a.e) ∧
    (∃ (a : AP) (e2 : Int), a.e < e2 ∧ -(2 ^ 127) ≤ a.w ∧ a.w < 2 ^ 127) :=
  ⟨⟨{ w := 1, e := 4 }, 3, by decide +kernel⟩,
   ⟨{ w := -3, e := 4 }, 5, by decide +kernel⟩⟩

theorem witness_SignsOfZeroResults :
    (∃ (f : Fmt) (rc : RC) (n16 m : Nat) (neg : Bool) (e : Int), f ∈ floats ∧
      (toFloat f rc n16 (.fin neg m e)).1 % f.signBit = 0) ∧
    (∃ (f g : Fmt) (rc : RC) (n16 : Nat) (neg : Bool), f ∈ floats ∧ g ∈ floats) ∧
    (∃ (f : Fmt) (rc : RC) (n16 : Nat) (a : AP), f ∈ floats ∧ a.isFinite = true ∧ a.w = 0) ∧
    (∃ (f : Fmt) (rc : RC) (n16 : Nat) (x : Sys2Proof.Machine.Num), f ∈ floats ∧ decodeFloat f (toFloat f rc n16 x).1 = .nan) :=
  ⟨⟨.f16, {}, 0, 1, true, -40, by decide +kernel⟩,
   ⟨.f32, .f4, {}, 0, true, by decide +kernel⟩,
   ⟨.b16, {}, 0, {}, by decide +kernel⟩,
   ⟨.f8e4, {}, 0, .inf true, by decide +kernel⟩⟩

def s_VecStrokesRun_1 : State :=
  kst { vec := { tail := [{ op := vop, patches := [⟨8, [1#8]⟩], ev := {} }] } }

theorem witness_VecStrokesRun :
    (∃ p ∈ vecRows, ∃ (c : Nat) (t : Thr) (s : State), mayIssue s c t (fun w => skClass w == 1 && skOp w == 0 && bits w 125 120
      == p.1) ∧ gateOpen s.dev (s.fuses.tileOf c) = true ∧ (s.dev.core c).vec.accepts = true ∧
      vecContest (s.dev.core c) t = false ∧ (mkVecOp (s.dev.core c) t (word s c t)).len ≠ 0) ∧
    (∃ (c : Nat) (s : State) (o : VecOp) (rest : List VecOp), calm s ∧ (s.dev.core c).vec.queue = o :: rest ∧
      (s.dev.core c).badIn o.reads = none) ∧
    (∃ (c : Nat) (s : State) (r : VecRun) (rest : List VecRun), (s.dev.core c).vec.tail = r :: rest) ∧
    (∃ (c i : Nat) (s : State) (r : VecRun), calm s ∧ (s.dev.core c).vec.tail[i]? = some r ∧ r.op.sig = none ∧
      mayComplete ((s.dev.core c).vec.tail ++ (s.dev.core c).vec.cur.toList) i = true) :=
  ⟨⟨_, List.Mem.head _, 0, .F, kst (atF [(0, 1 + 4 * 2 ^ 106 + 0 * 2 ^ 120), (1, nopW), (4, 2 ^ 24)]), by decide +kernel⟩,
   ⟨0, kst { vec := { queue := [vop] } }, vop, [], by decide +kernel⟩,
   ⟨0, s_VecStrokesRun_1, { op := vop, patches := [⟨8, [1#8]⟩], ev := {} }, [], by decide +kernel⟩,
   ⟨0, 0, s_VecStrokesRun_1, { op := vop, patches := [⟨8, [1#8]⟩], ev := {} }, by decide +kernel⟩⟩

def s_MmaStrokesRun_1 : State :=
  kst { atF [(0, mmaW), (1, nopW), (4, mmaHdr 32)] with mma := { scan := some ⟨0, [some 0], [some 0], false⟩ } }

def s_MmaStrokesRun_2 : State :=
  kst (atF [(0, mmaW), (1, nopW), (4, mmaHdr 1)])

def s_MmaStrokesRun_3 : State :=
  kst (atF [(0, mmaW + 2 ^ 107), (1, nopW), (4, mmaHdr 0)])

def s_MmaStrokesRun_4 : State :=
  kst { mma := { feed := some ⟨mkMma codedCore mmaW, [], [], none, none, []⟩, waiting := [drec] } }

def s_MmaStrokesRun_5 : State :=
  kst { mma := { draining := some (drec, [⟨0, [1#8]⟩]), acc0 := [(0, { w := 1 })] } }

set_option maxRecDepth 30000 in
theorem witness_MmaStrokesRun :
    (∃ (c : Nat) (s : State), mayIssue s c .F (fun w => skClass w == 0 && skOp w == 0) ∧
      gateOpen s.dev (s.fuses.tileOf c) = true ∧
      let o := mkMma (s.dev.core c) (word s c .F)
      mmaReady (s.dev.core c) o = true ∧ o.empty = false ∧ (s.dev.core c).badIn o.feedRegions = none) ∧
    (∃ (c : Nat) (s : State) (o : MmaOp), calm s ∧ nextMma s.dev c = some o ∧ o.empty = false ∧ o.kc ≠ 0 ∧
      (s.dev.core c).mma.scan = none ∧ (s.dev.core c).badIn o.scanRegions = none) ∧
    (∃ (c : Nat) (s : State) (o : MmaOp), calm s ∧ nextMma s.dev c = some o ∧ o.empty = false ∧ o.kc = 0 ∧ o.init = 1 ∧
      (s.dev.core c).mma.scan = none ∧ (s.dev.core c).mma.waiting = [] ∧ (s.dev.core c).mma.draining = none ∧
      (s.dev.core c).mma.feedsInto o.set = false ∧ (s.dev.core c).badIn [(o.c, o.m * fmtBytes o.cf 128)] = none) ∧
    (∃ (c : Nat) (opB : Bool) (s : State) (o : MmaOp) (r : Expanded), calm s ∧ nextMma s.dev c = some o ∧ o.empty = false ∧
      o.kc ≠ 0 ∧ (if opB then o.bcomp else o.acomp) = true ∧ (if opB then (s.dev.core c).mma.expB else (s.dev.core c).mma.expA)
      = none ∧ (let x := if opB then o.bf else o.af; let a := if opB then o.b else o.a; let n := o.kc * fmtBytes x 128 / 4096;
      expandChunk (readBook s.fuses s.dev ((ctxOf s.dev c).getD 4096)) (fun o' l => ((s.dev.core c).badWord (a + o') l).isSome)
      (expandPlane s.fuses s.dev c a n) n = r) ∧ r.stop = none ∧ (∀ b,
      r.book = some b → entryReady s.fuses s.dev { tile := s.fuses.tileOf c, act := 0, stamp := s.dev.stampNow } ((ctxOf s.dev
      c).getD 4096) b = true)) ∧
    (∃ (c : Nat) (s : State) (r : FeedRec), calm s ∧ (s.dev.core c).mma.feed = some r ∧ r.op.sig = none) ∧
    (∃ (c : Nat) (s : State) (r : DrainRec) (rest : List DrainRec), calm s ∧ (s.dev.core c).mma.draining = none ∧
      (s.dev.core c).mma.waiting = r :: rest ∧ r.feeding = false ∧ (s.dev.core c).mma.poisoned r.set = false) ∧
    (∃ (c : Nat) (s : State) (r : DrainRec) (ps : List Patch), calm s ∧ (s.dev.core c).mma.draining = some (r, ps) ∧
      (s.dev.core c).mma.poisoned r.set = false ∧ r.dsig = none) :=
  ⟨⟨0, s_MmaStrokesRun_1, by decide +kernel⟩,
   ⟨0, s_MmaStrokesRun_2, mkMma ((s_MmaStrokesRun_2).dev.core 0) mmaW, by decide +kernel⟩,
   ⟨0, s_MmaStrokesRun_3, mkMma ((s_MmaStrokesRun_3).dev.core 0) (mmaW + 2 ^ 107), by decide +kernel⟩,
   ⟨0, false, kst codedCore, mkMma codedCore mmaW, codedOut, by decide +kernel, by decide +kernel, by decide +kernel,
     by decide +kernel, by decide +kernel, by decide +kernel, by decide +kernel, by decide +kernel, none_of (by decide +kernel)⟩,
   ⟨0, s_MmaStrokesRun_4, ⟨mkMma codedCore mmaW, [], [], none, none, []⟩, by decide +kernel⟩,
   ⟨0, kst { mma := { waiting := [{ drec with feeding := false }] } }, { drec with feeding := false }, [], by decide +kernel⟩,
   ⟨0, s_MmaStrokesRun_5, drec, [⟨0, [1#8]⟩], by decide +kernel⟩⟩

def s_UpdStrokeRuns_1 : State :=
  kst { upd := some { stroke := 0, sig := none, patches := [⟨0, [1#8]⟩], ev := {} } }

theorem witness_UpdStrokeRuns :
    (∃ p ∈ ([(0, .adamwUpdate), (1, .momentumUpdate)] : List (Nat × (Nat → Upset → Instr))), ∃ (c : Nat) (s : State),
      mayIssue s c .F (fun w => skClass w == 2 && skOp w == p.1) ∧ gateOpen s.dev (s.fuses.tileOf c) = true ∧
      (s.dev.core c).upd = none) ∧
    (∃ (c : Nat) (s : State) (r : UpdRun), calm s ∧ (s.dev.core c).upd = some r ∧ r.sig = none) :=
  ⟨⟨_, List.Mem.head _, 0, kst (atF [(0, 2 + 16 * 0), (1, nopW)]), by decide +kernel⟩,
   ⟨0, s_UpdStrokeRuns_1, { stroke := 0, sig := none, patches := [⟨0, [1#8]⟩], ev := {} }, by decide +kernel⟩⟩

def s_MoveStrokesRun_1 : State :=
  st { dev0 with ctxs := [(0, { state := .opened, maps := [⟨0, 0, 65536, true, true, none⟩] })],
                 cores := [(0, { movF := [mvop 0] })] }

theorem witness_MoveStrokesRun :
    (∃ p ∈ moveRows, ∃ (c : Nat) (t : Thr) (s : State), mayIssue s c t (fun w => skClass w == 3 && skOp w == p.1) ∧
      ((s.dev.core c).mov t).length < 4 ∧ (t = .B → (s.dev.core c).coll = none) ∧
      ((mkMove s.fuses s.dev (s.dev.core c) t (word s c t)).empty = false ∨ (s.dev.core c).mov t ≠ [])) ∧
    (∃ (c : Nat) (t : Thr) (s : State) (m : MoveOp) (rest : List MoveOp) (rs : List (Nat × Nat)), calm s ∧
      (s.dev.core c).mov t = m :: rest ∧ m.started = false ∧ m.op = 0 ∧ m.len ≠ 0 ∧
      heldRuns s.dev ((ctxOf s.dev c).getD 4096) false m.src m.len = some rs ∧
      rs.all (runReady s.fuses s.dev (moveWho s.fuses c m)) = true) ∧
    (∃ (c : Nat) (t : Thr) (s : State) (m : MoveOp) (rest : List MoveOp), calm s ∧ (s.dev.core c).mov t = m :: rest ∧
      m.started = false ∧ (m.op = 1 ∨ m.op = 2) ∧ m.len ≠ 0 ∧ m.tgt = none ∧ (s.dev.core c).badWord m.src m.len = none) ∧
    (∃ (c : Nat) (t : Thr) (s : State) (m : MoveOp) (rest : List MoveOp), calm s ∧ (s.dev.core c).mov t = m :: rest ∧
      m.started = true ∧ (m.op = 0 ∨ m.op = 2) ∧ m.ue = none ∧ m.tgt = none ∧ m.sig = none ∧ m.awaiting = 0 ∧ m.result = 0) :=
  ⟨⟨_, List.Mem.head _, 0, .B, kst (atB [(0, 3 + 16 * 0 + 4 * 2 ^ 64 + 5 * 2 ^ 78 + 0x3FFF * 2 ^ 92 + 2 ^ 106), (1, nopW)]),
     by decide +kernel⟩,
   ⟨0, .F, s_MoveStrokesRun_1, mvop 0, [], [(0, 16)], by decide +kernel⟩,
   ⟨0, .F, kst { movF := [mvop 1] }, mvop 1, [], by decide +kernel⟩,
   ⟨0, .F, kst { movF := [{ mvop 0 with started := true, data := [1#8] }] }, { mvop 0 with started := true, data := [1#8] },
     [], by decide +kernel⟩⟩

def s_ClaimIsAFetchAndAdd_1 : State :=
  st { dev0 with cores := [(0, { f := { state := .run, claiming := true } })], claimQ := [(0, [⟨0, .F, 0, 1, 5, false⟩])] }

def s_ClaimIsAFetchAndAdd_2 : State :=
  kst { atF [(0, 4 + 16 * 3 + 2 ^ 80 + 5 * 2 ^ 98), (1, nopW)] with f := { state := .run, claiming := true,
                                                                           claimRet := some 4 } }

theorem witness_ClaimIsAFetchAndAdd :
    (∃ (c : Nat) (t : Thr) (s : State), mayIssue s c t (isSync 3)) ∧
    (∃ (tile : Nat) (s : State) (r : ClaimReq) (rest : List ClaimReq), calm s ∧ SMap.get [] s.dev.claimQ tile = r :: rest ∧
      (SMap.get {} s.dev.claims r.ctr).group = none ∧ s.dev.proof.state ≠ 1 ∧ r.lost = false) ∧
    (∃ (c : Nat) (t : Thr) (s : State) (v : Nat), calm s ∧ ((s.dev.core c).th t).claimRet = some v ∧
      ((s.dev.core c).th t).claiming = true ∧ ((s.dev.core c).th t).loops = []) :=
  ⟨⟨0, .F, kst (atF [(0, 4 + 16 * 3 + 2 ^ 80 + 5 * 2 ^ 98), (1, nopW)]), by decide +kernel⟩,
   ⟨0, s_ClaimIsAFetchAndAdd_1, ⟨0, .F, 0, 1, 5, false⟩, [], by decide +kernel⟩,
   ⟨0, .F, s_ClaimIsAFetchAndAdd_2, 4, by decide +kernel⟩⟩

theorem witness_CtrlStrokesPassControl :
    (∃ (c : Nat) (t : Thr) (s : State), mayIssue s c t (isCtrl 0)) ∧
    (∃ (c : Nat) (t : Thr) (s : State), mayIssue s c t (isCtrl 1)) ∧
    (∃ (c : Nat) (t : Thr) (s : State), mayIssue s c t (isCtrl 2)) ∧
    (∃ (c : Nat) (t : Thr) (s : State), mayIssue s c t (isCtrl 3)) :=
  ⟨⟨0, .F, kst (atF [(0, 5 + 3 * 2 ^ 66 + 2 ^ 90), (1, nopW)]), by decide +kernel⟩,
   ⟨0, .B, kst (atB [(0, 5 + 16), (1, nopW)]), by decide +kernel⟩,
   ⟨0, .F, kst (atF [(0, 5 + 32), (1, nopW)]), by decide +kernel⟩,
   ⟨0, .F, kst (atF [(0, nopW), (1, nopW)]), by decide +kernel⟩⟩

def s_SysStrokesAct_1 : State :=
  kst { atF [(0, 8 + 64 + 15 * 2 ^ 64), (1, nopW)] with f := { state := .run, flags := { claimOut := true } } }

theorem witness_SysStrokesAct :
    (∃ (c : Nat) (t : Thr) (s : State), mayIssue s c t (isSys 0)) ∧
    (∃ (c : Nat) (t : Thr) (s : State), mayIssue s c t (isSys 1)) ∧
    (∃ (c : Nat) (t : Thr) (s : State), mayIssue s c t (isSys 2)) ∧
    (∃ (c : Nat) (t : Thr) (s : State), mayIssue s c t (isSys 3)) ∧
    (∃ (c : Nat) (t : Thr) (s : State), mayIssue s c t (isSys 4)) :=
  ⟨⟨0, .F, kst (atF [(0, 8), (1, nopW)]), by decide +kernel⟩,
   ⟨0, .F, kst (atF [(0, 8 + 16 + 7 * 2 ^ 64), (1, nopW)]), by decide +kernel⟩,
   ⟨0, .F, kst (atF [(0, 8 + 32 + 7 * 2 ^ 64), (1, nopW)]), by decide +kernel⟩,
   ⟨0, .F, kst (atF [(0, 8 + 48 + 4 * 2 ^ 64), (1, nopW), (4, 64 * 256)]), by decide +kernel⟩,
   ⟨0, .F, s_SysStrokesAct_1, by decide +kernel⟩⟩

def s_CodeStrokesRun_1 : State :=
  st { dev0 with codecs := [(0, { run := some { op := codeOp, outs := [⟨false, 0, 0, [1#8]⟩] } })] }

theorem witness_CodeStrokesRun :
    (∃ p ∈ ([(0, .build), (1, .encode), (2, .decode)] : List (Nat × (Nat → Instr))), ∃ (c : Nat) (s : State),
      mayIssue s c .F (fun w => skClass w == 7 && skOp w == p.1) ∧ gateOpen s.dev (s.fuses.tileOf c) = true ∧
      (s.dev.engine (codeEngine s.fuses c (word s c .F))).accepts = true) ∧
    (∃ (tile e : Nat) (s : State) (o : CodeOp) (rest : List CodeOp), calm s ∧ (s.dev.engine (2 * tile + e)).run = none ∧
      (s.dev.engine (2 * tile + e)).queue = o :: rest ∧ s.dev.resets = [] ∧ o.srcMem = false ∧ o.seg = none ∧
      let r := runCode s.fuses s.dev ((ctxOf s.dev o.core).getD 4096) o
      r.books.all (entryReady s.fuses s.dev (engineWho tile e o.stamp) ((ctxOf s.dev o.core).getD 4096)) = true) ∧
    (∃ (tile e : Nat) (s : State) (r : CodeRun), calm s ∧ (s.dev.engine (2 * tile + e)).run = some r ∧ r.fault = 0 ∧
      r.outs.all (fun o => !o.mem) = true ∧ r.op.sig = none ∧ r.op.seg = none) :=
  ⟨⟨_, List.Mem.head _, 0, kst (atF [(0, 7 + 16 * 0 + 4 * 2 ^ 64 + 5 * 2 ^ 78 + 2 ^ 92), (1, nopW)]), by decide +kernel⟩,
   ⟨0, 0, st { dev0 with codecs := [(0, { queue := [codeOp] })] }, codeOp, [], by decide +kernel⟩,
   ⟨0, 0, s_CodeStrokesRun_1, { op := codeOp, outs := [⟨false, 0, 0, [1#8]⟩] }, by decide +kernel⟩⟩

def s_MessagesReachACore_1 : State :=
  st { dev0 with cores := [(0, atF [])], mesh := [⟨0, 0, 4, 0, .token 1⟩] }

def s_MessagesReachACore_2 : State :=
  st { dev0 with cores := [(0, { atF [] with acceptRemote := true, qcfg := [⟨0, 0, 0, true⟩, {}, {}, {}] })],
                 mesh := [⟨0, 0, 4, 0, .word (2 ^ 97 + 2 ^ 64 + 1)⟩] }

def s_MessagesReachACore_3 : State :=
  kst { atF [] with qcfg := [⟨0, 0, 0, true⟩, {}, {}, {}], qport := some ⟨0, ⟨1, 0, 0, 0⟩, 0, 77⟩ }

theorem witness_MessagesReachACore :
    (∃ (m : Nat) (s : State) (x : MeshMsg), calm s ∧ meshHead s.dev (.token m) = some x ∧
      destRefuses s.fuses s.dev (bits m 30 24) (bits m 79 64) = false ∧ bit m 31 = false ∧ bits m 63 51 = 0 ∧
      bits m 127 109 = 0 ∧ (bit m 23 = true → bits m 22 16 < 64) ∧
      let r : CtrRef := { credit := bit m 23, idx := bits m 22 16 }
      0 < (s.dev.core (bits m 30 24)).counter r + bits m 15 0 ∧ (s.dev.core (bits m 30 24)).counter r + bits m 15 0 ≤ 0xFFFF) ∧
    (∃ (m : Nat) (s : State), calm s ∧ meshHead s.dev (.token m) = none) ∧
    (∃ (m : Nat) (s : State) (y : MeshMsg), calm s ∧ meshHead s.dev (.word m) = some y ∧
      let c := bits m 104 98
      let q := bits m 96 95
      let p := msgProducer m
      let x := (s.dev.core c).queue q
      destRefuses s.fuses s.dev c p.dev = false ∧ bits m 127 108 = 0 ∧ (s.dev.core c).qport = none ∧
        ((s.dev.core c).qcfgOf q).en = true ∧ bit m 97 = true ∧ bits m 6 0 ≠ 0 ∧ bits m 6 0 ≤ 64 ∧ bits m 15 7 = 0 ∧
        x.marks = [] ∧ x.items = [] ∧ bits m 6 0 ≤ ((s.dev.core c).qcfgOf q).size ∧ (s.dev.core c).queues.length = 4 ∧
        p.dev ≠ devAddr s.fuses s.dev) ∧
    (∃ (c : Nat) (s : State) (w : QWord), calm s ∧ (s.dev.core c).qport = some w ∧ ((s.dev.core c).queue w.queue).items = []) :=
  ⟨⟨1, s_MessagesReachACore_1, ⟨0, 0, 4, 0, .token 1⟩, by decide +kernel⟩,
   ⟨2, s_MessagesReachACore_1, by decide +kernel⟩,
   ⟨2 ^ 97 + 2 ^ 64 + 1, s_MessagesReachACore_2, ⟨0, 0, 4, 0, .word (2 ^ 97 + 2 ^ 64 + 1)⟩, by decide +kernel⟩,
   ⟨0, s_MessagesReachACore_3, ⟨0, ⟨1, 0, 0, 0⟩, 0, 77⟩, by decide +kernel⟩⟩

def s_SyncStrokesIssue_1 : State :=
  st { dev0 with cores := [(0, atF [(0, 4 + 80), (1, nopW)])], objs := dev0.objs ++ [(ob 0xC000 3, 1)] }

theorem witness_SyncStrokesIssue :
    (∃ (c : Nat) (t : Thr) (s : State), calm s ∧ strokeHere s.dev c t (isCtrl 3) = true ∧
      ((s.dev.core c).th t).recheck = false ∧ waitsHold (s.dev.core c) (word s c t) = false) ∧
    (∃ (c : Nat) (t : Thr) (s : State), mayIssue s c t (isSync 0)) ∧
    (∃ (c : Nat) (t : Thr) (s : State), mayIssue s c t (isSync 4) ∧ outstanding s.dev c t = false) ∧
    (∃ (c : Nat) (t : Thr) (s : State), mayIssue s c t (isSync 1) ∧ bits (word s c t) 79 64 ≠ 0) ∧
    (∃ (c : Nat) (t : Thr) (s : State), mayIssue s c t (isSync 2) ∧ bit (word s c t) 95 = true ∧ devAddr s.fuses s.dev < 65536) ∧
    (∃ (c : Nat) (t : Thr) (s : State), mayIssue s c t (isSync 5) ∧ ctr s.dev 0xC000 3 ≠ ((s.dev.core c).th t).mark) :=
  ⟨⟨0, .F, kst (atF [(0, nopW + 2 ^ 32), (1, nopW)]), by decide +kernel⟩,
   ⟨0, .F, kst { atF [(0, 4 + 2 ^ 32), (1, nopW)] with tokens := [(0, 1)] }, by decide +kernel⟩,
   ⟨0, .F, kst (atF [(0, 4 + 64), (1, nopW)]), by decide +kernel⟩,
   ⟨0, .F, kst (atF [(0, 4 + 16 + 5 * 2 ^ 64), (1, nopW)]), by decide +kernel⟩,
   ⟨0, .F, kst (atF [(0, 4 + 32 + 2 ^ 64 + 2 ^ 95), (1, nopW)]), by decide +kernel⟩,
   ⟨0, .F, s_SyncStrokesIssue_1, by decide +kernel⟩⟩

def s_CollectivesRun_1 : State :=
  gst { coll := some { crun 0 with data := true, finished := [(0, 64)] } } grp1

theorem witness_CollectivesRun :
    (∃ p ∈ collRows, ∃ (c : Nat) (s : State), mayIssue s c .B (fun w => skClass w == 6 && skOp w == p.1) ∧
      (s.dev.core c).coll = none ∧ (s.dev.core c).movB = [] ∧ groupUsable s.fuses s.dev ((ctxOf s.dev c).getD 4096) (bits (word
      s c .B) 75 64) c = true) ∧
    (∃ (c : Nat) (s : State) (r : CollRun) (g : Ring) (e n : Nat), calm s ∧ (s.dev.core c).coll = some r ∧
      ringOf s.fuses s.dev r.grp c = some g ∧ r.data = true ∧ r.op ≠ 5 ∧
      (outChunks (groupDesc s.fuses s.dev r.grp) r g)[r.next]? = some (e, n) ∧
      covers r.finished r.finished.length e (e + n) = true ∧ r.next + 1 < (outChunks (groupDesc s.fuses s.dev r.grp) r
      g).length ∧ r.chtok = none) :=
  ⟨⟨_, List.Mem.head _, 0, gst (atB [(0, 6 + 16 * 0 + 4 * 2 ^ 76), (1, nopW), (4, 32 * 2 ^ 36 + 5 * 2 ^ 8 + 6 * 2 ^ 22)]) grp1,
     by decide +kernel⟩,
   ⟨0, s_CollectivesRun_1, { crun 0 with data := true, finished := [(0, 64)] }, ⟨[0, 1], 0, 0⟩, 0, 4, by decide +kernel⟩⟩

def s_CollPacketsAreTaken_1 : State :=
  gin { coll := some { crun 0 with data := true } } grp1 ({ chdr with part := 1 }.bytes ++ zeros 128)

def s_CollPacketsAreTaken_2 : State :=
  gin { coll := some { crun 2 with acc := 1, data := true } } grp1 ({ chdr with part := 1, op := 2, form := 1 }.bytes ++ zeros
    128)

def s_CollPacketsAreTaken_3 : State :=
  gin { coll := some { crun 2 with acc := 1, due := .nothing } } grp1 ({ chdr with typ := 1, part := 1, op := 2 }.bytes ++
    zeros 128)

def s_CollPacketsAreTaken_4 : State :=
  gin { coll := some (crun 5) } grp1 ({ chdr with typ := 13, op := 5 }.bytes)

theorem witness_CollPacketsAreTaken :
    (∃ (core : Nat) (l : List Byte) (s : State) (r : CollRun) (q : Ring) (pos : Nat) (pk : Nat × Packet), calm s ∧
      inEpoch s l ∧ atColl s core 0 l pk ∧ forColl s core l r q ∧ r.data = true ∧ partPos q (collHdr l) = some pos ∧
      l.drop 32 ≠ [] ∧
      let h := collHdr l
      let c := collCore s.fuses s.dev core h
      let at_ := partOf (groupDesc s.fuses s.dev r.grp) r q h.dir (rawPos r q h pos)
      dataReady s.fuses s.dev c r q h pos (l.drop 32) = true ∧ r.marks.contains (markOf s r q h pos) = false ∧ h.form = 0) ∧
    (∃ (core : Nat) (l : List Byte) (s : State) (r : CollRun) (q : Ring) (pos : Nat) (pk : Nat × Packet), calm s ∧
      inEpoch s l ∧ atColl s core 0 l pk ∧ forColl s core l r q ∧ r.data = true ∧ partPos q (collHdr l) = some pos ∧
      l.drop 32 ≠ [] ∧
      let h := collHdr l
      let c := collCore s.fuses s.dev core h
      let x := groupDesc s.fuses s.dev r.grp
      let at_ := partOf x r q h.dir pos
      let ch := chunkAround r at_.2.1 at_.2.2 h.elem
      dataReady s.fuses s.dev c r q h pos (l.drop 32) = true ∧ r.marks.contains (markOf s r q h pos) = false ∧ h.form ≠ 0 ∧
        r.reduces = true ∧ h.form = r.form ∧ piecePoison s.fuses s.dev c r.src r.ifmt (at_.1 + ch.1) ch.2 = false ∧
        (readPiece s.dev c r.src r.ifmt (at_.1 + h.elem) (wireEls h.form (l.drop 32)).length).ue = none) ∧
    (∃ (core : Nat) (l : List Byte) (s : State) (pk : Nat × Packet), calm s ∧ inEpoch s l ∧ atColl s core 0 l pk ∧
      (s.dev.core (collCore s.fuses s.dev core (collHdr l))).coll = none) ∧
    (∃ (core : Nat) (l : List Byte) (s : State) (r : CollRun) (q : Ring) (pos : Nat) (pk : Nat × Packet), calm s ∧
      inEpoch s l ∧ atColl s core 1 l pk ∧ forColl s core l r q ∧ r.data = false ∧ r.hasPhase = true ∧ r.due ≠ .start ∧
      partPos q (collHdr l) = some pos ∧
      let h := collHdr l
      let c := collCore s.fuses s.dev core h
      let base := (partOf (groupDesc s.fuses s.dev r.grp) r q h.dir pos).1
      let got := recsOf r (l.drop 32)
      let n := got.length * r.recUnit
      let p := readPiece s.dev c r.src r.ifmt (base + h.elem) n
      let all := if anchorGathers r q h pos then got else (got.zip (ownRecs r p)).map (fun x => x.1.join x.2)
      (anchorGathers r q h pos = true ∨ (pieceReady s.fuses s.dev c r.src false r.ifmt (base + h.elem) n = true ∧ p.ue = none))) ∧
    (∃ (core : Nat) (l : List Byte) (s : State) (r : CollRun) (q : Ring) (pk : Nat × Packet), calm s ∧ inEpoch s l ∧
      atColl s core 13 l pk ∧ forColl s core l r q ∧ r.op = 5) :=
  ⟨⟨0, { chdr with part := 1 }.bytes ++ zeros 128, s_CollPacketsAreTaken_1, { crun 0 with data := true }, ⟨[0, 1], 0, 0⟩, 1,
     cpk ({ chdr with part := 1 }.bytes ++ zeros 128), by decide +kernel⟩,
   ⟨0, { chdr with part := 1, op := 2, form := 1 }.bytes ++ zeros 128, s_CollPacketsAreTaken_2,
     { crun 2 with acc := 1, data := true }, ⟨[0, 1], 0, 0⟩, 1, cpk ({ chdr with part := 1, op := 2, form := 1 }.bytes ++ zeros
     128), by decide +kernel⟩,
   ⟨0, { chdr with part := 1 }.bytes ++ zeros 128, gin {} grp1 ({ chdr with part := 1 }.bytes ++ zeros 128),
     cpk ({ chdr with part := 1 }.bytes ++ zeros 128), by decide +kernel⟩,
   ⟨0, { chdr with typ := 1, part := 1, op := 2 }.bytes ++ zeros 128, s_CollPacketsAreTaken_3,
     { crun 2 with acc := 1, due := .nothing }, ⟨[0, 1], 0, 0⟩, 1,
     cpk ({ chdr with typ := 1, part := 1, op := 2 }.bytes ++ zeros 128), by decide +kernel⟩,
   ⟨0, { chdr with typ := 13, op := 5 }.bytes, s_CollPacketsAreTaken_4, crun 5, ⟨[0, 1], 0, 0⟩,
     cpk ({ chdr with typ := 13, op := 5 }.bytes), by decide +kernel⟩⟩

def s_GroupsFormAndReform_1 : State :=
  gin {} {} ({ chdr with typ := 2, sum := groupDigest {} (gst {} {}).dev 0 }.bytes)

def s_GroupsFormAndReform_2 : State :=
  st { dev0 with groups := [(0, { forming := some ⟨[1], [1]⟩ })], handles := [(1, {})] }

theorem witness_GroupsFormAndReform :
    (∃ (core : Nat) (l : List Byte) (s : State) (pk : Nat × Packet), calm s ∧ atColl s core 2 l pk ∧
      (s.dev.group (collHdr l).grp).forming = none ∧ (s.dev.group (collHdr l).grp).state = 0 ∧
      ((groupDesc s.fuses s.dev (collHdr l).grp).valid = true → (collHdr l).sum = groupDigest s.fuses s.dev (collHdr l).grp)) ∧
    (∃ (g : Nat) (s : State) (r : FormRec), calm s ∧ (s.dev.group g).forming = some r) ∧
    (∃ (core : Nat) (l : List Byte) (s : State) (pk : Nat × Packet), calm s ∧ atColl s core 7 l pk ∧
      groupLive s.dev (collHdr l).grp = true ∧ newer16 (collHdr l).epoch (s.dev.group (collHdr l).grp).epoch = true ∧
      runners s.fuses s.dev (collHdr l).grp = []) ∧
    (∃ (core : Nat) (l : List Byte) (s : State) (pk : Nat × Packet), calm s ∧ atColl s core 8 l pk ∧ inEpoch s l ∧
      runners s.fuses s.dev (collHdr l).grp = []) ∧
    (∃ (core : Nat) (l : List Byte) (s : State) (pk : Nat × Packet), calm s ∧ atColl s core 12 l pk ∧
      groupLive s.dev (collHdr l).grp = true) :=
  ⟨⟨0, { chdr with typ := 2, sum := groupDigest {} (gst {} {}).dev 0 }.bytes, s_GroupsFormAndReform_1,
     cpk ({ chdr with typ := 2, sum := groupDigest {} (gst {} {}).dev 0 }.bytes), by decide +kernel⟩,
   ⟨0, s_GroupsFormAndReform_2, ⟨[1], [1]⟩, by decide +kernel⟩,
   ⟨0, { chdr with typ := 7, epoch := 2 }.bytes, gin {} grp1 ({ chdr with typ := 7, epoch := 2 }.bytes),
     cpk ({ chdr with typ := 7, epoch := 2 }.bytes), by decide +kernel⟩,
   ⟨0, { chdr with typ := 8 }.bytes, gin {} grp1 ({ chdr with typ := 8 }.bytes), cpk ({ chdr with typ := 8 }.bytes),
     by decide +kernel⟩,
   ⟨0, { chdr with typ := 12 }.bytes, gin {} grp1 ({ chdr with typ := 12 }.bytes), cpk ({ chdr with typ := 12 }.bytes),
     by decide +kernel⟩⟩

def s_DeadlinesAndTimers_1 : State :=
  gin {} { grp1 with probing := [⟨1, [0], false⟩] } ({ chdr with typ := 5, arg := 2 }.bytes)

def s_DeadlinesAndTimers_2 : State :=
  gst {} { grp1 with suspects := [{ me := 0, rank := 1, sentTo := 0, tries := 3 }] }

def s_DeadlinesAndTimers_3 : State :=
  gin {} { grp1 with suspects := [{ me := 0, rank := 1, sentTo := 1 }] } ({ chdr with typ := 6 }.bytes)

def s_DeadlinesAndTimers_4 : State :=
  st { dev0 with cores := [(0, { coll := some (crun 5) })], groups := [(0, { state := 2, epoch := 1, present := 1 })],
                 objs := dev0.objs ++ [(ob 0x8010 0, gdesc - 2)], power := { gates := [(0, (32, 3))] } }

theorem witness_DeadlinesAndTimers :
    (∃ (c rank : Nat) (s : State) (r : CollRun) (q : Ring) (to' : Nat), calm s ∧ (s.dev.core c).coll = some r ∧
      ringOf s.fuses s.dev r.grp c = some q ∧ (s.dev.group r.grp).hold = false ∧ r.paused = false ∧
      awaits s.fuses s.dev r q rank = true ∧ coordinator s.fuses s.dev r.grp [rank] = some to') ∧
    (∃ (core : Nat) (l : List Byte) (s : State) (pk : Nat × Packet), calm s ∧ inEpoch s l ∧ atColl s core 3 l pk ∧
      (presentRanks (groupDesc s.fuses s.dev (collHdr l).grp) (s.dev.group (collHdr l).grp)).contains (collHdr l).rank = true ∧
      (presentRanks (groupDesc s.fuses s.dev (collHdr l).grp) (s.dev.group (collHdr l).grp)).contains (collHdr l).arg = true ∧
      (s.dev.group (collHdr l).grp).probing = []) ∧
    (∃ (core : Nat) (l : List Byte) (s : State) (pk : Nat × Packet), calm s ∧ inEpoch s l ∧ atColl s core 4 l pk) ∧
    (∃ (core : Nat) (l : List Byte) (s : State) (pk : Nat × Packet), calm s ∧ atColl s core 4 l pk ∧
      groupLive s.dev (collHdr l).grp = true ∧ (collHdr l).epoch ≠ (s.dev.group (collHdr l).grp).epoch ∧
      newer16 (collHdr l).epoch (s.dev.group (collHdr l).grp).epoch = false) ∧
    (∃ (core : Nat) (l : List Byte) (s : State) (p : ProbeRec) (pk : Nat × Packet), calm s ∧ inEpoch s l ∧
      atColl s core 5 l pk ∧ (s.dev.group (collHdr l).grp).forming = none ∧
      (s.dev.group (collHdr l).grp).probing.find? (fun p => p.rank == (collHdr l).rank) = some p ∧ 2 ≤ (collHdr l).arg) ∧
    (∃ (g : Nat) (s : State) (p : ProbeRec) (ps : List ProbeRec), calm s ∧ (s.dev.group g).probing = p :: ps) ∧
    (∃ (g : Nat) (s : State) (r : SuspectRec) (rest : List SuspectRec), calm s ∧ (s.dev.group g).suspects = r :: rest ∧
      3 ≤ r.tries ∧ runners s.fuses s.dev g = []) ∧
    (∃ (core : Nat) (l : List Byte) (s : State) (pk : Nat × Packet), calm s ∧ atColl s core 6 l pk ∧ inEpoch s l) ∧
    (∃ (core : Nat) (l : List Byte) (s : State) (pk : Nat × Packet), calm s ∧ atColl s core 9 l pk ∧ inEpoch s l) ∧
    (∃ (core : Nat) (l : List Byte) (s : State) (pk : Nat × Packet), calm s ∧ atColl s core 10 l pk ∧ inEpoch s l) ∧
    (∃ (core : Nat) (l : List Byte) (s : State) (pk : Nat × Packet), calm s ∧ atColl s core 11 l pk ∧ inEpoch s l) ∧
    (∃ (g : Nat) (s : State), calm s ∧ (s.dev.group g).hold = true) ∧
    (∃ (g c : Nat) (s : State) (q : Ring) (r : CollRun), calm s ∧ throttling s.dev = true ∧ groupLive s.dev g = true ∧
      (groupDesc s.fuses s.dev g).coreList = [c] ∧ ringOf s.fuses s.dev g c = some q ∧ (s.dev.core c).coll = some r ∧ r.grp = g) :=
  ⟨⟨0, 1, gst { coll := some { crun 0 with data := true } } grp1, { crun 0 with data := true }, ⟨[0, 1], 0, 0⟩, 0,
     by decide +kernel⟩,
   ⟨0, { chdr with typ := 3 }.bytes, gin {} grp1 ({ chdr with typ := 3 }.bytes), cpk ({ chdr with typ := 3 }.bytes),
     by decide +kernel⟩,
   ⟨0, { chdr with typ := 4 }.bytes, gin {} grp1 ({ chdr with typ := 4 }.bytes), cpk ({ chdr with typ := 4 }.bytes),
     by decide +kernel⟩,
   ⟨0, { chdr with typ := 4, epoch := 0 }.bytes, gin {} grp1 ({ chdr with typ := 4, epoch := 0 }.bytes),
     cpk ({ chdr with typ := 4, epoch := 0 }.bytes), by decide +kernel⟩,
   ⟨0, { chdr with typ := 5, arg := 2 }.bytes, s_DeadlinesAndTimers_1, ⟨1, [0], false⟩,
     cpk ({ chdr with typ := 5, arg := 2 }.bytes), by decide +kernel⟩,
   ⟨0, gst {} { grp1 with probing := [⟨1, [0], false⟩] }, ⟨1, [0], false⟩, [], by decide +kernel⟩,
   ⟨0, s_DeadlinesAndTimers_2, { me := 0, rank := 1, sentTo := 0, tries := 3 }, [], by decide +kernel⟩,
   ⟨0, { chdr with typ := 6 }.bytes, s_DeadlinesAndTimers_3, cpk ({ chdr with typ := 6 }.bytes), by decide +kernel⟩,
   ⟨0, { chdr with typ := 9 }.bytes, gin {} grp1 ({ chdr with typ := 9 }.bytes), cpk ({ chdr with typ := 9 }.bytes),
     by decide +kernel⟩,
   ⟨0, { chdr with typ := 10 }.bytes, gin {} grp1 ({ chdr with typ := 10 }.bytes), cpk ({ chdr with typ := 10 }.bytes),
     by decide +kernel⟩,
   ⟨0, { chdr with typ := 11 }.bytes, gin {} { grp1 with hold := true } ({ chdr with typ := 11 }.bytes),
     cpk ({ chdr with typ := 11 }.bytes), by decide +kernel⟩,
   ⟨0, gst {} { grp1 with hold := true }, by decide +kernel⟩,
   ⟨0, 0, s_DeadlinesAndTimers_4, ⟨[0], 0, 0⟩, crun 5, by decide +kernel⟩⟩

def s_TileCachesServe_1 : State :=
  tst 0

def s_TileCachesServe_2 : State :=
  st { dev0 with mem := { fills := [(bankKey {} 0, [⟨0, [⟨7, {}, none⟩], true⟩])] } }

def s_TileCachesServe_3 : State :=
  st { dev0 with mem := { cowHeld := [(0, ⟨7, {}, some (0, zeros 15 ++ [1#8])⟩)] } }

theorem witness_TileCachesServe :
    (∃ (req tile act line : Nat) (s : State), hits s tile act line) ∧
    (∃ (req tile act line o : Nat) (l : List Byte) (s : State), hits s tile act line ∧ o % 16 = 0 ∧ l.length % 16 = 0 ∧
      0 < l.length ∧ o + l.length ≤ 256 ∧ granuleHeld s.dev (line / 16) = false ∧
      s.dev.mem.cowHeld.any (fun q => q.1 == line) = false) ∧
    (∃ (line req : Nat) (who : Who) (s : State), calm s ∧ quietMem s.dev.mem = true ∧
      (fillsOf s.dev (bankKey s.fuses line)).find? (fun x => x.line == line && x.granted) = some
      { line := line, waiters := [{ req := req, who := who, write := none }], granted := true } ∧
      s.dev.mem.poison.contains line = false ∧ s.dev.mem.hidden = []) ∧
    (∃ (i : Nat) (s : State), calm s ∧ quietMem s.dev.mem = true ∧ (stackOf s.fuses s.dev i).state = .retraining ∧
      (stackOf s.fuses s.dev i).waiting = [] ∧ s.dev.resets = []) ∧
    (∃ (g : Nat) (s : State), calm s ∧ granuleHeld s.dev g = true ∧ s.dev.proof.cow.length < cowCapacity s.fuses s.dev ∧
      granPoisoned s.fuses s.dev g = false ∧ runReady s.fuses s.dev (moverWho s.dev (homeTile s.fuses (4096 * g))) (4096 * g,
      4096) = true ∧ writeReady s.fuses s.dev (moverWho s.dev (homeTile s.fuses (4096 * g))) (4096 * cowSlot s.fuses s.dev,
      4096) = true ∧ (∀ k < 16, lineStack s.fuses s.dev (16 * cowSlot s.fuses s.dev + k) = .ready)) ∧
    (∃ (s : State) (q : Nat × TcWaiter), calm s ∧ s.dev.mem.cowHeld.find? (fun q => !granuleHeld s.dev (q.1 / 16)) = some q) :=
  ⟨⟨7, 0, 0, 0, s_TileCachesServe_1, by decide +kernel⟩,
   ⟨7, 0, 0, 0, 16, zeros 15 ++ [1#8], s_TileCachesServe_1, by decide +kernel⟩,
   ⟨0, 7, {}, s_TileCachesServe_2, by decide +kernel⟩,
   ⟨0, st { dev0 with mem := { hbm := [(0, { state := .retraining })] } }, by decide +kernel⟩,
   ⟨0, st { dev0 with proof := { state := 3, guard := [0] } }, by decide +kernel⟩,
   ⟨s_TileCachesServe_3, (0, ⟨7, {}, some (0, zeros 15 ++ [1#8])⟩), by decide +kernel⟩⟩

def s_FlitsAndReplay_1 : State :=
  pst { replay := [{ flit := { typ := 0, body := zeros 224 } }], sendSeq := 1 }

def s_FlitsAndReplay_2 : State :=
  pst { replay := [{ flit := { typ := 0, body := zeros 224 }, resends := 8 }], sendSeq := 1 }

set_option maxRecDepth 30000 in
theorem witness_FlitsAndReplay :
    (∃ (p : Nat) (raw : List Byte) (s : State) (x : Flit), calm s ∧ flitOfBytes raw = some x ∧
      carries s.fuses s.dev p x.vc = true ∧ x.typ = 0 ∧ x.seq = (s.dev.port p).expSeq ∧ (s.dev.port p).waiting = []) ∧
    (∃ (p : Nat) (raw : List Byte) (s : State) (x : Flit), calm s ∧ (s.dev.port p).hears = true ∧ flitOfBytes raw = some x) ∧
    (∃ (p : Nat) (raw : List Byte) (s : State) (x : Flit), calm s ∧ ctrlHeard s p 1 raw x ∧
      let held := ((takeAck s.dev p x).port p).replay
      let before := fun (y : SentFlit) => decide (y.flit.seq ≠ field (x.body.drop 1) 0 2)
      held.dropWhile before ≠ []) ∧
    (∃ (p : Nat) (s : State), calm s ∧ (s.dev.port p).hears = true ∧ (s.dev.port p).nakOut = true) ∧
    (∃ (p : Nat) (s : State), calm s ∧ (s.dev.port p).live = true ∧
      (s.dev.port p).replay.any (fun y => decide (8 ≤ y.resends)) = true) :=
  ⟨⟨0, flitBytes { typ := 0, vc := 4, sop := true, eop := true, body := zeros 224 }, pst {},
     { typ := 0, vc := 4, sop := true, eop := true, body := zeros 224 }, by decide +kernel⟩,
   ⟨0, flitBytes { typ := 2, ack := 1, body := zeros 224 }, pst {}, { typ := 2, ack := 1, body := zeros 224 },
     by decide +kernel⟩,
   ⟨0, flitBytes (ctl 1 [0#8, 0#8]), s_FlitsAndReplay_1, ctl 1 [0#8, 0#8], by decide +kernel⟩,
   ⟨0, pst { nakOut := true }, by decide +kernel⟩,
   ⟨0, s_FlitsAndReplay_2, by decide +kernel⟩⟩

def s_PortsGoDownAndTrain_1 : State :=
  pst { state := .training }

set_option maxRecDepth 30000 in
theorem witness_PortsGoDownAndTrain :
    (∃ (p : Nat) (raw : List Byte) (s : State) (x : Flit), calm s ∧ ctrlHeard s p 7 raw x ∧ (s.dev.port p).live = true) ∧
    (∃ (p lanes : Nat) (s : State), calm s ∧ (s.dev.port p).live = true) ∧
    (∃ (p good : Nat) (s : State), calm s ∧ p < 6 ∧ (s.dev.port p).state = .down ∧ (s.dev.port p).mgmtOnly = false ∧
      obj s.fuses s.dev (pIdx p) 7 ≠ 0 ∧ hasRing s.fuses s.dev p = true ∧
      12 ≤ (bitList 26 (usableLanes s.fuses s.dev p good)).length) ∧
    (∃ (p : Nat) (raw : List Byte) (s : State) (x : Flit), calm s ∧ ctrlHeard s p 2 raw x ∧ (s.dev.port p).state = .training ∧
      identOk s.fuses s.dev p (x.body.drop 1) = true) ∧
    (∃ (p : Nat) (s : State), calm s ∧ (s.dev.port p).state = .training ∧ (s.dev.port p).ident = true ∧
      (s.dev.port p).measuring = false ∧ s.dev.resets = []) :=
  ⟨⟨0, flitBytes (ctl 7 [0#8]), pst {}, ctl 7 [0#8], by decide +kernel⟩,
   ⟨0, 3, pst {}, by decide +kernel⟩,
   ⟨0, 2 ^ 26 - 1, pst { state := .down }, by decide +kernel⟩,
   ⟨0, flitBytes (ctl 2 (leBytes 2 (identPeer (s_PortsGoDownAndTrain_1)) ++ leBytes 4 (obj {} (s_PortsGoDownAndTrain_1).dev
     0x4000 9) ++ leBytes 2 2 ++ leBytes 2 16 ++ leBytes 2 16 ++ zeros 12)), s_PortsGoDownAndTrain_1,
     ctl 2 (leBytes 2 (identPeer (s_PortsGoDownAndTrain_1)) ++ leBytes 4 (obj {} (s_PortsGoDownAndTrain_1).dev 0x4000 9) ++
     leBytes 2 2 ++ leBytes 2 16 ++ leBytes 2 16 ++ zeros 12), by decide +kernel⟩,
   ⟨0, pst { state := .training, ident := true }, by decide +kernel⟩⟩

set_option maxRecDepth 30000 in
theorem witness_DelaysAndLanes :
    (∃ (p t2 t3 : Nat) (raw : List Byte) (s : State) (x : Flit), calm s ∧ ctrlHeard s p 3 raw x) ∧
    (∃ (p t4 : Nat) (raw : List Byte) (s : State) (x : Flit), calm s ∧ ctrlHeard s p 4 raw x ∧ regState s.dev = 0 ∧
      (s.dev.port p).measuring = true ∧ (s.dev.port p).estimates.length < 255) ∧
    (∃ (p : Nat) (raw : List Byte) (s : State) (x : Flit), calm s ∧ ctrlHeard s p 5 raw x ∧ (s.dev.port p).swaps = []) ∧
    (∃ (p : Nat) (raw : List Byte) (s : State) (x : Flit), calm s ∧ ctrlHeard s p 6 raw x) ∧
    (∃ (p : Nat) (s : State) (r : LaneSwap), calm s ∧ (s.dev.port p).swaps = [r] ∧ r.acked = true ∧ r.narrow = false ∧
      (s.dev.port p).live = true) ∧
    (∃ (p corr uncorr : Nat) (errs : List Nat) (s : State), calm s ∧ (∀ e ∈ errs, e ≤ obj s.fuses s.dev (pIdx p) 9 * 21250)) :=
  ⟨⟨0, 7, 9, flitBytes (ctl 3 (zeros 8)), pst {}, ctl 3 (zeros 8), by decide +kernel⟩,
   ⟨0, 90, flitBytes (ctl 4 (leBytes 8 16 ++ leBytes 8 40 ++ leBytes 8 44)), pst { measuring := true },
     ctl 4 (leBytes 8 16 ++ leBytes 8 40 ++ leBytes 8 44), by decide +kernel⟩,
   ⟨0, flitBytes (ctl 5 [3#8, 24#8, 0#8]), pst {}, ctl 5 [3#8, 24#8, 0#8], by decide +kernel⟩,
   ⟨0, flitBytes (ctl 6 [3#8, 24#8, 0#8]), pst { swaps := [⟨3, 24, false, 0, false⟩] }, ctl 6 [3#8, 24#8, 0#8],
     by decide +kernel⟩,
   ⟨0, pst { swaps := [⟨3, 24, false, 0, true⟩] }, ⟨3, 24, false, 0, true⟩, by decide +kernel⟩,
   ⟨0, 2, 1, [0, 1], pst {}, by decide +kernel⟩⟩

def s_PacketsAndRoutes_1 : State :=
  pst { rx := [{ torFlit with vc := 3, body := slice { torPkt with kind := 2, vc := 3 }.bytes 0 224 }] }

def s_PacketsAndRoutes_2 : State :=
  st { dev0 with ports := [(0, { state := .up })], inbox := [(0, ringPkt)] }

theorem witness_PacketsAndRoutes :
    (∃ (p : Nat) (s : State) (fs : List Flit) (k : Packet), packetCame s p fs k) ∧
    (∃ (p : Nat) (s : State) (fs : List Flit) (k : Packet), packetCame s p fs k ∧ isHere s.fuses s.dev k = true ∧ k.kind = 2 ∧
      k.act ≠ 2 ∧ k.addr + k.data.length ≤ jobTop s.fuses s.dev ∧ (∀ l ∈ linesOf k.addr k.data.length,
      lineStack s.fuses s.dev l = .ready)) ∧
    (∃ (p : Nat) (s : State) (q : Nat × Packet), calm s ∧ s.dev.inbox.find? (fun q => q.1 == p && q.2.kind == 8) = some q ∧
      field q.2.data 4 2 = 1 ∧ linkKnown s.dev (field q.2.data 0 2) (field q.2.data 2 2) true = false) ∧
    (∃ (a c : Nat) (s : State) (r : LinkRec), calm s ∧ s.dev.links.find? (fun r => r.axis == a && r.at_ == c && !r.routed) =
      some r ∧ r.down = false) :=
  ⟨⟨0, pst { rx := [torFlit] }, [torFlit], torPkt, by decide +kernel⟩,
   ⟨0, s_PacketsAndRoutes_1, [{ torFlit with vc := 3, body := slice { torPkt with kind := 2, vc := 3 }.bytes 0 224 }],
     { torPkt with kind := 2, vc := 3 }, by decide +kernel⟩,
   ⟨0, s_PacketsAndRoutes_2, (0, ringPkt), by decide +kernel⟩,
   ⟨0, 0, st { dev0 with links := [⟨0, 0, false, false⟩] }, ⟨0, 0, false, false⟩, by decide +kernel⟩⟩

theorem witness_CommandsTakeHandles :
    (∃ p ∈ bareCmds, ∃ (w : Writer) (s : State), calm s ∧ cmdCheck s.fuses s.dev w.prin p.1 p.2.1 0 (argOf p.1 p.2.1 0) true ≠
      0) ∧
    (∃ p ∈ bareCmds, ∃ (w : Writer) (s : State), takes s w p.1 p.2.1 0) :=
  ⟨⟨_, List.Mem.head _, { prin := untagged }, st dev0, by decide +kernel⟩,
   ⟨_, List.Mem.head _, { prin := 0 }, st dev0, by decide +kernel⟩⟩

def s_GroupsAndPortsByCommand_1 : State :=
  { wobj [(ob 0x8010 0, noAxis)] with dev := { (wobj [(ob 0x8010 0, noAxis)]).dev with cores := [(0, { coll := some (crun 5) })] } }

def s_GroupsAndPortsByCommand_2 : State :=
  wobj [(ob 0x4000 5, 2), (ob 0x8010 0, 1 + 3 * 2 ^ 128 + 2 ^ 384 + 2 ^ 387)]

def s_GroupsAndPortsByCommand_3 : State :=
  { pst { state := .down } with dev := { (pst { state := .down }).dev with resets := [⟨0x5000, 0, 0, [], false, false, 0⟩] } }

def s_GroupsAndPortsByCommand_4 : State :=
  pst {}

theorem witness_GroupsAndPortsByCommand :
    (∃ (w : Writer) (g : Nat) (s : State), g < 4096 ∧ takes s w 0x8002 0 g ∧ groupRunning s.fuses s.dev g = true) ∧
    (∃ (w : Writer) (g : Nat) (s : State), g < 4096 ∧ takes s w 0x8002 0 g ∧ groupRunning s.fuses s.dev g = false ∧
      formBarred (groupDesc s.fuses s.dev g) (s.dev.group g) = true) ∧
    (∃ (w : Writer) (g : Nat) (s : State), g < 4096 ∧ takes s w 0x8002 0 g ∧ groupRunning s.fuses s.dev g = false ∧
      formBarred (groupDesc s.fuses s.dev g) (s.dev.group g) = false ∧
      ((groupDesc s.fuses s.dev g).axis = 0 ∨ otherRanks s.fuses s.dev g = [])) ∧
    (∃ (w : Writer) (g : Nat) (s : State), g < 4096 ∧ takes s w 0x8002 0 g ∧ groupRunning s.fuses s.dev g = false ∧
      formBarred (groupDesc s.fuses s.dev g) (s.dev.group g) = false ∧ (groupDesc s.fuses s.dev g).axis ≠ 0 ∧
      otherRanks s.fuses s.dev g ≠ []) ∧
    (∃ (w : Writer) (g : Nat) (s : State), g < 4096 ∧ takes s w 0x8002 1 g) ∧
    (∃ (w : Writer) (p : Nat) (s : State), p < 6 ∧ takes s w (0x4010 + p) 8 0 ∧
      s.dev.resets.any (fun r => r.unit == 0x5000 + p) = false) ∧
    (∃ (w : Writer) (p : Nat) (s : State), p < 6 ∧ takes s w (0x4010 + p) 8 0 ∧
      s.dev.resets.any (fun r => r.unit == 0x5000 + p) = true) ∧
    (∃ (w : Writer) (s : State), takes s w 0x4020 0 0) ∧
    (∃ (w : Writer) (p : Nat) (s : State), p < 6 ∧ calm s ∧ writeReach s.fuses s.dev w.prin (0x4010 + p) 7 = 0) ∧
    (∃ (w : Writer) (p v : Nat) (s : State), p < 6 ∧ 0 < v ∧ v < 256 ∧ calm s ∧
      writeReach s.fuses s.dev w.prin (0x4010 + p) 7 = 0) :=
  ⟨⟨{ prin := 0 }, 0, s_GroupsAndPortsByCommand_1, by decide +kernel⟩,
   ⟨{ prin := 0 }, 0, wobj [], by decide +kernel⟩,
   ⟨{ prin := 0 }, 0, wobj [(ob 0x8010 0, noAxis)], by decide +kernel⟩,
   ⟨{ prin := 0 }, 0, s_GroupsAndPortsByCommand_2, by decide +kernel⟩,
   ⟨{ prin := 0 }, 0, wobj [(ob 0x8010 0, noAxis)], by decide +kernel⟩,
   ⟨{ prin := 0 }, 0, pst { state := .down }, by decide +kernel⟩,
   ⟨{ prin := 0 }, 0, s_GroupsAndPortsByCommand_3, by decide +kernel⟩,
   ⟨{ prin := 0 }, st dev0, by decide +kernel⟩,
   ⟨{ prin := 0 }, 0, s_GroupsAndPortsByCommand_4, by decide +kernel⟩,
   ⟨{ prin := 0 }, 0, 1, s_GroupsAndPortsByCommand_4, by decide +kernel⟩⟩

theorem witness_MemoryHousekeeping :
    (∃ (s : State) (g : Nat) (rest : List Nat), calm s ∧ s.dev.mem.retiring = g :: rest) ∧
    (∃ (i : Nat) (s : State), calm s ∧ (stackOf s.fuses s.dev i).state = .ready ∧ stackFitted s.fuses i = true ∧
      obj s.fuses s.dev 0x3030 1 ≠ 0 ∧ s.dev.frozen (0x1000 + 256 * (i / 2) + i % 2) = false ∧
      poisonedStack s.fuses s.dev = [] ∧ ctr s.dev 0x3031 i + 1 < stackGranules) ∧
    (∃ (i : Nat) (s : State), calm s ∧ stackFitted s.fuses i = true ∧ (stackOf s.fuses s.dev i).state = .ready) ∧
    (∃ (s : State), calm s) ∧
    (∃ (w : Writer) (g : Nat) (s : State), g < 2 ^ 32 ∧ takes s w 0x3040 4 g ∧ isRetired s.dev g = false ∧
      s.dev.mem.retired.length + s.dev.mem.retiring.length < 16384) ∧
    (∃ (w : Writer) (e : Outside) (s : State), takes s w 0x3030 2 0) ∧
    (∃ (w : Writer) (s : State), takes s w 0x3030 2 0 ∧ poisonedStack s.fuses s.dev = []) :=
  ⟨⟨st { dev0 with mem := { retiring := [5] } }, 5, [], by decide +kernel⟩,
   ⟨0, st dev0, by decide +kernel⟩,
   ⟨0, st dev0, by decide +kernel⟩,
   ⟨st dev0, by decide +kernel⟩,
   ⟨{ prin := 0 }, 5, st dev0, by decide +kernel⟩,
   ⟨{ prin := 0 }, {}, st dev0, by decide +kernel⟩,
   ⟨{ prin := 0 }, st dev0, by decide +kernel⟩⟩

def s_VaultKeysAndStates_1 : State :=
  st { dev0 with vault := { state := .test, testing := [(2, some 1)] }, handles := [(1, {})] }

theorem witness_VaultKeysAndStates :
    (∃ (w : Writer) (b : List Byte) (s : State) (sl : Nat) (k : KeySlot), takesArg s w 0x6000 1 b ∧ busesFree s ∧
      (keyLoadCheck s.fuses s.dev w.prin w.prin b).toOption = some (sl, k)) ∧
    (∃ (w : Writer) (b : List Byte) (s : State) (sl : Nat) (k : KeySlot), takesArg s w 0x6000 1 b ∧ slotsFree s.dev = false ∧
      (keyLoadCheck s.fuses s.dev w.prin w.prin b).toOption = some (sl, k)) ∧
    (∃ (w : Writer) (sl : Nat) (s : State), sl < 256 ∧ takes s w 0x6000 2 sl ∧ busesFree s ∧
      slotGranted s.fuses s.dev w.prin w.prin sl = true ∧ (∀ o ∈ s.dev.vault.ops, o.run.isSome = true → o.slot ≠ sl)) ∧
    (∃ (w : Writer) (sl : Nat) (s : State), sl < 256 ∧ takes s w 0x6000 2 sl ∧
      slotGranted s.fuses s.dev w.prin w.prin sl = false) ∧
    (∃ (w : Writer) (s : State), takes s w 0x6000 3 0 ∧ busesFree s ∧ (w.prin = 0 ∨ (w.prin = mgmtPrin ∧ w.key1 = false)) ∧
      (∀ o ∈ s.dev.vault.ops, o.run.isNone = true)) ∧
    (∃ (w : Writer) (u : Nat) (s : State), u ≤ 2 ∧ takes s w 0x6000 0x0D u ∧ (s.fuses.longHaul = true ∨ u = 2)) ∧
    (∃ (u h : Nat) (s : State) (r : HandleRec), s.dev.vault.state = .test ∧ s.dev.vault.testing = [(u, some h)] ∧
      s.dev.vault.sources = [] ∧ SMap.find? s.dev.handles h = some r ∧ r.complete = false) ∧
    (∃ (s : State), (s.dev.vault.state = .selftest ∨ s.dev.vault.state = .recovery)) ∧
    (∃ (cause : Nat) (stays : Bool) (s : State), s.dev.vault.state = .service ∧ 1 ≤ cause ∧ cause ≤ 3) ∧
    (∃ (s : State), s.dev.vault.state = .alarmed ∧ s.dev.vault.passed = true) :=
  ⟨⟨{ prin := 0 }, blob, st dev0, 0, ⟨blob.take 16, zeros 32⟩, by decide +kernel⟩,
   ⟨{ prin := 0 }, blob, st { dev0 with arbs := [(vaultBus 0, { freeze := true })] }, 0, ⟨blob.take 16, zeros 32⟩,
     by decide +kernel⟩,
   ⟨{ prin := 0 }, 0, st { dev0 with vault := { dev0.vault with slots := [(0, slot4)] } }, by decide +kernel⟩,
   ⟨{ prin := 0 }, 4, st dev0, by decide +kernel⟩,
   ⟨{ prin := 0 }, st (vdev []), by decide +kernel⟩,
   ⟨{ prin := 0 }, 2, st dev0, by decide +kernel⟩,
   ⟨2, 1, s_VaultKeysAndStates_1, {}, by decide +kernel⟩,
   ⟨st { dev0 with vault := { state := .selftest } }, by decide +kernel⟩,
   ⟨1, true, st (vdev []), by decide +kernel⟩,
   ⟨st { dev0 with vault := { state := .alarmed, passed := true } }, by decide +kernel⟩⟩

def s_CipherOperations_1 : State :=
  { est (entry 7 0 []) (vdev [{ sealOp with run := some (zeros 16, zeros 16, []) }]) with fuses := { longHaul := true } }

def s_CipherOperations_2 : State :=
  { est (entry 7 0 []) (vdev [{ sealOp with openOp := true,
                                            run := some (zeros 16, zeros 16, []) }]) with fuses := { longHaul := true } }

theorem witness_CipherOperations :
    (∃ p ∈ ([(0, .cipherSeal), (1, .cipherOpen)] : List (Nat × (Nat → Instr))), ∃ (g : Nat) (s : State) (e : FetchedCmd),
      heads s g e (fun b => entryKind b == 2 && field b 66 1 == p.1) ∧ cipherCheck s.fuses s.dev g (e.bytes.drop 64) = 0) ∧
    (∃ (n : Nat) (s : State) (o : CipherOp) (key : List Byte), calm s ∧ s.dev.vault.ops = [o] ∧ o.engine = n ∧ o.run = none ∧
      cipherFree s.dev n = true ∧ s.dev.frozen (0x7000 + 0xF00 * n) = false ∧ slotKey s.dev o.slot = some key ∧
      s.dev.vault.clash = false ∧ (o.aad ++ o.src ++ o.tag).all (runReady s.fuses s.dev (cipherWho o)) = true ∧
      poisonedIn s.fuses s.dev (o.aad ++ o.src ++ o.tag) = [] ∧ runsMeet o.src o.dst = false ∧ runsMeet o.aad o.dst = false ∧
      runsMeet o.tag o.dst = false) ∧
    (∃ (h : Nat) (s : State) (o : CipherOp) (out tag : List Byte) (ls : List Nat), calm s ∧ s.dev.vault.ops = [o] ∧
      o.handle = h ∧ o.run = some (out, tag, ls) ∧ o.bad = false ∧ o.openOp = false ∧
      (o.dst ++ o.tag).all (writeReady s.fuses s.dev (cipherWho o)) = true ∧ heldOpen s h) ∧
    (∃ (h : Nat) (s : State) (o : CipherOp) (out tag : List Byte) (ls : List Nat), calm s ∧ s.dev.vault.ops = [o] ∧
      o.handle = h ∧ o.run = some (out, tag, ls) ∧ o.bad = false ∧ o.openOp = true ∧
      o.dst.all (writeReady s.fuses s.dev (cipherWho o)) = true ∧ heldOpen s h) :=
  ⟨⟨_, List.Mem.head _, 0,
     { est (entry 2 0 (sealDesc 0)) { dev0 with objs := dev0.objs ++ [(ob 0x7000 0x0A, 16)] } with fuses := { longHaul := true } }, entry 2 0 (sealDesc 0), by decide +kernel⟩,
   ⟨0, lst (vdev [sealOp]), sealOp, zeros 32, by decide +kernel⟩,
   ⟨2, s_CipherOperations_1, { sealOp with run := some (zeros 16, zeros 16, []) }, zeros 16, zeros 16, [], by decide +kernel⟩,
   ⟨2, s_CipherOperations_2, { sealOp with openOp := true, run := some (zeros 16, zeros 16, []) }, zeros 16, zeros 16, [],
     by decide +kernel⟩⟩

theorem witness_JobsClaimsAndCounters :
    (∃ (w : Writer) (g a : Nat) (s : State), g < 4096 ∧ a < 2 ^ 128 ∧ takes s w (0x7000 + g) 0x1A a ∧
      (s.dev.ctx g).state = .opened ∧ (stateReport s.fuses (invoked s w (0x7000 + g) 0x1A) g).1 = 0 ∧
      jobCores s.fuses s.dev g = 0 ∧ (bit a 1 = true → s.fuses.longHaul = true) ∧ (bit a 0 = true → s.fuses.longHaul = true)) ∧
    (∃ (w : Writer) (g a : Nat) (s : State), g < 4096 ∧ a < 2 ^ 128 ∧ takes s w (0x7000 + g) 0x1A a ∧
      (s.dev.ctx g).state = .opened ∧ (stateReport s.fuses (invoked s w (0x7000 + g) 0x1A) g).1 = 0 ∧
      jobCores s.fuses s.dev g = 0 ∧ bit a 1 = false ∧ bit a 0 = true ∧ s.fuses.longHaul = false) ∧
    (∃ (w : Writer) (g : Nat) (s : State), g < 4096 ∧ takes s w (0x7000 + g) 0x1B 0 ∧ (s.dev.ctx g).state = .running ∧
      ctxBusy s.fuses s.dev g = false) ∧
    (∃ (w : Writer) (s : State), w.prin < 4096 ∧ takes s w 0x3190 1 0) ∧
    (∃ (w : Writer) (a : Nat) (s : State), w.prin < 4096 ∧ a < 2 ^ 128 ∧ takes s w 0x3140 0 a ∧ bit a 39 = false ∧
      1 ≤ bits a 28 16 ∧ bits a 28 16 ≤ 4096 ∧ bits a 15 0 + bits a 28 16 ≤ obj s.fuses s.dev (0x7000 + w.prin) 0x0C ∧
      ctxBusy s.fuses s.dev w.prin = false) ∧
    (∃ (w : Writer) (a : Nat) (s : State), w.prin < 4096 ∧ a < 2 ^ 128 ∧ takes s w 0x3140 0 a ∧
      (bits a 28 16 = 0 ∨ 4096 < bits a 28 16 ∨ obj s.fuses s.dev (0x7000 + w.prin) 0x0C < bits a 15 0 + bits a 28 16)) ∧
    (∃ (w : Writer) (c : Nat) (s : State), c < 128 ∧ takes s w (0xA100 + c) 0x20 0) ∧
    (∃ (w : Writer) (c : Nat) (s : State), c < 128 ∧ takes s w (0xA100 + c) 0x28 0) :=
  ⟨⟨{ prin := 0 }, 0, 0, st dev0, by decide +kernel⟩,
   ⟨{ prin := 0 }, 0, 1, { st dev0 with fuses := { longHaul := false } }, by decide +kernel⟩,
   ⟨{ prin := 0 }, 0, cst { state := .running } dev0, by decide +kernel⟩,
   ⟨{ prin := 0 }, st dev0, by decide +kernel⟩,
   ⟨{ prin := 0 }, 5 * 2 ^ 64 + 2 ^ 16, wobj [(ob 0x7000 0x0C, 4)], by decide +kernel⟩,
   ⟨{ prin := 0 }, 5 * 2 ^ 64, st dev0, by decide +kernel⟩,
   ⟨{ prin := 0 }, 0, wobj [(ob 0xA100 0x10, 7)], by decide +kernel⟩,
   ⟨{ prin := 0 }, 0, wobj [(ob 0xA100 0x21, 7)], by decide +kernel⟩⟩

def s_MapsAndLoads_1 : State :=
  est (entry 5 0 (leBytes 8 (2 ^ 20) ++ leBytes 8 (2 ^ 20) ++ leBytes 8 4096))
    { dev0 with objs := dev0.objs ++ [(ob 0x7000 0x0E, 2 ^ 30)] }

def s_MapsAndLoads_2 : State :=
  est (entry 6 0 (leBytes 8 4096 ++ leBytes 8 4096)) { dev0 with objs := [(ob 0xA000 0, 2)] }

def s_MapsAndLoads_3 : State :=
  est (entry 6 0 (leBytes 8 4096 ++ leBytes 8 4096)) { dev0 with objs := [(ob 0xA000 0, 2)],
                                                                 host := { bar2 := [⟨{}, [(4096, 16)], none⟩] } }

def s_MapsAndLoads_4 : State :=
  est (entry 3 0 (zeros 8 ++ [1#8])) { dev0 with mem := { bytes := loadDesc } }

theorem witness_MapsAndLoads :
    (∃ (g : Nat) (s : State) (e : FetchedCmd), heads s g e (fun b => entryKind b == 5) ∧ heldOpen s e.handle ∧
      mapCheck s.fuses (popped s g) g (field e.bytes 64 8) (field e.bytes 72 8) (field e.bytes 80 8) (field e.bytes 88 1) = 0) ∧
    (∃ (g : Nat) (s : State) (e : FetchedCmd), heads s g e (fun b => entryKind b == 6) ∧ heldOpen s e.handle ∧
      entryForm e.bytes = true ∧ (ctxRuns s.dev g false (field e.bytes 64 8) (field e.bytes 72 8)).isSome = true ∧
      cutsLarge (s.dev.ctx g).maps (field e.bytes 64 8) (field e.bytes 72 8) = false ∧ (∀ m ∈ (s.dev.ctx g).maps,
      m.going = none) ∧ (∀ m ∈ (s.dev.ctx g).maps, ∀ p ∈ partMap m (field e.bytes 64 8) (field e.bytes 72 8) e.handle,
      mapTouched s.fuses s.dev g p = false)) ∧
    (∃ (g : Nat) (s : State) (e : FetchedCmd), heads s g e (fun b => entryKind b == 6) ∧ heldOpen s e.handle ∧
      ctxRuns s.dev g false (field e.bytes 64 8) (field e.bytes 72 8) = none) ∧
    (∃ (g : Nat) (s : State) (e : FetchedCmd) (m p : Mapping), heads s g e (fun b => entryKind b == 6) ∧ heldOpen s e.handle ∧
      (ctxRuns s.dev g false (field e.bytes 64 8) (field e.bytes 72 8)).isSome = true ∧
      cutsLarge (s.dev.ctx g).maps (field e.bytes 64 8) (field e.bytes 72 8) = false ∧ m ∈ (s.dev.ctx g).maps ∧
      m.going = none ∧ p ∈ partMap m (field e.bytes 64 8) (field e.bytes 72 8) e.handle ∧ mapTouched s.fuses s.dev g p = true) ∧
    (∃ (g : Nat) (s : State) (e : FetchedCmd) (rs rf rb : List (Nat × Nat)), heads s g e (fun b => entryKind b == 3) ∧
      heldOpen s e.handle ∧ bit (field e.bytes 72 1) 0 = true ∧ ctxRuns s.dev g false (field e.bytes 64 8) 512 = some rs ∧
      sound s ∧ s.dev.host.loads = [] ∧ loadReady s.fuses s.dev { handle := e.handle, ctx := g, desc := field e.bytes 64 8,
                                                                  hold := true } = true ∧
      let l := runBytes s.dev rs
      let c := field l 2 1
      loadCheck s.fuses s.dev g l = 0 ∧ imageRuns s.dev g l .F = some rf ∧ imageRuns s.dev g l .B = some rb ∧
        (field l 4 2 ≠ 0 → sha256 (runBytes s.dev rf) = slice l 24 32) ∧
        (field l 6 2 ≠ 0 → sha256 (runBytes s.dev rb) = slice l 56 32)) ∧
    (∃ (g : Nat) (s : State) (e : FetchedCmd), heads s g e (fun b => entryKind b == 7) ∧ heldOpen s e.handle) :=
  ⟨⟨0, s_MapsAndLoads_1, entry 5 0 (leBytes 8 (2 ^ 20) ++ leBytes 8 (2 ^ 20) ++ leBytes 8 4096), by decide +kernel⟩,
   ⟨0, s_MapsAndLoads_2, entry 6 0 (leBytes 8 4096 ++ leBytes 8 4096), by decide +kernel⟩,
   ⟨0, est (entry 6 0 (leBytes 8 (2 ^ 20) ++ leBytes 8 4096)) dev0, entry 6 0 (leBytes 8 (2 ^ 20) ++ leBytes 8 4096),
     by decide +kernel⟩,
   ⟨0, s_MapsAndLoads_3, entry 6 0 (leBytes 8 4096 ++ leBytes 8 4096), ⟨0, 0, 65536, true, false, none⟩, ⟨4096, 4096, 4096,
     true, false, some 2⟩, by decide +kernel⟩,
   ⟨0, s_MapsAndLoads_4, entry 3 0 (zeros 8 ++ [1#8]), [(0, 512)], [(4096, 16)], [], by decide +kernel⟩,
   ⟨0, est (entry 7 0 []) dev0, entry 7 0 [], by decide +kernel⟩⟩

def s_CoreCommandsAct_1 : State :=
  kest 1 0 { f := { state := .stopped }, store := [(0, nopW)], fLen := 1 }

theorem witness_CoreCommandsAct :
    (∃ (g c : Nat) (s : State) (e : FetchedCmd), heads s g e (isCore 0) ∧ heldOpen s e.handle ∧ c < 128 ∧
      field e.bytes 80 16 = 2 ^ c ∧ coresRefused s.fuses s.dev g (2 ^ c) = 0 ∧ (s.dev.core c).coll = none ∧
      (s.dev.core c).f.state = .run ∧ (s.dev.core c).b.state = .wait ∧ (s.dev.core c).f.claiming = false ∧
      (s.dev.core c).b.claiming = false) ∧
    (∃ (g c : Nat) (s : State) (e : FetchedCmd), heads s g e (isCore 1) ∧ heldOpen s e.handle ∧ c < 128 ∧
      field e.bytes 80 16 = 2 ^ c ∧ coresRefused s.fuses s.dev g (2 ^ c) = 0 ∧ (s.dev.core c).coll = none ∧
      (s.dev.core c).f.state = .stopped ∧ (s.dev.core c).b.state = .idle ∧ (s.dev.core c).f.pc < ((s.dev.core c).image .F).2 ∧
      checkStroke s.fuses (popped s g) c .F = none) ∧
    (∃ (g c : Nat) (s : State) (e : FetchedCmd), heads s g e (isCore 2) ∧ heldOpen s e.handle ∧ c < 128 ∧
      field e.bytes 80 16 = 2 ^ c ∧ coresRefused s.fuses s.dev g (2 ^ c) = 0 ∧ (s.dev.core c).held = true ∧
      (s.dev.core c).f.state = .idle ∧ 0 < (s.dev.core c).fLen ∧ (s.dev.core c).f.pc < (s.dev.core c).fLen ∧
      (s.dev.core c).bLen = 0 ∧ checkStroke s.fuses ((popped s g).modCore c (fun k => { k with held := false })) c .F = none) ∧
    (∃ (g c q : Nat) (s : State) (e : FetchedCmd), heads s g e (isCore 3) ∧ heldOpen s e.handle ∧ c < 128 ∧ q < 4 ∧
      field e.bytes 80 16 = 2 ^ c ∧ field e.bytes 65 1 = 2 ^ q ∧ coresRefused s.fuses s.dev g (2 ^ c) = 0 ∧
      ((s.dev.core c).th (queueOwner q)).state = .idle ∧ (s.dev.core c).queues.length = 4) ∧
    (∃ (g c : Nat) (s : State) (e : FetchedCmd), heads s g e (isCore 4) ∧ heldOpen s e.handle ∧ c < 128 ∧
      field e.bytes 80 16 = 2 ^ c ∧ coresRefused s.fuses s.dev g (2 ^ c) = 0 ∧ s.dev.resets = [] ∧ s.dev.codecs = [] ∧
      (s.dev.core c).movF = [] ∧ (s.dev.core c).movB = [] ∧ (s.dev.core c).upd = none ∧ dumpReady s.fuses s.dev = true) :=
  ⟨⟨0, 0, kest 0 0 { f := { state := .run }, b := { state := .wait } }, coreEntry 0 0, by decide +kernel⟩,
   ⟨0, 0, s_CoreCommandsAct_1, coreEntry 1 0, by decide +kernel⟩,
   ⟨0, 0, kest 2 0 { held := true, store := [(0, nopW)], fLen := 1 }, coreEntry 2 0, by decide +kernel⟩,
   ⟨0, 0, 1, kest 3 2 {}, coreEntry 3 2, by decide +kernel⟩,
   ⟨0, 0, kest 4 0 { tokens := [(0, 5)], plate := [(7, 1#8)] }, coreEntry 4 0, by decide +kernel⟩⟩

def s_RingEntriesStart_1 : State :=
  st { dev0 with ctxs := [(0, { ctx0 with fetched := [entry 3 2 []] })],
                 handles := [(1, { entry := true }), (2, { entry := true })] }

def s_RingEntriesStart_2 : State :=
  est (dictEntry 0x6000 2 []) { dev0 with vault := { dev0.vault with slots := [(0, slot4)] } }

theorem witness_RingEntriesStart :
    (∃ p ∈ ringRows, ∃ (g : Nat) (s : State) (e : FetchedCmd), heads s g e p.2.1) ∧
    (∃ p ∈ ringRows, ∃ (g : Nat) (s : State) (e : FetchedCmd), calm s ∧ (s.dev.ctx g).fetched = [e] ∧
      entryFence e.bytes = true ∧ fenceOk s.dev g = false) ∧
    (∃ (g : Nat) (x : Outside) (s : State) (e : FetchedCmd) (o : Obj), heads s g e (fun b => entryKind b == 1) ∧
      objRow (field e.bytes 8 2) (field e.bytes 10 1) = some o ∧ o.acc = .cmd ∧ o.len ≤ 64 ∧
      zeroAt e.bytes (64 + o.len) (64 - o.len) = true ∧ cmdCheck s.fuses (popped s g) g (field e.bytes 8 2) (field e.bytes 10
      1) 0 (slice e.bytes 64 o.len) false = 0) ∧
    (∃ (g : Nat) (s : State) (e : FetchedCmd), heads s g e (fun b => entryKind b == 1) ∧ heldOpen s e.handle ∧
      objRow (field e.bytes 8 2) (field e.bytes 10 1) = none) ∧
    (∃ (g : Nat) (s : State) (e : FetchedCmd), heads s g e (fun b => entryKind b == 1) ∧ heldOpen s e.handle ∧
      field e.bytes 8 2 = 0x6000 ∧ field e.bytes 10 1 = 2 ∧ zeroAt e.bytes 65 63 = true ∧
      cmdCheck s.fuses (popped s g) g 0x6000 2 0 (slice e.bytes 64 1) false = 0 ∧ busesFree s ∧ s.dev.vault.ops = []) ∧
    (∃ (f : Fuses) (d : Dev) (g sl : Nat), sl < 4 ∧ g < 4096) :=
  ⟨⟨_, List.Mem.head _, 0, est (entry 3 0 []) dev0, entry 3 0 [], by decide +kernel⟩,
   ⟨_, List.Mem.head _, 0, s_RingEntriesStart_1, entry 3 2 [], by decide +kernel⟩,
   ⟨0, {}, est (dictEntry 0x4020 0 []) dev0, dictEntry 0x4020 0 [], ⟨0x4020, 0x4020, 0, 0, .cmd, .cmd, 0, 0, .full⟩,
     by decide +kernel⟩,
   ⟨0, est (dictEntry 0xFFFF 0 []) dev0, dictEntry 0xFFFF 0 [], by decide +kernel⟩,
   ⟨0, s_RingEntriesStart_2, dictEntry 0x6000 2 [], by decide +kernel⟩,
   ⟨{}, dev0, 0, 0, by decide +kernel⟩⟩

def s_CommandsAreFetched_1 : State :=
  cst { ctx0 with cmdProd := 1 } { dev0 with objs := dev0.objs ++ [(ob 0x7000 4, 16)] }

theorem witness_CommandsAreFetched :
    (∃ (b : List Byte) (g : Nat) (s : State), calm s ∧ nextFetch s.fuses s.dev = some g ∧ s.dev.frozen 0x8000 = false ∧
      ((s.dev.ctx g).cmdProd + 2 ^ 32 - (s.dev.ctx g).cmdCons) % 2 ^ 32 = 1 ∧ (s.dev.ctx g).fetched = [] ∧
      entryForm (slice b 0 128) = true) ∧
    (∃ (l : List (List Byte)) (g : Nat) (s : State), calm s ∧ nextFetch s.fuses s.dev = some g ∧ s.dev.frozen 0x8000 = false) ∧
    (∃ (g : Nat) (s : State), calm s ∧ (s.dev.ctx g).live = true) :=
  ⟨⟨(entry 7 0 []).bytes, 0, s_CommandsAreFetched_1, by decide +kernel⟩,
   ⟨[], 0, s_CommandsAreFetched_1, by decide +kernel⟩,
   ⟨0, st dev0, by decide +kernel⟩⟩

def s_DoorbellsAndMailbox_1 : State :=
  st { dev0 with handles := [(1, { complete := true, event := some 0 })] }

def s_DoorbellsAndMailbox_2 : State :=
  st { dev0 with objs := dev0.objs ++ [(ob 0x7000 0x20, 1)], handles := [(1, { complete := true })] }

def s_DoorbellsAndMailbox_3 : State :=
  cst { ctx0 with intrDue := true } { dev0 with objs := dev0.objs ++ [(ob 0x7000 7, 3)] }

theorem witness_DoorbellsAndMailbox :
    (∃ (port g v : Nat) (s : State), calm s ∧ pageLive s.fuses s.dev port g = true ∧ v < 2 ^ 32 ∧
      (v + 2 ^ 32 - (s.dev.ctx g).cmdCons) % 2 ^ 32 ≤ obj s.fuses s.dev (0x7000 + g) 4) ∧
    (∃ (port g v : Nat) (s : State), calm s ∧ pageLive s.fuses s.dev port g = true ∧ v < 2 ^ 32 ∧
      obj s.fuses s.dev (0x7000 + g) 4 < (v + 2 ^ 32 - (s.dev.ctx g).cmdCons) % 2 ^ 32) ∧
    (∃ (port g v : Nat) (s : State), calm s ∧ pageLive s.fuses s.dev port g = true) ∧
    (∃ (port g v : Nat) (req : List Byte) (s : State), mboxLive s.fuses s.dev port g = true ∧ (s.dev.ctx g).mboxState ≠ 1 ∧
      v ≠ 0 ∧ v ≤ 2048 ∧
      let q := slice req 0 v
      frameLen q ≤ v ∧ frameTagged q = false ∧ requestOk (q.take (frameLen q)) = true ∧ frameRemote q = false ∧
        frameNear q = false) ∧
    (∃ (prin g : Nat) (s : State) (r : HandleRec), calm s ∧ g < 4096 ∧ (prin = 0 ∨ prin = g) ∧
      SMap.find? s.dev.handles (obj s.fuses s.dev (0x7000 + g) 0x20) = some r ∧ r.complete = true) ∧
    (∃ (g : Nat) (s : State), calm s ∧ (s.dev.ctx g).intrDue = true ∧ obj s.fuses s.dev (0x7000 + g) 7 ≠ 0xFFFF ∧
      s.dev.frozen 0x8000 = false) :=
  ⟨⟨0, 0, 1, wobj [(ob 0x7000 4, 16)], by decide +kernel⟩,
   ⟨0, 0, 17, wobj [(ob 0x7000 4, 16)], by decide +kernel⟩,
   ⟨0, 0, 1, s_DoorbellsAndMailbox_1, by decide +kernel⟩,
   ⟨0, 0, 44, readFrame, st dev0, by decide +kernel⟩,
   ⟨0, 0, s_DoorbellsAndMailbox_2, { complete := true }, by decide +kernel⟩,
   ⟨0, s_DoorbellsAndMailbox_3, by decide +kernel⟩⟩

def s_ContextsOpenAndClose_1 : State :=
  st { dev0 with ctxs := dev0.ctxs ++ [(1, { state := .opened, maps := [⟨0, 0, 65536, true, false, none⟩] })],
                 host := { bar2 := [⟨{}, [(4096, 16)], none⟩] } }

def s_ContextsOpenAndClose_2 : State :=
  st { dev0 with handles := [(2, { complete := true })], ctxs := [(0, { state := .opened, seqNext := 5 })] }

def s_ContextsOpenAndClose_3 : State :=
  st { dev0 with ctxs := dev0.ctxs ++ [(1, { state := .opened })], objs := dev0.objs ++ [(ob 0x7001 1, 3)] }

theorem witness_ContextsOpenAndClose :
    (∃ (w : Writer) (g : Nat) (s : State), g < 4096 ∧ takes s w (0x7000 + g) 0x18 0 ∧ (s.dev.ctx g).state = .free ∧
      obj s.fuses s.dev (0x7000 + g) 0x0D ≠ 0) ∧
    (∃ (w : Writer) (g : Nat) (s : State), g < 4096 ∧ g ≠ 0 ∧ takes s w (0x7000 + g) 0x19 0 ∧ handleCtx w.prin ≠ g ∧
      ((s.dev.ctx g).state = .opened ∨ (s.dev.ctx g).state = .running ∨ (s.dev.ctx g).state = .error) ∧
      grantedCores s.fuses s.dev g = [] ∧ keySlots s.fuses s.dev g = [] ∧ s.dev.proof.ctx ≠ g ∧ (∀ r ∈ s.dev.host.closes,
      r.ctx ≠ g) ∧ (∀ o ∈ s.dev.vault.ops, o.ctx ≠ g) ∧ SMap.find? s.dev.handles 0 = none ∧ (∀ m ∈ (s.dev.ctx g).maps,
      mapTouched s.fuses s.dev g m = false)) ∧
    (∃ (w : Writer) (g : Nat) (s : State) (m : Mapping), g < 4096 ∧ g ≠ 0 ∧ takes s w (0x7000 + g) 0x19 0 ∧
      handleCtx w.prin ≠ g ∧ ((s.dev.ctx g).state = .opened ∨ (s.dev.ctx g).state = .running ∨ (s.dev.ctx g).state = .error) ∧
      grantedCores s.fuses s.dev g = [] ∧ keySlots s.fuses s.dev g = [] ∧ s.dev.proof.ctx ≠ g ∧ (∀ r ∈ s.dev.host.closes,
      r.ctx ≠ g) ∧ m ∈ (s.dev.ctx g).maps ∧ s.dev.host.bar2.any (fun b => b.runs.any (fun r => meets m.daddr m.len r.1 r.2)) =
      true) ∧
    (∃ (w : Writer) (s : State), takes s w 0x7000 0x19 0) ∧
    (∃ (w : Writer) (g : Nat) (s : State), g < 4096 ∧ takes s w (0x7000 + g) 0x22 0) ∧
    (∃ (fn : Nat) (s : State), calm s ∧ fn ≠ 0) ∧
    (∃ (s : State), calm s ∧ usedCtxs s.dev = []) :=
  ⟨⟨{ prin := 0 }, 1, wobj [(ob 0x7001 0x0D, 16)], by decide +kernel⟩,
   ⟨{ prin := 0 }, 1, st { dev0 with ctxs := dev0.ctxs ++ [(1, { state := .opened })] }, by decide +kernel⟩,
   ⟨{ prin := 0 }, 1, s_ContextsOpenAndClose_1, ⟨0, 0, 65536, true, false, none⟩, by decide +kernel⟩,
   ⟨{ prin := 0 }, st dev0, by decide +kernel⟩,
   ⟨{ prin := 0 }, 0, s_ContextsOpenAndClose_2, by decide +kernel⟩,
   ⟨3, s_ContextsOpenAndClose_3, by decide +kernel⟩,
   ⟨st dev0, by decide +kernel⟩⟩

def s_Bar2AndPciePorts_1 : State :=
  cst ctx0 { dev0 with mem := { hbm := [(stackIdx {} 0, { state := .retraining })] } }

theorem witness_Bar2AndPciePorts :
    (∃ (port fn o n : Nat) (s : State) (rs : List (Nat × Nat)), calm s ∧ port = obj s.fuses s.dev 0xD000 0 ∧
      bar2Runs s.fuses s.dev fn o n false = some rs ∧ s.dev.host.bar2 = [] ∧
      rs.all (runReady s.fuses s.dev (hostWho s.fuses s.dev)) = true ∧ s.dev.frozen 0x8000 = false) ∧
    (∃ (port fn o : Nat) (l : List Byte) (s : State) (rs : List (Nat × Nat)), calm s ∧ port = obj s.fuses s.dev 0xD000 0 ∧
      bar2Runs s.fuses s.dev fn o l.length true = some rs ∧ s.dev.host.bar2 = [] ∧
      rs.all (writeReady s.fuses s.dev (hostWho s.fuses s.dev)) = true) ∧
    (∃ (port fn o : Nat) (l : List Byte) (s : State) (rs : List (Nat × Nat)), calm s ∧ port = obj s.fuses s.dev 0xD000 0 ∧
      bar2Runs s.fuses s.dev fn o l.length true = some rs ∧ s.dev.host.bar2 = [] ∧
      rs.all (writeReady s.fuses s.dev (hostWho s.fuses s.dev)) = false) ∧
    (∃ (w : Writer) (fn v : Nat) (s : State), calm s ∧ fn < 256 ∧ writeReach s.fuses s.dev w.prin (0xD100 + fn) 1 = 0 ∧
      v % 2 ^ 36 = 0 ∧ v ≤ 2 ^ 48 - 2 ^ 36 ∧ (s.dev.prin w.prin).staged = []) ∧
    (∃ (l0 l1 : Nat) (s : State), calm s ∧ obj s.fuses s.dev 0xD000 1 = 1 ∧ s.dev.proof.state = 0 ∧
      obj s.fuses s.dev 0xD000 0 ≤ 1 ∧ (if obj s.fuses s.dev 0xD000 0 = 0 then l0 % 16 = 0 ∧ l1 % 16 = 2 else l1 % 16 = 0 ∧
      l0 % 16 = 2)) ∧
    (∃ (w : Writer) (s : State), takes s w 0xD000 2 0 ∧ otherUp s.fuses s.dev = true ∧ s.dev.proof.state = 0) ∧
    (∃ (w : Writer) (s : State), takes s w 0xD000 2 0 ∧ otherUp s.fuses s.dev = false) :=
  ⟨⟨0, 0, 16, 8, cst ctx0 dev0, [(16, 8)], by decide +kernel⟩,
   ⟨0, 0, 16, [1#8, 2#8], cst ctx0 dev0, [(16, 2)], by decide +kernel⟩,
   ⟨0, 0, 16, [1#8, 2#8], s_Bar2AndPciePorts_1, [(16, 2)], by decide +kernel⟩,
   ⟨{ prin := 0 }, 0, 2 ^ 36, cst ctx0 dev0, by decide +kernel⟩,
   ⟨16, 18, wobj [(ob 0xD000 1, 1)], by decide +kernel⟩,
   ⟨{ prin := 0 }, wobj [(ob 0xD000 4, 2)], by decide +kernel⟩,
   ⟨{ prin := 0 }, wobj [(ob 0xD000 4, 0)], by decide +kernel⟩⟩

def s_RoundGroupsForm_1 : State :=
  cfg [(ob 0x5000 0x0F, 1)]

def s_RoundGroupsForm_2 : State :=
  lst { igd hold0 with igForm := some { handles := [1] }, handles := [(1, {})] }

theorem witness_RoundGroupsForm :
    (∃ (w : Writer) (e : Outside) (s : State), mayForm s w ∧ igWhole s w ∧ (∀ a ∈ e.answers, a.2.2 = igDigest s.fuses s.dev) ∧
      (∀ c ∈ counterparts s.fuses s.dev, c ∈ e.answers.map (fun a => 64 * a.1 + a.2.1))) ∧
    (∃ (w : Writer) (s : State), mayForm s w ∧ igWhole s w ∧ counterparts s.fuses s.dev ≠ []) ∧
    (∃ (w : Writer) (e : Outside) (s : State), mayForm s w ∧ igWhole s w ∧ (∃ a ∈ e.answers, a.2.2 ≠ igDigest s.fuses s.dev ∧
      64 * a.1 + a.2.1 ∈ counterparts s.fuses s.dev)) ∧
    (∃ (w : Writer) (e : Outside) (s : State), mayForm s w ∧ igConfigOk s.fuses (igDev s w 0x18) (readPeers s.fuses (igDev s w
      0x18)) = false) ∧
    (∃ (s : State) (r : IgFormRec) (h : Nat), calm s ∧ s.dev.igForm = some r ∧ r.handles = [h] ∧ heldOpen s h) ∧
    (∃ (w : Writer) (s : State), takes s w 0x5000 0x19 0 ∧ (igSites s.fuses s.dev).contains (siteOf s.fuses s.dev (devAddr
      s.fuses s.dev)) = true ∧ (∀ c ∈ counterparts s.fuses s.dev,
      (SMap.find? s.dev.igPeers (256 * (c % 64) + c / 64)).isSome = true) ∧ (∃ x ∈ servedXs s.fuses s.dev,
      (s.dev.holder x).present.testBit (ownRank s.fuses s.dev) = false)) :=
  ⟨⟨{ prin := 0 }, { answers := [(0, 1, igDigest {} (cfg [(ob 0x5000 0x0F, 1)]).dev)] }, s_RoundGroupsForm_1, by decide +kernel⟩,
   ⟨{ prin := 0 }, s_RoundGroupsForm_1, by decide +kernel⟩,
   ⟨{ prin := 0 }, { answers := [(0, 1, 1 + igDigest {} (cfg [(ob 0x5000 0x0F, 1)]).dev)] }, s_RoundGroupsForm_1,
     by decide +kernel⟩,
   ⟨{ prin := 0 }, {}, cfg [], by decide +kernel⟩,
   ⟨s_RoundGroupsForm_2, { handles := [1] }, 1, by decide +kernel⟩,
   ⟨{ prin := 0 }, s_RoundGroupsForm_1, by decide +kernel⟩⟩

def s_PostsAreTaken_1 : State :=
  let x := pigs hold0 (post 1 0 0 4096) []
  { x with dev := { x.dev with mem := { x.dev.mem with poison := [16] } } }

theorem witness_PostsAreTaken :
    (∃ (x : Nat) (s : State) (e : List Byte), posts s x 1 e ∧ ((s.dev.holder x).round_ (field e 8 4)).admitted = none ∧
      holdPoisoned s.fuses s.dev x (postNeeds s.fuses s.dev x e) = false) ∧
    (∃ (x : Nat) (s : State) (e : List Byte), posts s x 1 e ∧ holdPoisoned s.fuses s.dev x (postNeeds s.fuses s.dev x e) = true) ∧
    (∃ (x : Nat) (s : State) (e : List Byte), posts s x 2 e ∧ (s.dev.holder x).coord ≠ ownRank s.fuses s.dev ∧
      ((s.dev.holder x).round_ (field e 8 4)).admitted = none ∧ (obj s.fuses s.dev 0x5000 0 = 1 ∨ (obj s.fuses s.dev 0x5000 0 =
      0 ∧ subMask (s.dev.holder x).present (haveThen s x (field e 8 4)) = false))) ∧
    (∃ (x : Nat) (s : State) (e : List Byte), posts s x 2 e ∧ (s.dev.holder x).coord ≠ ownRank s.fuses s.dev ∧
      ((s.dev.holder x).round_ (field e 8 4)).admitted = none ∧ obj s.fuses s.dev 0x5000 0 = 0 ∧
      subMask (s.dev.holder x).present (haveThen s x (field e 8 4)) = true ∧
      ((s.dev.holder x).round_ (field e 8 4)).reported = none) ∧
    (∃ (x : Nat) (s : State) (e : List Byte), posts s x 3 e ∧ (s.dev.holder x).rounds = []) ∧
    (∃ p ∈ ([.segment, .roundEnd, .release] : List (Nat → Instr)), ∃ (x : Nat) (s : State) (e : List Byte), calm s ∧
      nextPost s.fuses s.dev x = some e ∧ postOk s.fuses s.dev x e = false) :=
  ⟨⟨0, pigs hold0 (post 1 0 0 4096) [], post 1 0 0 4096, by decide +kernel⟩,
   ⟨0, s_PostsAreTaken_1, post 1 0 0 4096, by decide +kernel⟩,
   ⟨0, pigs hold0 (post 2 0 1 0) [], post 2 0 1 0, by decide +kernel, by decide +kernel, by decide +kernel,
     Or.inl (by decide +kernel)⟩,
   ⟨0, pigs { hold0 with present := 1 } (post 2 0 1 0) [(ob 0x5000 0, 0)], post 2 0 1 0, by decide +kernel⟩,
   ⟨0, pigs { hold0 with rounds := [] } (post 3 0 0 0) [], post 3 0 0 0, by decide +kernel⟩,
   ⟨_, List.Mem.head _, 0, pigs hold0 (post 4 0 0 0) [], post 4 0 0 0, by decide +kernel⟩⟩

def s_LongHaulEgress_1 : State :=
  igs { hold0 with queue := [{ typ := 2, rank := 1, round := 0, again := some [1#8] }] }

theorem witness_LongHaulEgress :
    (∃ (p k : Nat) (s : State) (g : Dgram) (fr : List Byte), serves s p k g ∧ g.again = some fr) ∧
    (∃ (p k : Nat) (s : State) (g : Dgram) (key : List Byte), builds s p k g ∧ s.dev.vault.clash = false ∧
      slotKey s.dev (obj s.fuses s.dev 0x5030 g.rank) = some key ∧ obj s.fuses s.dev (0x5010 + p) 9 < 2 ^ 64 - 1) ∧
    (∃ (p k : Nat) (s : State) (g : Dgram), builds s p k g) ∧
    (∃ (x : Nat) (h : Holder) (s : State), calm s ∧ s.dev.holders = [(x, h)] ∧ h.live = true) ∧
    (∃ (p x : Nat) (h : Holder) (s : State), calm s ∧ s.fuses.longHaul = true ∧ p ≤ 1 ∧ (s.dev.lhPort p).up = true ∧
      s.dev.holders = [(x, h)] ∧ h.port = p ∧ h.state ≠ .unformed ∧ h.state ≠ .joining) ∧
    (∃ (p : Nat) (s : State), calm s ∧ s.fuses.longHaul = true ∧ p ≤ 1 ∧ (s.dev.lhPort p).up = false ∧
      lhUp s.fuses (s.dev.modLh p (fun l => { l with up := true })) p = true) :=
  ⟨⟨0, 1, s_LongHaulEgress_1, { typ := 2, rank := 1, round := 0, again := some [1#8] }, [1#8], by decide +kernel⟩,
   ⟨0, 1, igs { hold0 with queue := [{ typ := 2, rank := 1, round := 0 }] }, { typ := 2, rank := 1, round := 0 }, zeros 32,
     by decide +kernel⟩,
   ⟨0, 1, igs { hold0 with queue := [{ typ := 2, rank := 1, round := 0 }] }, { typ := 2, rank := 1, round := 0 },
     by decide +kernel⟩,
   ⟨0, hold0, igs hold0, by decide +kernel⟩,
   ⟨0, 0, hold0, igs hold0, by decide +kernel⟩,
   ⟨1, igs hold0, by decide +kernel⟩⟩

def s_StreamsAreReceived_1 : State :=
  lst { igd hold0 with objs := (ob 0x5000 9, 16) :: (igd hold0).objs }

def s_StreamsAreReceived_2 : State :=
  igs { hold0 with rounds := [(0, { segs := [(0, { plane := 4096, len := 256, book := [] })] })] }

def s_StreamsAreReceived_3 : State :=
  lst { igd { hold0 with state := .joining, joinFrom := some 0 } with objs := (ob 0x5000 9, 16) :: (igd hold0).objs }

theorem witness_StreamsAreReceived :
    (∃ (p : Nat) (fr : List Byte) (x j : Nat) (h : IgHdr) (pl : List Byte) (s : State), arrives s p fr 0 x j h pl ∧
      timely s x h ∧ (given s x j h).abandoned = false ∧ h.seg ∉ (given s x j h).written ∧ (∀ q,
      SMap.find? (given s x j h).segs h.seg = some q → q.decoded = none ∧ fitsStream s q h pl) ∧
      (SMap.find? (given s x j h).segs h.seg = none → ∃ q, newStream s.fuses s.dev p h.len = some q ∧ fitsStream s q h pl)) ∧
    (∃ (p : Nat) (fr : List Byte) (x j : Nat) (h : IgHdr) (pl : List Byte) (s : State) (q : RecvSeg),
      arrives s p fr 0 x j h pl ∧ timely s x h ∧ (given s x j h).abandoned = false ∧ h.seg ∉ (given s x j h).written ∧
      SMap.find? (given s x j h).segs h.seg = none ∧ newStream s.fuses s.dev p h.len = some q ∧ fitsStream s q h pl ∧
      h.index < h.k ∧ (∀ l ∈ linesOf (sliceAddr s.fuses s.dev q (h.group * igK s.fuses s.dev + h.index)) (igSlice s.fuses
      s.dev), lineStack s.fuses s.dev l = .ready)) ∧
    (∃ (p : Nat) (fr : List Byte) (x j : Nat) (h : IgHdr) (pl : List Byte) (s : State), arrives s p fr 1 x j h pl ∧
      timely s x h ∧ endPartOk (given s x j h) h pl = true ∧ ((s.dev.holder x).round_ h.round).ended = none) ∧
    (∃ (p : Nat) (fr : List Byte) (x j : Nat) (h : IgHdr) (pl : List Byte) (s : State), arrives s p fr 2 x j h pl ∧
      timely s x h ∧ (s.dev.holder x).donating = [] ∧ h.seg ≠ 0xFFFF) ∧
    (∃ (p : Nat) (fr : List Byte) (x j : Nat) (h : IgHdr) (pl : List Byte) (s : State) (q : PostSeg),
      arrives s p fr 3 x j h pl ∧ timely s x h ∧ (s.dev.holder x).donating = [] ∧
      SMap.find? ((s.dev.holder x).round_ h.round).segs h.seg = some q ∧ h.group < groupCount s.fuses s.dev q.len ∧
      (∀ g ∈ (s.dev.holder x).queue, g.typ = 0 → g.rank = j → g.round = h.round → g.seg = h.seg → g.group ≠ h.group)) ∧
    (∃ (p : Nat) (fr : List Byte) (x j : Nat) (h : IgHdr) (pl : List Byte) (s : State), arrives s p fr 7 x j h pl) ∧
    (∃ (p : Nat) (fr : List Byte) (x j : Nat) (h : IgHdr) (pl : List Byte) (s : State), arrives s p fr 8 x j h pl ∧
      (s.dev.holder x).state = .joining ∧ (s.dev.holder x).joinFrom = some h.round ∧ (∀ q,
      (s.dev.holder x).joinRecv = some q → fitsStream s q h pl) ∧ ((s.dev.holder x).joinRecv = none → ∃ q,
      newStream s.fuses s.dev p h.len = some q ∧ fitsStream s q h pl)) :=
  ⟨⟨0, igFrame (ihdr 0 16) (zeros 16), 0, 1, ihdr 0 16, zeros 16, s_StreamsAreReceived_1, ⟨by decide +kernel, by decide,
     by decide +kernel, by decide +kernel, by decide +kernel, igBody (ihdr 0 16) (zeros 16), igBytes (ihdr 0 16) (zeros 16),
     zeros 32, by decide +kernel⟩, by decide +kernel, by decide +kernel, by decide +kernel, none_of (by decide +kernel),
     fun _ => ⟨{ len := 16, place := [0] }, by decide +kernel⟩⟩,
   ⟨0, igFrame (ihdr 0 16) (zeros 16), 0, 1, ihdr 0 16, zeros 16, s_StreamsAreReceived_1, { len := 16, place := [0] },
     ⟨by decide +kernel, by decide, by decide +kernel, by decide +kernel, by decide +kernel, igBody (ihdr 0 16) (zeros 16),
     igBytes (ihdr 0 16) (zeros 16), zeros 32, by decide +kernel⟩, by decide +kernel⟩,
   ⟨0, igFrame ({ ihdr 1 12 with seg := 0xFFFF }) (leBytes 2 1 ++ leBytes 2 0 ++ leBytes 2 1 ++ leBytes 2 0 ++ leBytes 4 300),
     0, 1, { ihdr 1 12 with seg := 0xFFFF }, leBytes 2 1 ++ leBytes 2 0 ++ leBytes 2 1 ++ leBytes 2 0 ++ leBytes 4 300,
     igs hold0, ⟨by decide +kernel, by decide, by decide +kernel, by decide +kernel, by decide +kernel,
     igBody ({ ihdr 1 12 with seg := 0xFFFF }) (leBytes 2 1 ++ leBytes 2 0 ++ leBytes 2 1 ++ leBytes 2 0 ++ leBytes 4 300),
     igBytes ({ ihdr 1 12 with seg := 0xFFFF }) (leBytes 2 1 ++ leBytes 2 0 ++ leBytes 2 1 ++ leBytes 2 0 ++ leBytes 4 300),
     zeros 32, by decide +kernel⟩, by decide +kernel⟩,
   ⟨0, igFrame (ihdr 2 0) ([]), 0, 1, ihdr 2 0, [], igs { hold0 with queue := [{ typ := 0, rank := 1, round := 0 }] },
     ⟨by decide +kernel, by decide, by decide +kernel, by decide +kernel, by decide +kernel, igBody (ihdr 2 0) ([]),
     igBytes (ihdr 2 0) ([]), zeros 32, by decide +kernel⟩, by decide +kernel⟩,
   ⟨0, igFrame (ihdr 3 32) (zeros 32), 0, 1, ihdr 3 32, zeros 32, s_StreamsAreReceived_2,
     { plane := 4096, len := 256, book := [] }, ⟨by decide +kernel, by decide, by decide +kernel, by decide +kernel,
     by decide +kernel, igBody (ihdr 3 32) (zeros 32), igBytes (ihdr 3 32) (zeros 32), zeros 32, by decide +kernel⟩,
     by decide +kernel⟩,
   ⟨0, igFrame (ihdr 7 0) ([]), 0, 1, ihdr 7 0, [], igs hold0, ⟨by decide +kernel, by decide, by decide +kernel,
     by decide +kernel, by decide +kernel, igBody (ihdr 7 0) ([]), igBytes (ihdr 7 0) ([]), zeros 32, by decide +kernel⟩⟩,
   ⟨0, igFrame (ihdr 8 16) (zeros 16), 0, 1, ihdr 8 16, zeros 16, s_StreamsAreReceived_3, ⟨by decide +kernel, by decide,
     by decide +kernel, by decide +kernel, by decide +kernel, igBody (ihdr 8 16) (zeros 16), igBytes (ihdr 8 16) (zeros 16),
     zeros 32, by decide +kernel⟩, by decide +kernel, by decide +kernel, none_of (by decide +kernel),
     fun _ => ⟨{ len := 16, place := [0] }, by decide +kernel⟩⟩⟩

def s_RoundsAreAdmitted_1 : State :=
  lst { igd hold0 with objs := (ob 0x5000 0, 0) :: (igd hold0).objs,
                       holders := [(0, { hold0 with coord := 0, rounds := [(0, { reports := [(0, 3)] })] })] }

def s_RoundsAreAdmitted_2 : State :=
  igs hold0

def s_RoundsAreAdmitted_3 : State :=
  igs { hold0 with coord := 0, rounds := [(0, { late := true, reports := [(0, 1)] })] }

theorem witness_RoundsAreAdmitted :
    (∃ (p : Nat) (fr : List Byte) (x j : Nat) (h : IgHdr) (pl : List Byte) (s : State), arrives s p fr 4 x j h pl ∧
      timely s x h ∧ (s.dev.holder x).present.testBit j = true ∧ ((s.dev.holder x).coord ≠ ownRank s.fuses s.dev ∨ (obj s.fuses
      s.dev 0x5000 0 = 0 ∧ ∃ k ∈ bitList 64 (s.dev.holder x).present, k ≠ j ∧
      SMap.find? ((s.dev.holder x).round_ h.round).reports k = none))) ∧
    (∃ (p : Nat) (fr : List Byte) (x j : Nat) (h : IgHdr) (pl : List Byte) (s : State), arrives s p fr 4 x j h pl ∧
      timely s x h ∧ h.round = (s.dev.holder x).round ∧ ((s.dev.holder x).round_ h.round).ended = none ∧
      (s.dev.holder x).present.testBit j = true ∧ (s.dev.holder x).coord = ownRank s.fuses s.dev ∧
      obj s.fuses s.dev 0x5000 0 = 0 ∧ 1 ≤ obj s.fuses s.dev 0x5000 5 ∧ (s.dev.holder x).joiners = [] ∧
      (∀ k ∈ bitList 64 (s.dev.holder x).present, k ≠ j → (SMap.find? ((s.dev.holder x).round_ h.round).reports k).isSome =
      true)) ∧
    (∃ (p : Nat) (fr : List Byte) (x j : Nat) (h : IgHdr) (pl : List Byte) (s : State), arrives s p fr 5 x j h pl ∧
      timely s x h ∧ h.round = (s.dev.holder x).round ∧ ((s.dev.holder x).round_ h.round).ended = none ∧
      j = (s.dev.holder x).coord) ∧
    (∃ (p : Nat) (fr : List Byte) (x j n : Nat) (h : IgHdr) (pl : List Byte) (s : State), arrives s p fr 5 x j h pl ∧
      timely s x h ∧ h.round = (s.dev.holder x).round ∧ ((s.dev.holder x).round_ h.round).ended = some n ∧
      j = (s.dev.holder x).coord ∧ (s.dev.holder x).commits = [] ∧
      ((s.dev.holder x).round_ ((h.round + 1) % 2 ^ 32)).admitted = none ∧
      subMask (field pl 0 8) (haveMask s.fuses s.dev x h.round) = true ∧
      (admitRegions s.fuses s.dev x h.round (field pl 0 8)).all (fun q => holdReady s.fuses s.dev x q.1 q.2) = true) ∧
    (∃ (p : Nat) (fr : List Byte) (x j : Nat) (h : IgHdr) (pl : List Byte) (s : State), arrives s p fr 6 x j h pl ∧
      (s.dev.holder x).live = true ∧ (s.dev.holder x).state ≠ .joining ∧ newer16 (field pl 0 2) (s.dev.holder x).epoch = true ∧
      (s.dev.holder x).commits = [] ∧ roundBefore (s.dev.holder x).round (field pl 4 4) = false ∧
      ((s.dev.holder x).round_ (s.dev.holder x).round).ended = none ∧
      ((s.dev.holder x).round_ (s.dev.holder x).round).admitted = none) ∧
    (∃ (p : Nat) (fr : List Byte) (x j : Nat) (h : IgHdr) (pl : List Byte) (s : State), arrives s p fr 6 x j h pl ∧
      (s.dev.holder x).live = true ∧ (s.dev.holder x).state ≠ .joining ∧
      newer16 (field pl 0 2) (s.dev.holder x).latest.1 = true ∧ field pl 8 8 ≠ 0 ∧
      roundBefore (s.dev.holder x).round (field pl 4 4) = true ∧ (∀ c ∈ (s.dev.holder x).commits,
      roundBefore (s.dev.holder x).round c.from_ = true) ∧ ((s.dev.holder x).round_ (s.dev.holder x).round).ended = none ∧
      ((s.dev.holder x).round_ (s.dev.holder x).round).admitted = none) ∧
    (∃ (p : Nat) (fr : List Byte) (x j : Nat) (h : IgHdr) (pl : List Byte) (s : State), arrives s p fr 9 x j h pl ∧
      (s.dev.holder x).live = true ∧ (s.dev.holder x).present.testBit j = false ∧ j ∉ (s.dev.holder x).joiners) ∧
    (∃ (x r : Nat) (s : State), calm s ∧ (s.dev.holder x).live = true ∧ obj s.fuses s.dev 0x5000 0 = 1 ∧
      ((s.dev.holder x).round_ r).late = true ∧ ((s.dev.holder x).round_ r).admitted = none ∧
      (r = (s.dev.holder x).openRound ∨ r = ((s.dev.holder x).openRound + 1) % 2 ^ 32) ∧ (s.dev.holder x).commits = [] ∧
      (s.dev.holder x).coord = ownRank s.fuses s.dev ∧ (s.dev.holder x).joiners = [] ∧
      (SMap.find? ((s.dev.holder x).round_ r).reports (ownRank s.fuses s.dev)).isSome = true ∧
      (∀ k ∈ bitList 64 (s.dev.holder x).present, SMap.get 0 (s.dev.holder x).missBy k + 1 < obj s.fuses s.dev 0x5000 5)) ∧
    (∃ (x j : Nat) (s : State), calm s ∧ (s.dev.holder x).live = true ∧ (s.dev.holder x).present.testBit j = true ∧ j < 64 ∧
      j ≠ ownRank s.fuses s.dev ∧ (s.dev.holder x).coord = ownRank s.fuses s.dev ∧ (s.dev.holder x).commits = [] ∧
      ownRank s.fuses s.dev < 64 ∧ (s.dev.holder x).present.testBit (ownRank s.fuses s.dev) = true ∧
      let rest := ((bitList 64 (s.dev.holder x).present).filter (· ≠ j)).map (2 ^ ·)
      igQuorum s.fuses s.dev (bitList 64 (s.dev.holder x).present) (bitList 64 rest.sum) = true ∧
        ((s.dev.holder x).round_ (s.dev.holder x).round).ended = none ∧
        ((s.dev.holder x).round_ (s.dev.holder x).round).admitted = none) :=
  ⟨⟨0, igFrame (ihdr 4 8) (leBytes 8 3), 0, 1, ihdr 4 8, leBytes 8 3, igs hold0, ⟨by decide +kernel, by decide,
     by decide +kernel, by decide +kernel, by decide +kernel, igBody (ihdr 4 8) (leBytes 8 3),
     igBytes (ihdr 4 8) (leBytes 8 3), zeros 32, by decide +kernel⟩, by decide +kernel, by decide +kernel,
     Or.inl (by decide +kernel)⟩,
   ⟨0, igFrame (ihdr 4 8) (leBytes 8 3), 0, 1, ihdr 4 8, leBytes 8 3, s_RoundsAreAdmitted_1, ⟨by decide +kernel, by decide,
     by decide +kernel, by decide +kernel, by decide +kernel, igBody (ihdr 4 8) (leBytes 8 3),
     igBytes (ihdr 4 8) (leBytes 8 3), zeros 32, by decide +kernel⟩, by decide +kernel⟩,
   ⟨0, igFrame (ihdr 5 16) (leBytes 8 3 ++ leBytes 8 2), 0, 1, ihdr 5 16, leBytes 8 3 ++ leBytes 8 2, igs hold0,
     ⟨by decide +kernel, by decide, by decide +kernel, by decide +kernel, by decide +kernel,
     igBody (ihdr 5 16) (leBytes 8 3 ++ leBytes 8 2), igBytes (ihdr 5 16) (leBytes 8 3 ++ leBytes 8 2), zeros 32,
     by decide +kernel⟩, by decide +kernel⟩,
   ⟨0, igFrame (ihdr 5 16) (leBytes 8 1 ++ leBytes 8 1), 0, 1, 1, ihdr 5 16, leBytes 8 1 ++ leBytes 8 1,
     igs { hold0 with rounds := [(0, { ended := some 1 })] }, ⟨by decide +kernel, by decide, by decide +kernel,
     by decide +kernel, by decide +kernel, igBody (ihdr 5 16) (leBytes 8 1 ++ leBytes 8 1),
     igBytes (ihdr 5 16) (leBytes 8 1 ++ leBytes 8 1), zeros 32, by decide +kernel⟩, by decide +kernel⟩,
   ⟨0, igFrame (ihdr 6 24) (leBytes 2 1 ++ zeros 6 ++ leBytes 8 3 ++ zeros 8), 0, 1, ihdr 6 24,
     leBytes 2 1 ++ zeros 6 ++ leBytes 8 3 ++ zeros 8, s_RoundsAreAdmitted_2, ⟨by decide +kernel, by decide, by decide +kernel,
     by decide +kernel, by decide +kernel, igBody (ihdr 6 24) (leBytes 2 1 ++ zeros 6 ++ leBytes 8 3 ++ zeros 8),
     igBytes (ihdr 6 24) (leBytes 2 1 ++ zeros 6 ++ leBytes 8 3 ++ zeros 8), zeros 32, by decide +kernel⟩, by decide +kernel⟩,
   ⟨0, igFrame (ihdr 6 24) (leBytes 2 2 ++ zeros 2 ++ leBytes 4 1 ++ leBytes 8 3 ++ zeros 8), 0, 1, ihdr 6 24,
     leBytes 2 2 ++ zeros 2 ++ leBytes 4 1 ++ leBytes 8 3 ++ zeros 8, s_RoundsAreAdmitted_2, ⟨by decide +kernel, by decide,
     by decide +kernel, by decide +kernel, by decide +kernel, igBody (ihdr 6 24) (leBytes 2 2 ++ zeros 2 ++ leBytes 4 1 ++
     leBytes 8 3 ++ zeros 8), igBytes (ihdr 6 24) (leBytes 2 2 ++ zeros 2 ++ leBytes 4 1 ++ leBytes 8 3 ++ zeros 8), zeros 32,
     by decide +kernel⟩, by decide +kernel⟩,
   ⟨0, igFrame (ihdr 9 0) ([]), 0, 1, ihdr 9 0, [], igs { hold0 with coord := 0, present := 1 }, ⟨by decide +kernel, by decide,
     by decide +kernel, by decide +kernel, by decide +kernel, igBody (ihdr 9 0) ([]), igBytes (ihdr 9 0) ([]), zeros 32,
     by decide +kernel⟩, by decide +kernel⟩,
   ⟨0, 0, s_RoundsAreAdmitted_3, by decide +kernel⟩,
   ⟨0, 1, igs { hold0 with coord := 0 }, by decide +kernel⟩⟩

def s_SegmentsComplete_1 : State :=
  lst { igd hold0 with holders := [(0, { hold0 with rounds := [(0, { recv := [(1, { segs := [(0, { len := 288, place := [0], groups := [(0, [(0, zeros 256 ++ codedPlane 0 [])])] })] })] })] })], codecs := [(1, { queue := [segOp (igd hold0) 0 1 0 0] })] }

def s_SegmentsComplete_2 : State :=
  lst { igd hold0 with holders := [(0, { hold0 with rounds := [(0, { recv := [(1, { segs := [(0, { len := 288, place := [0], groups := [(0, [(0, zeros 256 ++ codedPlane 0 [])])] })] })] })] })] }

def s_SegmentsComplete_3 : State :=
  lst { igd hold0 with handles := [(1, {})],
                       holders := [(0, { hold0 with state := .joining, joinHandles := [1], joinRecv := some { len := 0 } })] }

def s_SegmentsComplete_4 : State :=
  lst { igd hold0 with objs := (ob 0x5000 9, 16) :: (igd hold0).objs,
                       holders := [(0, { hold0 with rounds := [(0, { recv := [(1, { segs := [(0, { len := 272, groups := [(1, [(0, [1#8])])] })] })] })] })] }

def s_SegmentsComplete_5 : State :=
  lst { igd hold0 with objs := (ob 0x5000 0, 1) :: (igd hold0).objs,
                       holders := [(0, { hold0 with rounds := [(0, { ended := some 1 })] })] }

theorem witness_SegmentsComplete :
    (∃ (x j r g : Nat) (s : State) (q : RecvSeg), calm s ∧ SMap.find? ((s.dev.holder x).contrib r j).segs g = some q ∧
      q.decoded = none ∧ engineAt (s.dev.engine (segEngine s.dev x)) (x, j, r, g) = true ∧
      (streamLines s.fuses s.dev q).all (runReady s.fuses s.dev (intakeWho s.dev q.port)) = true ∧
      poisonedIn s.fuses s.dev (streamLines s.fuses s.dev q) = [] ∧
      let o := s.dev.holder x
      let b := igBook s.fuses s.dev x j r
      let entry := slice (recoverStream s.fuses s.dev q) 0 256
      let plane := (recoverStream s.fuses s.dev q).drop 256
      let out := decodePlane (streamBook s.fuses s.dev b entry) (fun _ _ => none) plane (segSectors o g)
      let src := (out.sectors.map (fun v => v.getD [])).flatten
      let slot := slotAddr s.fuses s.dev x j r + segOffset o g
      let d1 := putBook s.fuses (noteRead s.fuses s.dev (intakeWho s.dev q.port) (streamLines s.fuses s.dev q)) x b entry
      bookReady s.fuses s.dev x b = true ∧ out.status = 0 ∧ field plane 0 4 = igSecbase r g ∧
        setFree s.fuses s.dev x r = true ∧ holdReady s.fuses d1 x slot src.length = true ∧ (o.round_ r).ended = none ∧
        (o.round_ r).admitted = none) ∧
    (∃ (x j r g : Nat) (s : State) (q : RecvSeg), calm s ∧ SMap.find? ((s.dev.holder x).contrib r j).segs g = some q ∧
      q.decoded = none ∧ streamComplete s.fuses s.dev q = true ∧ (s.dev.engine (segEngine s.dev x)).accepts = true ∧
      engineHas (s.dev.engine (segEngine s.dev x)) (x, j, r, g) = false ∧ engineAt (s.dev.engine (segEngine s.dev x)) (x, j, r,
      g) = false) ∧
    (∃ (x h : Nat) (s : State) (q : RecvSeg), calm s ∧ (s.dev.holder x).state = .joining ∧ (s.dev.holder x).joinRecv = some q ∧
      (s.dev.holder x).joinHandles = [h] ∧ (∀ y, y ≠ x → ∀ o, (y, o) ∈ s.dev.holders → h ∉ o.joinHandles) ∧
      SMap.sorted s.dev.holders = true ∧ heldOpen s h ∧ streamComplete s.fuses s.dev q = true ∧
      (streamLines s.fuses s.dev q).all (runReady s.fuses s.dev (intakeWho s.dev q.port)) = true ∧
      holdReady s.fuses s.dev x ((s.dev.holder x).blk 48 8) (2 * (s.dev.holder x).blk 64 8) = true ∧
      holdReady s.fuses s.dev x ((s.dev.holder x).blk 56 8) ((s.dev.holder x).blk 64 8 + (s.dev.holder x).blk 64 8 / 32) = true) ∧
    (∃ (x j r g i : Nat) (s : State) (q : RecvSeg), calm s ∧ (s.dev.holder x).live = true ∧
      (SMap.find? (s.dev.holder x).rounds r).isSome = true ∧ ((s.dev.holder x).round_ r).admitted = none ∧
      ((s.dev.holder x).contrib r j).abandoned = false ∧ g ∉ ((s.dev.holder x).contrib r j).written ∧
      SMap.find? ((s.dev.holder x).contrib r j).segs g = some q ∧
      nakDue s.fuses s.dev q i (((s.dev.holder x).contrib r j).naked.contains (g, i)) = true) ∧
    (∃ (x j r part n : Nat) (s : State), calm s ∧ ((s.dev.holder x).round_ r).ended = some n ∧ (s.dev.holder x).live = true ∧
      ((s.dev.holder x).round_ r).admitted = none ∧ part < endParts n ∧ (j, part) ∉ ((s.dev.holder x).round_ r).endAcks ∧
      (s.dev.holder x).present.testBit j = true ∧ (∀ g ∈ (s.dev.holder x).queue, g.typ = 1 → g.rank ≠ j)) ∧
    (∃ (x r n : Nat) (s : State), calm s ∧ (s.dev.holder x).live = true ∧ obj s.fuses s.dev 0x5000 0 = 1 ∧
      ((s.dev.holder x).round_ r).ended = some n ∧ ((s.dev.holder x).round_ r).reported = none ∧
      ((s.dev.holder x).round_ r).admitted = none ∧ (s.dev.holder x).coord ≠ ownRank s.fuses s.dev) ∧
    (∃ (x r m : Nat) (s : State), calm s ∧ (s.dev.holder x).live = true ∧ ((s.dev.holder x).round_ r).reported = some m ∧
      ((s.dev.holder x).round_ r).admitted = none ∧ (s.dev.holder x).coord ≠ ownRank s.fuses s.dev ∧
      (∀ g ∈ (s.dev.holder x).queue, g.typ ≠ 4)) :=
  ⟨⟨0, 1, 0, 0, s_SegmentsComplete_1, { len := 288, place := [0], groups := [(0, [(0, zeros 256 ++ codedPlane 0 [])])] },
     by decide +kernel⟩,
   ⟨0, 1, 0, 0, s_SegmentsComplete_2, { len := 288, place := [0], groups := [(0, [(0, zeros 256 ++ codedPlane 0 [])])] },
     by decide +kernel⟩,
   ⟨0, 1, s_SegmentsComplete_3, { len := 0 }, by decide +kernel, by decide +kernel, by decide +kernel, by decide +kernel,
     fun y hy o h => by
      have := List.mem_singleton.mp h; cases this; exact absurd rfl hy, by decide +kernel⟩,
   ⟨0, 1, 0, 0, 0, s_SegmentsComplete_4, { len := 272, groups := [(1, [(0, [1#8])])] }, by decide +kernel⟩,
   ⟨0, 1, 0, 0, 1, igs { hold0 with rounds := [(0, { ended := some 1 })] }, by decide +kernel⟩,
   ⟨0, 0, 1, s_SegmentsComplete_5, by decide +kernel⟩,
   ⟨0, 0, 1, igs { hold0 with rounds := [(0, { reported := some 1 })] }, by decide +kernel⟩⟩

def s_ProofsAreTaken_1 : State :=
  let x := prf {}
  { x with dev := { x.dev with mem := { x.dev.mem with hbm := [(stackIdx {} 4096, { state := .retraining })] } } }

def s_ProofsAreTaken_2 : State :=
  prf { state := 2, plan := [planEntry 4 1 8 8192 4096], left := [pitem] }

def s_ProofsAreTaken_3 : State :=
  prf { state := 2, handle := 9, step := 1, plan := [planEntry 4 1 8 8192 4096], left := [pitem] }

def s_ProofsAreTaken_4 : State :=
  st { dev0 with proof := { state := 2, plan := [planEntry 1 5 0 256 256] }, cores := [(0, { plate := [(256, 1#8)] })] }

theorem witness_ProofsAreTaken :
    (∃ (w : Writer) (a : Nat) (s : State) (es : List (List Byte)), a < 2 ^ 256 ∧ takes s w 0x9000 2 a ∧ planFirst s ∧
      planReady s.fuses (invoked s w 0x9000 2) w.prin = true ∧ (proofCheck s.fuses (invoked s w 0x9000 2) w.prin a).toOption =
      some es ∧ bits a 143 128 ≠ 0xFFFF ∧ (SMap.get {} s.dev.claims (claimPhys s.fuses s.dev w.prin (bits a 143 128))).value <
      bits a 255 192) ∧
    (∃ (w : Writer) (a : Nat) (s : State) (es : List (List Byte)), a < 2 ^ 256 ∧ takes s w 0x9000 2 a ∧ planFirst s ∧
      planReady s.fuses (invoked s w 0x9000 2) w.prin = true ∧ (proofCheck s.fuses (invoked s w 0x9000 2) w.prin a).toOption =
      some es ∧ bits a 143 128 = 0xFFFF) ∧
    (∃ (w : Writer) (a : Nat) (s : State), a < 2 ^ 256 ∧ takes s w 0x9000 2 a ∧ planFirst s ∧
      proofCheckArg s.fuses s.dev a = 0 ∧ planReady s.fuses (invoked s w 0x9000 2) w.prin = false) ∧
    (∃ (w : Writer) (a st : Nat) (s : State), a < 2 ^ 256 ∧ takes s w 0x9000 2 a ∧ planFirst s ∧ s.dev.proof.state ≠ 4 ∧
      (proofCheckArg s.fuses s.dev a ≠ 0 ∨ planReady s.fuses (invoked s w 0x9000 2) w.prin = true) ∧
      refusal (proofCheck s.fuses (invoked s w 0x9000 2) w.prin a) = some st) ∧
    (∃ (w : Writer) (s : State), takes s w 0x9000 3 0 ∧ s.dev.proof.state ≠ 0 ∧ s.dev.proof.state ≠ 5 ∧
      s.dev.proof.handle ≠ newHandle s w ∧ heldOpen s s.dev.proof.handle) ∧
    (∃ (s : State), tagsHere s ∧ s.dev.proof.left ≠ [] ∧ tagsRight s = true) ∧
    (∃ (s : State), tagsHere s ∧ heldOpen s s.dev.proof.handle ∧ tagsRight s = false) ∧
    (∃ (t : Nat) (s : State) (e : List Byte), calm s ∧ 2 ≤ s.dev.proof.state ∧ s.dev.proof.state ≤ 3 ∧ t ∉ s.dev.proof.copied ∧
      bulkReady s.dev t = true ∧ s.dev.proof.plan = [e] ∧ planPlate e = true ∧ planCore e < s.fuses.cores ∧
      s.fuses.tileOf (planCore e) = t ∧ (s.dev.core (planCore e)).plateBad = [] ∧ memWf (s.dev.core (planCore e)).plate = true) :=
  ⟨⟨{ prin := 0 }, 1 + 2 ^ 32 + 5 * 2 ^ 192, prf {}, [planEntry 1 1 0 8192 4096], by decide +kernel⟩,
   ⟨{ prin := 0 }, 1 + 2 ^ 32 + 0xFFFF * 2 ^ 128, prf {}, [planEntry 1 1 0 8192 4096], by decide +kernel⟩,
   ⟨{ prin := 0 }, 1 + 2 ^ 32 + 0xFFFF * 2 ^ 128, s_ProofsAreTaken_1, by decide +kernel⟩,
   ⟨{ prin := 0 }, 0, Status.genStale, prf {}, by decide +kernel⟩,
   ⟨{ prin := 0 }, prf { state := 2, handle := 9 }, by decide +kernel⟩,
   ⟨s_ProofsAreTaken_2, by decide +kernel⟩,
   ⟨s_ProofsAreTaken_3, by decide +kernel⟩,
   ⟨0, s_ProofsAreTaken_4, planEntry 1 5 0 256 256, by decide +kernel⟩⟩

def s_ProofsDrainAndEnd_1 : State :=
  prf { state := 4, handle := 9, dest := 1, manifest := some (zeros 4096) }

theorem witness_ProofsDrainAndEnd :
    (∃ (t g : Nat) (s : State) (i : PItem), drains s t i ∧ i.gran = some g ∧ hostOpen s ∧
      runReady s.fuses s.dev (moverWho s.dev t) (snapRun s.dev g) = true) ∧
    (∃ (t n : Nat) (o : Nat × Nat × Nat) (s : State), moverTurn s t ∧ hostOpen s ∧ s.dev.proof.state = 3 ∧
      plateCores s.fuses s.dev.proof t = [] ∧ headDue s.dev.proof = some (n, o)) ∧
    (∃ (t : Nat) (m : List Byte) (s : State), moverTurn s t ∧ hostOpen s ∧ s.dev.proof.state = 4 ∧
      s.dev.proof.manifest = some m ∧ m.length % 4096 = 0) ∧
    (∃ (t g : Nat) (s : State) (i : PItem), drains s t i ∧ i.gran = some g ∧
      runReady s.fuses s.dev (moverWho s.dev t) (snapRun s.dev g) = true ∧ s.dev.proof.flight = [] ∧
      heldOpen s s.dev.proof.handle) ∧
    (∃ (v : Nat) (s : State) (r : SinkRec), calm s ∧ s.dev.proof.state = 3 ∧ s.dev.proof.flight = [r] ∧ r.manifest = false ∧
      s.dev.proof.left ≠ [] ∧ v < 2 ^ 32 ∧ seqLe r.seq v = true ∧ s.dev.proof.restores = []) ∧
    (∃ (v : Nat) (s : State) (r : SinkRec), calm s ∧ s.dev.proof.state = 4 ∧ s.dev.proof.flight = [r] ∧ r.manifest = true ∧
      v < 2 ^ 32 ∧ seqLe r.seq v = true ∧ heldOpen s s.dev.proof.handle) ∧
    (∃ (v : Nat) (s : State) (r : SinkRec), calm s ∧ (s.dev.proof.state = 3 ∨ s.dev.proof.state = 4) ∧
      s.dev.proof.flight = [r] ∧ bit v 32 = true ∧ seqLe r.seq (v % 2 ^ 32) = true ∧ heldOpen s s.dev.proof.handle) ∧
    (∃ (s : State), calm s ∧ s.dev.proof.state ≠ 0 ∧ s.dev.proof.state ≠ 5 ∧ s.dev.proof.flight ≠ [] ∧
      heldOpen s s.dev.proof.handle) :=
  ⟨⟨homeTile {} 8192, 2, prf draining, pitem, by decide +kernel⟩,
   ⟨0, 0, (0, 0, 4096), prf { draining with left := [] }, by decide +kernel⟩,
   ⟨0, zeros 4096, s_ProofsDrainAndEnd_1, by decide +kernel, by decide +kernel, by decide +kernel, rfl, by rw [zeros,
     List.length_replicate]⟩,
   ⟨homeTile {} 8192, 2, prf draining, pitem, by decide +kernel⟩,
   ⟨1, prf { draining with flight := [⟨1, false⟩] }, ⟨1, false⟩, by decide +kernel⟩,
   ⟨1, prf { draining with state := 4, left := [], flight := [⟨1, true⟩] }, ⟨1, true⟩, by decide +kernel⟩,
   ⟨1 + 2 ^ 32, prf { draining with flight := [⟨1, false⟩] }, ⟨1, false⟩, by decide +kernel⟩,
   ⟨prf { draining with flight := [⟨1, false⟩] }, by decide +kernel⟩⟩

def s_ProofsRestore_1 : State :=
  st { (prf {}).dev with objs := (prf {}).dev.objs ++ [(ob 0x4000 6, 1)] }

def s_ProofsRestore_2 : State :=
  prf { restores := [{ handle := 9, ctx := 0, cp := false, src := 0, gen := 1, plan := [], store := [], dev := 0, flight := [(1, { off := 0, len := 4096 })] }] }

def s_ProofsRestore_3 : State :=
  st { (wobj [(ob 0x3020 2, 1)]).dev with inbox := [(0, cpPkt ((neighbourAddr {} dev0 3).getD 0))] }

theorem witness_ProofsRestore :
    (∃ (w : Writer) (a : Nat) (e : Outside) (s : State) (rs : List (Nat × Nat)), restores s w a ∧ planFound s w rs ∧
      bit a 0 = false ∧ sinkFree s.fuses s.dev = true ∧ hostOpen s) ∧
    (∃ (w : Writer) (a : Nat) (e : Outside) (s : State) (rs : List (Nat × Nat)), restores s w a ∧ planFound s w rs ∧
      bit a 0 = true ∧ neighbourAddr s.fuses s.dev (obj s.fuses s.dev 0x9030 0) = none) ∧
    (∃ (w : Writer) (a : Nat) (e : Outside) (s : State), restores s w a ∧
      planReady s.fuses (invoked s w 0x9000 4) w.prin = false) ∧
    (∃ (w : Writer) (a : Nat) (e : Outside) (s : State), restores s w a ∧ planRuns s.fuses (invoked s w 0x9000 4) w.prin = none) ∧
    (∃ (w : Writer) (a : Nat) (e : Outside) (s : State), a < 2 ^ 96 ∧ takes s w 0x9000 4 a ∧
      ctxBusy s.fuses s.dev w.prin = true) ∧
    (∃ (v : Nat) (s : State) (r : RestoreRun) (q : RPart) (seq : Nat), calm s ∧ s.dev.proof.state = 0 ∧
      s.dev.proof.flight = [] ∧ s.dev.proof.restores = [r] ∧ r.cp = false ∧ r.status = 0 ∧ r.flight = [(seq, q)] ∧ v < 2 ^ 32 ∧
      seqLe seq v = true ∧ hostOpen s) ∧
    (∃ (f : Fuses) (d : Dev) (r : RestoreRun) (dev : Nat) (e : List Byte) (rest : List (Nat × List Byte)), r.stage = .payload ∧
      r.todo = some ((dev, e) :: rest) ∧ r.status = 0 ∧ r.flight = []) ∧
    (∃ (s : State) (q : Nat × Packet), cpCame s q ∧ neighbourAddr s.fuses s.dev (obj s.fuses s.dev 0x9030 1) = some q.2.src ∧
      cpBase s.fuses s.dev + 24 < q.2.addr ∧ q.2.addr - cpBase s.fuses s.dev + q.2.data.length ≤ cpSize s.fuses s.dev ∧
      ctr s.dev 0x9030 2 ≠ 2 ∧ (cpRuns s.fuses s.dev (q.2.addr - cpBase s.fuses s.dev) q.2.data.length ++ cpRuns s.fuses s.dev
      24 1).all (fun r => writeReady s.fuses s.dev (cpWho s.fuses q.2 r) r && poolOpen s.fuses s.dev r) = true) ∧
    (∃ (s : State) (q : Nat × Packet), cpCame s q ∧ neighbourAddr s.fuses s.dev (obj s.fuses s.dev 0x9030 1) ≠ some q.2.src) :=
  ⟨⟨{ prin := 0 }, 2 ^ 64, {}, prf {}, [(4096, 32)], by decide +kernel⟩,
   ⟨{ prin := 0 }, 2 ^ 64 + 1, {}, s_ProofsRestore_1, [(4096, 32)], by decide +kernel⟩,
   ⟨{ prin := 0 }, 2 ^ 64, {}, s_ProofsAreTaken_1, by decide +kernel⟩,
   ⟨{ prin := 0 }, 2 ^ 64, {}, st { (prf {}).dev with ctxs := [(0, { state := .opened })] }, by decide +kernel⟩,
   ⟨{ prin := 0 }, 2 ^ 64, {}, kst { f := { state := .run } }, by decide +kernel⟩,
   ⟨1, s_ProofsRestore_2, { handle := 9, ctx := 0, cp := false, src := 0, gen := 1, plan := [], store := [], dev := 0,
                            flight := [(1, { off := 0, len := 4096 })] }, { off := 0, len := 4096 }, 1, by decide +kernel⟩,
   ⟨{}, dev0, { handle := 9, ctx := 0, cp := true, src := 0, gen := 1, plan := [planEntry 1 5 0 0 4096], store := [], dev := 0,
                stage := .payload, todo := some [(0, (leBytes 4 0 ++ leBytes 2 0 ++ leBytes 1 1 ++ zeros 9 ++ leBytes 8 0 ++ leBytes 8 1 ++ sha256 [7#8]))] }, 0, leBytes 4 0 ++ leBytes 2 0 ++ leBytes 1 1 ++ zeros 9 ++ leBytes 8 0 ++ leBytes 8 1 ++ sha256 [7#8], [], by decide +kernel⟩,
   ⟨s_ProofsRestore_3, (0, cpPkt ((neighbourAddr {} dev0 3).getD 0)), by decide +kernel⟩,
   ⟨st { dev0 with inbox := [(0, cpPkt 9)] }, (0, cpPkt 9), by decide +kernel⟩⟩

def s_RegistrationBarrier_1 : State :=
  st { (rst 1 { id := 5, root := 256 }).dev with ports := [(0, { state := .up }), (1, { state := .up })] }

set_option maxRecDepth 30000 in
theorem witness_RegistrationBarrier :
    (∃ (w : Writer) (a : Nat) (s : State), a < 2 ^ 48 ∧ takes s w 0xC000 1 a ∧ 1 ≤ regState s.dev ∧ regState s.dev ≤ 3) ∧
    (∃ (w : Writer) (a : Nat) (s : State), a < 2 ^ 48 ∧ takes s w 0xC000 1 a ∧ (regState s.dev = 0 ∨ regState s.dev = 4) ∧
      s.dev.reg.ready = [] ∧ childPorts s.fuses s.dev (bits a 47 32) ≠ []) ∧
    (∃ (w : Writer) (a p : Nat) (s : State), a < 2 ^ 48 ∧ takes s w 0xC000 1 a ∧ (regState s.dev = 0 ∨ regState s.dev = 4) ∧
      s.dev.reg.ready = [] ∧ childPorts s.fuses s.dev (bits a 47 32) = [] ∧ regHeld s.dev = false ∧
      bits a 47 32 ≠ devAddr s.fuses s.dev ∧ parentPort s.fuses s.dev (bits a 47 32) = some p) ∧
    (∃ (p : Nat) (raw : List Byte) (s : State) (x : Flit), calm s ∧ ctrlHeard s p 8 raw x ∧
      (regState s.dev = 0 ∨ regState s.dev = 4)) ∧
    (∃ (p q : Nat) (raw : List Byte) (s : State) (x : Flit), calm s ∧ ctrlHeard s p 8 raw x ∧ regState s.dev = 1 ∧
      let l := s.dev.reg.ready.put p (readyMsg (x.body.drop 1))
      (∀ y ∈ l, y.2.id = s.dev.reg.id ∧ y.2.root = s.dev.reg.root ∧ y.2.fail = false) ∧
        (∀ c ∈ childPorts s.fuses s.dev s.dev.reg.root, (SMap.find? l c).isSome = true) ∧ regHeld s.dev = false ∧
        s.dev.reg.root ≠ devAddr s.fuses s.dev ∧ parentPort s.fuses s.dev s.dev.reg.root = some q) ∧
    (∃ (p h : Nat) (raw : List Byte) (s : State) (x : Flit), calm s ∧ ctrlHeard s p 8 raw x ∧
      (regState s.dev = 2 ∨ regState s.dev = 3) ∧ ((readyMsg (x.body.drop 1)).id ≠ s.dev.reg.id ∨ (readyMsg (x.body.drop
      1)).root ≠ s.dev.reg.root) ∧ s.dev.reg.handle = some h ∧ heldOpen s h) ∧
    (∃ (p : Nat) (raw : List Byte) (s : State) (x : Flit), calm s ∧ p < 6 ∧ ctrlHeard s p 9 raw x ∧
      (regState s.dev = 1 ∨ regState s.dev = 2) ∧
      let a := x.body.drop 1
      let at_ := field a 6 8 + ctr s.dev (pIdx p) 3
      field a 14 8 ≠ 0 ∧ at_ + 16 * 1200 ≤ 16 * field a 14 8) ∧
    (∃ (p h : Nat) (raw : List Byte) (s : State) (x : Flit), calm s ∧ p < 6 ∧ ctrlHeard s p 9 raw x ∧
      (regState s.dev = 1 ∨ regState s.dev = 2) ∧ s.dev.reg.handle = some h ∧ heldOpen s h ∧
      let a := x.body.drop 1
      let at_ := field a 6 8 + ctr s.dev (pIdx p) 3
      field a 14 8 ≠ 0 ∧ 16 * field a 14 8 < at_ + 16 * 1200) ∧
    (∃ (p : Nat) (raw : List Byte) (s : State) (x : Flit), calm s ∧ p < 6 ∧ ctrlHeard s p 9 raw x ∧
      (regState s.dev = 0 ∨ regState s.dev = 4) ∧
      let a := x.body.drop 1
      let at_ := field a 6 8 + ctr s.dev (pIdx p) 3
      field a 14 8 ≠ 0) ∧
    (∃ (h : Nat) (s : State), calm s ∧ regState s.dev = 3 ∧ s.dev.now = s.dev.reg.release ∧ s.dev.reg.handle = some h ∧
      heldOpen s h ∧ (∀ c, (s.dev.core c).busy = false)) ∧
    (∃ (h : Nat) (s : State), calm s ∧ (regState s.dev = 1 ∨ regState s.dev = 2) ∧ s.dev.reg.handle = some h ∧ heldOpen s h) :=
  ⟨⟨{ prin := 0 }, 0, rst 1 {}, by decide +kernel⟩,
   ⟨{ prin := 0 }, 5, rst 0 {}, by decide +kernel⟩,
   ⟨{ prin := 0 }, 2 ^ 40, 1, rst 0 {}, by decide +kernel⟩,
   ⟨0, flitBytes (ctl 8 (leBytes 4 5 ++ leBytes 2 0 ++ zeros 1)), rst 0 {}, ctl 8 (leBytes 4 5 ++ leBytes 2 0 ++ zeros 1),
     by decide +kernel⟩,
   ⟨1, 1, flitBytes (ctl 8 (leBytes 4 5 ++ leBytes 2 256 ++ zeros 1)), s_RegistrationBarrier_1,
     ctl 8 (leBytes 4 5 ++ leBytes 2 256 ++ zeros 1), by decide +kernel⟩,
   ⟨0, 9, flitBytes (ctl 8 (leBytes 4 6 ++ leBytes 2 0 ++ zeros 1)), rst 2 { id := 5, handle := some 9 },
     ctl 8 (leBytes 4 6 ++ leBytes 2 0 ++ zeros 1), by decide +kernel⟩,
   ⟨0, flitBytes (ctl 9 (leBytes 4 5 ++ leBytes 2 0 ++ leBytes 8 16 ++ leBytes 8 5000)), rst 2 { id := 5, handle := some 9 },
     ctl 9 (leBytes 4 5 ++ leBytes 2 0 ++ leBytes 8 16 ++ leBytes 8 5000), by decide +kernel⟩,
   ⟨0, 9, flitBytes (ctl 9 (leBytes 4 5 ++ leBytes 2 0 ++ leBytes 8 16 ++ leBytes 8 100)), rst 2 { id := 5, handle := some 9 },
     ctl 9 (leBytes 4 5 ++ leBytes 2 0 ++ leBytes 8 16 ++ leBytes 8 100), by decide +kernel⟩,
   ⟨0, flitBytes (ctl 9 (leBytes 4 5 ++ leBytes 2 0 ++ leBytes 8 16 ++ leBytes 8 5000)), rst 0 { id := 5 },
     ctl 9 (leBytes 4 5 ++ leBytes 2 0 ++ leBytes 8 16 ++ leBytes 8 5000), by decide +kernel⟩,
   ⟨9, rst 3 { handle := some 9 }, by decide +kernel, by decide +kernel, by decide +kernel, by decide +kernel,
     by decide +kernel, fun _ => rfl⟩,
   ⟨9, rst 2 { handle := some 9 }, by decide +kernel⟩⟩

def s_PowerAndTemperature_1 : State :=
  st dev0

theorem witness_PowerAndTemperature :
    (∃ (w aux bus : Nat) (s : State), calm s) ∧
    (∃ (junction hbm : List Int) (pulse : Bool) (s : State), calm s ∧ s.dev.power.trip = none ∧ (∀ t,
      t < 16 → tileReading s.fuses junction hbm t < 115 * degC)) ∧
    (∃ (junction hbm : List Int) (pulse : Bool) (s : State) (t : Nat), calm s ∧ s.dev.power.trip = none ∧ t < 16 ∧
      115 * degC ≤ tileReading s.fuses junction hbm t ∧ (∀ u, u < t → tileReading s.fuses junction hbm u < 115 * degC)) ∧
    (∃ (junction hbm : List Int) (pulse : Bool) (s : State), ready s.dev = false) ∧
    (∃ (s : State), s.dev.power.trip = none ∧ s.dev.power.alarm = true ∧ (∀ t, t < 16 → tileTemp s.dev t < 103 * degC)) ∧
    (∃ (w : Writer) (v : Nat) (s : State), calm s ∧ v < 65536 ∧ writeReach s.fuses s.dev w.prin 0x2010 0 = 0) :=
  ⟨⟨4000, 3, 40, st dev0, by decide +kernel⟩,
   ⟨[], [], false, s_PowerAndTemperature_1, by decide +kernel⟩,
   ⟨[1840], [], false, s_PowerAndTemperature_1, 0, by decide +kernel⟩,
   ⟨[], [], false, st {}, by decide +kernel⟩,
   ⟨st { dev0 with power := { alarm := true } }, by decide +kernel⟩,
   ⟨{ prin := 0 }, 5000, s_PowerAndTemperature_1, by decide +kernel⟩⟩

theorem witness_SupplyAndMargins :
    (∃ (s : State), calm s) ∧
    (∃ (s : State), calm s) ∧
    (∃ (above : Bool) (s : State), calm s) ∧
    (∃ (core hold : Nat) (s : State), calm s ∧ core < 128 ∧ railOf s.fuses s.dev (core / 8) < s.fuses.vmax.getD (core / 8) 0) ∧
    (∃ (core hold : Nat) (s : State), calm s ∧ core < 128 ∧ s.fuses.vmax.getD (core / 8) 0 ≤ railOf s.fuses s.dev (core / 8)) ∧
    (∃ (s : State), calm s ∧ ctr s.dev 0x2000 3 ≠ 0 ∧ obj s.fuses s.dev 0x2000 0 + 50 < rootTarget s.fuses s.dev ∧
      regState s.dev ≠ 1) ∧
    (∃ (s : State), calm s ∧ ctr s.dev 0x2000 3 ≠ 0 ∧ regState s.dev ≠ 1 ∧
      (obj s.fuses s.dev 0x2000 0 + 50 = rootTarget s.fuses s.dev ∨ obj s.fuses s.dev 0x2000 0 = rootTarget s.fuses s.dev + 50)) ∧
    (∃ (w : Writer) (v : Nat) (s : State), calm s ∧ 4500 ≤ v ∧ v ≤ 4800 ∧ v % 50 = 0 ∧
      writeReach s.fuses s.dev w.prin 0x2000 1 = 0) ∧
    (∃ (vals : List Nat) (s : State), calm s) ∧
    (∃ (need : List (List Nat)) (short : Nat) (s : State), calm s ∧ planWaits s need) ∧
    (∃ (need : List (List Nat)) (short : Nat) (s : State), calm s ∧ ¬ planWaits s need) ∧
    (∃ (w : Writer) (e : Outside) (s : State), takes s w 0x2100 2 0 ∧ planWaits s e.rails) ∧
    (∃ (s : State) (p : MarginPlan), calm s ∧ s.dev.power.waiting = some p ∧ (∀ q ∈ s.dev.cores, q.2.busy = false)) ∧
    (∃ (s : State), calm s ∧ (∃ q ∈ s.dev.cores, q.2.busy = true)) :=
  ⟨⟨s_PowerAndTemperature_1, by decide +kernel⟩,
   ⟨s_PowerAndTemperature_1, by decide +kernel⟩,
   ⟨true, s_PowerAndTemperature_1, by decide +kernel⟩,
   ⟨0, 5, s_PowerAndTemperature_1, by decide +kernel⟩,
   ⟨0, 5, wobj [(ob 0x2020 6, 900)], by decide +kernel⟩,
   ⟨wobj [(ob 0x2000 0, 4500), (ob 0x2000 3, 1)], by decide +kernel⟩,
   ⟨wobj [(ob 0x2000 0, rootTarget {} dev0 - 50), (ob 0x2000 3, 1)], by decide +kernel⟩,
   ⟨{ prin := 0 }, 4600, s_PowerAndTemperature_1, by decide +kernel⟩,
   ⟨[5], s_PowerAndTemperature_1, by decide +kernel⟩,
   ⟨[], 0, wobj [(ob 0x2020 6, 900)], by decide +kernel, Or.inr ⟨0, by decide +kernel⟩⟩,
   ⟨List.replicate 7 (List.replicate 16 900), 0, s_PowerAndTemperature_1, by decide +kernel⟩,
   ⟨{ prin := 0 }, {}, wobj [(ob 0x2020 6, 900)], by decide +kernel, Or.inr ⟨0, by decide +kernel⟩⟩,
   ⟨st { dev0 with power := { waiting := some ⟨4600, []⟩ } }, ⟨4600, []⟩, by decide +kernel⟩,
   ⟨kst { f := { state := .run } }, by decide +kernel⟩⟩

def s_FramesAreReceived_1 : State :=
  st { dev0 with inbox := [(0, { torPkt with data := (wdp 1 0 1 5 7 0 (wread 0x1000)) })] }

def s_FramesAreReceived_2 : State :=
  st { dev0 with arbs := [(vaultBus (mgmtBus dev0), { freeze := true })] }

def s_FramesAreReceived_3 : State :=
  st { dev0 with host := { queue := List.replicate 16 { src := 4096, addr := 0, bytes := [] } } }

def s_FramesAreReceived_4 : State :=
  st { dev0 with host := { discovery := [(5, wdp 1 0 1 5 7 0 (wread 0x1000))] } }

theorem witness_FramesAreReceived :
    (∃ (p a : Nat) (fc fr whole l : List Byte) (s : State), mgmtRequest s (fr ++ fc) a whole l ∧ frameTagged l = false ∧ frameOp l = 1 ∧
      allAlwaysOn (requestItems l) = true ∧ frameHere s.fuses s.dev l = true) ∧
    (∃ (p : Nat) (fc raw l : List Byte) (s : State) (q : Nat × Packet),
      s.dev.inbox.find? (fun q => q.1 == p && q.2.kind == 7) = some q ∧ l = q.2.data.take (frameLen q.2.data) ∧
      rxFull s.dev 4097 = false ∧ headerOk q.2.data = true ∧ lengthOk 4097 q.2.data = true ∧ frameIsResp l = false ∧
      requestOk l = true ∧ frameTagged l = false ∧ frameOp l = 1 ∧ allAlwaysOn (requestItems l) = true ∧
      frameHere s.fuses s.dev l = true) ∧
    (∃ (p a : Nat) (fc fr whole : List Byte) (s : State), mgmtUp s.dev = true ∧ mgmtParse s.fuses s.dev (fr ++ fc) = some (a, true,
      whole) ∧ rxFull s.dev 4096 = false ∧ headerOk whole = true ∧ lengthOk 4096 whole = true ∧ requestOk whole = true ∧
      frameTagged whole = false ∧ frameOp whole = 1 ∧ allAlwaysOn (requestItems whole) = true) ∧
    (∃ (p a : Nat) (fc fr whole l : List Byte) (s : State), mgmtRequest s (fr ++ fc) a whole l ∧ frameTagged l = true ∧
      mgmtFree s.dev = false) ∧
    (∃ (p a : Nat) (fc fr whole l : List Byte) (s : State), mgmtRequest s (fr ++ fc) a whole l ∧ frameTagged l = false ∧ frameOp l = 2) ∧
    (∃ (p a : Nat) (fc fr whole l : List Byte) (s : State), mgmtRequest s (fr ++ fc) a whole l ∧ tagged s whole l none) ∧
    (∃ (p a : Nat) (fc fr whole l key : List Byte) (s : State), mgmtRequest s (fr ++ fc) a whole l ∧ tagged s whole l (some key) ∧
      frameHere s.fuses s.dev l = true ∧ frameBoot l ≠ ctr s.dev 0xE000 2) ∧
    (∃ (p a : Nat) (fc fr whole l key : List Byte) (s : State) (x : Sender), mgmtRequest s (fr ++ fc) a whole l ∧
      tagged s whole l (some key) ∧ frameHere s.fuses s.dev l = true ∧ frameBoot l = ctr s.dev 0xE000 2 ∧
      s.dev.host.senders = [x] ∧ x.id = frameSid l ∧ x.fresh (frameSeq l) = true) ∧
    (∃ (p a : Nat) (fc fr whole l key : List Byte) (s : State) (x : Sender), mgmtRequest s (fr ++ fc) a whole l ∧
      tagged s whole l (some key) ∧ frameHere s.fuses s.dev l = true ∧ frameBoot l = ctr s.dev 0xE000 2 ∧
      s.dev.host.senders = [x] ∧ x.id = frameSid l ∧ x.fresh (frameSeq l) = false ∧ x.cache = []) ∧
    (∃ (p a : Nat) (fc fr whole : List Byte) (s : State), mgmtCame s (fr ++ fc) a whole ∧ rxFull s.dev 4096 = true) ∧
    (∃ (s : State) (x : Nat × List Byte) (t : List (Nat × List Byte)) (is : List WItem), lineFree s ∧
      s.dev.host.discovery = x :: t ∧ requestItems x.2 = some is ∧ x.1 < torusBase) ∧
    (∃ (fc fr mac src : List Byte) (s : State), mgmtUp s.dev = true ∧ lineFree s ∧ solicitor s.fuses (fr ++ fc) = some (mac, src)) ∧
    (∃ (s : State), ctr s.dev 0xE000 5 ≠ 0 ∧ ctr s.dev 0xE000 9 = 1) ∧
    (∃ (s : State), ctr s.dev 0xE000 5 ≠ 0 ∧ ctr s.dev 0xE000 9 = 2) :=
  ⟨⟨9, hostAddr, [], mgmtIn (wdp 1 0 1 5 7 0 (wread 0x1000)), wdp 1 0 1 5 7 0 (wread 0x1000), wdp 1 0 1 5 7 0 (wread 0x1000),
     s_PowerAndTemperature_1, by decide +kernel⟩,
   ⟨0, [], [], wdp 1 0 1 5 7 0 (wread 0x1000), s_FramesAreReceived_1, (0,
     { torPkt with data := (wdp 1 0 1 5 7 0 (wread 0x1000)) }), by decide +kernel⟩,
   ⟨9, hostAddr, [], hostFrame (multicastMac allNodes) allNodes (wdp 1 0 1 5 7 0 (wread 0x1000)), wdp 1 0 1 5 7 0 (wread 0x1000),
     s_PowerAndTemperature_1, by decide +kernel⟩,
   ⟨9, hostAddr, [], mgmtIn ((wdp 2 2 1 5 7 0 (wwrite 0x9000 5 50)) ++ zeros 16),
     (wdp 2 2 1 5 7 0 (wwrite 0x9000 5 50)) ++ zeros 16, wdp 2 2 1 5 7 0 (wwrite 0x9000 5 50), s_FramesAreReceived_2,
     by decide +kernel⟩,
   ⟨9, hostAddr, [], mgmtIn (wdp 2 0 1 5 7 0 (wwrite 0x9000 5 50)), wdp 2 0 1 5 7 0 (wwrite 0x9000 5 50),
     wdp 2 0 1 5 7 0 (wwrite 0x9000 5 50), s_PowerAndTemperature_1, by decide +kernel⟩,
   ⟨9, hostAddr, [], mgmtIn ((wdp 2 2 1 5 7 0 (wwrite 0x9000 5 50)) ++ zeros 16),
     (wdp 2 2 1 5 7 0 (wwrite 0x9000 5 50)) ++ zeros 16, wdp 2 2 1 5 7 0 (wwrite 0x9000 5 50), s_PowerAndTemperature_1,
     by decide +kernel⟩,
   ⟨9, hostAddr, [], mgmtIn (wseal (wdp 2 2 1 5 7 9 (wwrite 0x9000 5 50))), wseal (wdp 2 2 1 5 7 9 (wwrite 0x9000 5 50)),
     wdp 2 2 1 5 7 9 (wwrite 0x9000 5 50), zeros 32, wst (sender 4), by decide +kernel⟩,
   ⟨9, hostAddr, [], mgmtIn (wseal (wdp 2 2 1 5 7 0 (wwrite 0x9000 5 50))), wseal (wdp 2 2 1 5 7 0 (wwrite 0x9000 5 50)),
     wdp 2 2 1 5 7 0 (wwrite 0x9000 5 50), zeros 32, wst (sender 4), sender 4, by decide +kernel⟩,
   ⟨9, hostAddr, [], mgmtIn (wseal (wdp 2 2 1 5 7 0 (wwrite 0x9000 5 50))), wseal (wdp 2 2 1 5 7 0 (wwrite 0x9000 5 50)),
     wdp 2 2 1 5 7 0 (wwrite 0x9000 5 50), zeros 32, wst (sender 5), sender 5, by decide +kernel⟩,
   ⟨9, hostAddr, [], mgmtIn (wdp 1 0 1 5 7 0 (wread 0x1000)), wdp 1 0 1 5 7 0 (wread 0x1000), s_FramesAreReceived_3,
     by decide +kernel⟩,
   ⟨s_FramesAreReceived_4, (5, wdp 1 0 1 5 7 0 (wread 0x1000)), [], (requestItems (wdp 1 0 1 5 7 0 (wread 0x1000))).getD [],
     by decide +kernel, by decide +kernel, some_getD [] (by decide +kernel), by decide +kernel⟩,
   ⟨[], solicit, [2#8, 0#8, 0#8, 0#8, 0#8, 9#8], hostIp, s_PowerAndTemperature_1, by decide +kernel⟩,
   ⟨wobj [(ob 0xE000 5, 1), (ob 0xE000 9, 1)], by decide +kernel⟩,
   ⟨wobj [(ob 0xE000 5, 1), (ob 0xE000 9, 2)], by decide +kernel⟩⟩

def s_FramesAreServed_1 : State :=
  mst { src := 0, addr := 0, bytes := wdp 2 0 1 5 7 0 (wwrite 0x9000 5 50) }

def s_FramesAreServed_2 : State :=
  st { (mst { src := 4098, addr := 0,
              bytes := wseal (wdp 1 3 0 1 (ownSid {} dev0) 0 []) }).dev with vault := { dev0.vault with slots := [(0, slot4)] }, host := { queue := [{ src := 4098, addr := 0, bytes := wseal (wdp 1 3 0 1 (ownSid {} dev0) 0 []) }], remote := some { seq := 1, frame := [], request := readFrame, boot := false } } }

def s_FramesAreServed_3 : State :=
  st { dev0 with ctxs := [(0, { ctx0 with mboxState := 1 })],
                 host := { remote := some { seq := 1, frame := wdp 1 16 0 1 0 0 [], request := readFrame, boot := false, tries := 3 } } }

def s_FramesAreServed_4 : State :=
  st { dev0 with handles := [(1, {})], host := { relays := [{ handle := 1, ctx := 0, arg := 0, frame := [1#8], tries := 3 }] } }

def s_FramesAreServed_5 : State :=
  st { (pst {}).dev with host := { remote := some { seq := 1, frame := wdp 1 16 0 1 0 0 [], request := readFrame, boot := false } } }

def s_FramesAreServed_6 : State :=
  st { dev0 with objs := dev0.objs ++ [(ob 0xF000 0x10, 1)], handles := [(1, { complete := true })] }

theorem witness_FramesAreServed :
    (∃ (w : WdpIn) (s : State) (i : WItem), nextIs s w 1 i) ∧
    (∃ (w : WdpIn) (es : List Outside) (s : State) (i : WItem) (o : Obj), nextIs s w 2 i ∧ objRow i.idx i.sub = some o ∧
      o.acc ≠ .cmd ∧ i.idx ≠ 0x8100) ∧
    (∃ (w : WdpIn) (s : State), answerCame s w ∧ s.dev.host.remote = none) ∧
    (∃ (w : WdpIn) (s : State) (r : RemoteReq), answerCame s w ∧ s.dev.host.remote = some r ∧ r.boot = false ∧
      (s.dev.ctx 0).mboxState = 1 ∧ s.dev.frozen 0x8000 = false ∧
      let l := w.bytes.take (frameLen w.bytes)
      frameSeq l = r.seq ∧ frameSid l = ownSid s.fuses s.dev ∧ frameTagged l = true ∧ frameKey l = 0 ∧
        (verifyFrame s.dev l w.bytes).2.isSome = true ∧ frameStatus l ≠ Status.bootStale ∧ l.length ≤ 1536) ∧
    (∃ (s : State) (r : RemoteReq), s.dev.host.remote = some r ∧ 3 ≤ r.tries ∧ (s.dev.ctx 0).mboxState = 1 ∧
      s.dev.frozen 0x8000 = false) ∧
    (∃ (s : State) (r : RelayReq), s.dev.host.remote = none ∧ s.dev.host.relays = [r] ∧ r.frame ≠ [] ∧ 3 ≤ r.tries ∧
      heldOpen s r.handle) ∧
    (∃ (s : State) (r : RemoteReq), s.dev.host.remote = some r ∧ r.tries < 3 ∧
      (if frameNear r.frame = true then carriesMgmt s.fuses s.dev (framePort r.frame) else wdpReach s.fuses s.dev (frameDst
      r.frame)) = true) ∧
    (∃ (s : State) (r : HandleRec), calm s ∧ SMap.find? s.dev.handles (obj s.fuses s.dev 0xF000 0x10) = some r ∧
      r.complete = true) :=
  ⟨⟨{ src := 0, addr := 0, bytes := readFrame }, mst { src := 0, addr := 0, bytes := readFrame }, ⟨0xC000, 0, 0, 0, 0, 0, []⟩,
     by decide +kernel⟩,
   ⟨{ src := 0, addr := 0, bytes := wdp 2 0 1 5 7 0 (wwrite 0x9000 5 50) }, [], s_FramesAreServed_1, ⟨0x9000, 5, 0, 0, 1, 0,
     [50#8]⟩, ⟨0x9000, 0x9000, 5, 5, .u8, .rw, 1, 100, .range 1 100⟩, by decide +kernel⟩,
   ⟨{ src := 4098, addr := 0, bytes := [] }, mst { src := 4098, addr := 0, bytes := [] }, by decide +kernel⟩,
   ⟨{ src := 4098, addr := 0, bytes := wseal (wdp 1 3 0 1 (ownSid {} dev0) 0 []) }, s_FramesAreServed_2,
     { seq := 1, frame := [], request := readFrame, boot := false }, by decide +kernel⟩,
   ⟨s_FramesAreServed_3, { seq := 1, frame := wdp 1 16 0 1 0 0 [], request := readFrame, boot := false, tries := 3 },
     by decide +kernel⟩,
   ⟨s_FramesAreServed_4, { handle := 1, ctx := 0, arg := 0, frame := [1#8], tries := 3 }, by decide +kernel⟩,
   ⟨s_FramesAreServed_5, { seq := 1, frame := wdp 1 16 0 1 0 0 [], request := readFrame, boot := false }, by decide +kernel⟩,
   ⟨s_FramesAreServed_6, { complete := true }, by decide +kernel⟩⟩

def s_DictionaryWrites_1 : State :=
  st { dev0 with ctxs := [(0, ctx0)], princ := [(0, { staged := [⟨0x3020, 0, 1, 4⟩] })] }

theorem witness_DictionaryWrites :
    (∃ (w : Writer) (idx sub : Nat) (data : List Byte) (s : State) (o : Obj), writes s w idx sub o ∧ ownRow idx sub = false ∧
      o.acc = .rws ∧ data.length = o.len ∧ o.len ≤ 32768 ∧ (fixedByJob idx sub = true → jobRunning s.dev = false) ∧
      (s.dev.prin w.prin).staged = []) ∧
    (∃ (w : Writer) (idx sub off : Nat) (data : List Byte) (s : State) (o : Obj), writes s w idx sub o ∧
      ownRow idx sub = false ∧ o.acc = .ro) ∧
    (∃ (w : Writer) (s : State) (x : Staged), takes s w 0xF000 0 0 ∧ (s.dev.prin w.prin).staged = [x] ∧
      s.dev.host.commits = [] ∧ 0x3000 ≤ x.idx ∧ x.idx < 0x3060 ∧ x.sub < 256 ∧
      commitCheck s.fuses (invoked s w 0xF000 0) w.prin (newHandle s w) [x] x = 0 ∧
      adjust s.fuses (invoked s w 0xF000 0) w.prin [x] = ([x], [])) ∧
    (∃ (w : Writer) (s : State) (x : Staged) (st : Nat), takes s w 0xF000 0 0 ∧ (s.dev.prin w.prin).staged = [x] ∧ st ≠ 0 ∧
      commitCheck s.fuses (invoked s w 0xF000 0) w.prin (newHandle s w) [x] x = st) ∧
    (∃ (w : Writer) (s : State), calm s ∧ writeReach s.fuses s.dev w.prin 0xF000 1 = 0) ∧
    (∃ (w : Writer) (s : State) (k : KeySlot), takes s w 0xE000 0x20 0 ∧ s.dev.host.promote = [] ∧
      SMap.find? s.dev.vault.slots 1 = some k ∧ s.dev.vault.ops = []) ∧
    (∃ (w : Writer) (s : State), takes s w 0xE000 0x20 0 ∧ s.dev.host.promote = [] ∧ SMap.find? s.dev.vault.slots 1 = none) ∧
    (∃ (w : Writer) (v : Nat) (s : State), calm s ∧ writeReach s.fuses s.dev w.prin 0x8100 1 = 0 ∧ v ≤ 1) ∧
    (∃ (id req unit : Nat) (s : State), calm s ∧ arbExists s.fuses id = true ∧ unitExists s.fuses unit = false ∧
      (s.dev.arb id).counts.length = 5) ∧
    (∃ (id req unit : Nat) (s : State), calm s ∧ arbExists s.fuses id = true ∧ unitExists s.fuses unit = true ∧
      s.dev.resets = []) :=
  ⟨⟨{ prin := 0 }, 0x3010, 0, [31#8], s_PowerAndTemperature_1, ⟨0x3010, 0x3010, 0x0, 0x0, .u8, .rws, 1, 32, .range 1 60⟩,
     by decide +kernel, by decide +kernel, by decide +kernel, by decide +kernel, by decide +kernel, fun _ => by decide +kernel,
     by decide +kernel⟩,
   ⟨{ prin := 0 }, 0x1000, 0, 0, [], s_PowerAndTemperature_1, ⟨0x1000, 0x1000, 0, 0, .str, .ro, 9, 0, .full⟩, by decide +kernel⟩,
   ⟨{ prin := 0 }, st { dev0 with princ := [(0, { staged := [⟨0x3010, 0, 31, 1⟩] })] }, ⟨0x3010, 0, 31, 1⟩, by decide +kernel⟩,
   ⟨{ prin := 0 }, s_DictionaryWrites_1, ⟨0x3020, 0, 1, 4⟩, Status.mapBusy, by decide +kernel⟩,
   ⟨{ prin := 0 }, st { dev0 with princ := [(0, { staged := [⟨0x3020, 0, 1, 4⟩] })] }, by decide +kernel⟩,
   ⟨{ prin := 0 }, st { dev0 with vault := { dev0.vault with slots := [(1, slot4)] } }, slot4, by decide +kernel⟩,
   ⟨{ prin := 0 }, s_PowerAndTemperature_1, by decide +kernel⟩,
   ⟨{ prin := 0 }, 1, s_PowerAndTemperature_1, by decide +kernel⟩,
   ⟨0x6000, 0, 0xFFFF, s_PowerAndTemperature_1, by decide +kernel⟩,
   ⟨0x6000, 0, coreUnit 0, s_PowerAndTemperature_1, by decide +kernel⟩⟩

def s_ResetsAreTaken_1 : State :=
  st { (wobj [(ob 0xA031 0x13, 0)]).dev with mem := { bytes := [(5, 1#8)] } }

theorem witness_ResetsAreTaken :
    (∃ (s : State), running s ∧ atRest s) ∧
    (∃ (s : State), running s ∧ atRest s) ∧
    (∃ (s : State) (r : RReq), s.dev.rst.aux = true ∧ s.dev.rst.cur = some r ∧ ctr s.dev 0xA000 0 ≠ 4) ∧
    (∃ (s : State), running s) ∧
    (∃ (us : Nat) (s : State) (r : RReq), s.dev.rst.deferred = some r) ∧
    (∃ (w : Writer) (kind : Nat) (s : State), running s ∧ kind ≤ 1 ∧ takes s w 0xA000 0x10 kind ∧ s.dev.rst.due = none ∧
      (kind = 0 → atRest s)) ∧
    (∃ (detail : Nat) (s : State), running s) ∧
    (∃ (detail : Nat) (s : State), running s) ∧
    (∃ (s : State), running s ∧ s.dev.rst.refclk = true) ∧
    (∃ (s : State), s.dev.rst.cur.isSome = true ∧ s.dev.rst.supplyWait = true) ∧
    (∃ (s : State), s.dev.rst.cur.isSome = true ∧ s.dev.rst.held = true ∧ s.dev.rst.aux = true) ∧
    (∃ (s : State), s.dev.rst.aux = false) ∧
    (∃ (s : State), s.dev.rst.aux = true ∧ s.dev.rst.cur = none ∧ s.dev.rst.deferred = none) ∧
    (∃ (s : State), running s) :=
  ⟨⟨s_ResetsAreTaken_1, by decide +kernel⟩,
   ⟨s_ResetsAreTaken_1, by decide +kernel⟩,
   ⟨off { cur := some ⟨.cold, 4, 0⟩ }, ⟨.cold, 4, 0⟩, by decide +kernel⟩,
   ⟨s_PowerAndTemperature_1, by decide +kernel⟩,
   ⟨7, st { dev0 with rst := { deferred := some ⟨.cold, 4, 0⟩ } }, ⟨.cold, 4, 0⟩, by decide +kernel⟩,
   ⟨{ prin := 0 }, 1, s_PowerAndTemperature_1, by decide +kernel, by decide +kernel, by decide +kernel, by decide +kernel,
     fun h => absurd h (by decide +kernel)⟩,
   ⟨1, s_PowerAndTemperature_1, by decide +kernel⟩,
   ⟨1, s_PowerAndTemperature_1, by decide +kernel⟩,
   ⟨s_ResetsAreTaken_1, by decide +kernel⟩,
   ⟨off { cur := some ⟨.cold, 4, 0⟩, supplyWait := true }, by decide +kernel⟩,
   ⟨off { cur := some ⟨.cold, 4, 0⟩, held := true }, by decide +kernel⟩,
   ⟨st { rst := { aux := false } }, by decide +kernel⟩,
   ⟨s_PowerAndTemperature_1, by decide +kernel⟩,
   ⟨s_PowerAndTemperature_1, by decide +kernel⟩⟩

theorem witness_StartsAndFirmware :
    (∃ (st : Startup) (s : State) (r : RReq) (b : Nat), mayStart s r ∧ good s st ∧ fusesBad s st r = false ∧
      s.dev.rst.refclk = true ∧ fwBank s.fuses s.dev st 0 = some b) ∧
    (∃ (st : Startup) (s : State) (r : RReq), mayStart s r ∧ fusesBad s st r = true) ∧
    (∃ (st : Startup) (s : State) (r : RReq), mayStart s r ∧ fusesBad s st r = false ∧ st.failStep = 0 ∧
      fwBank s.fuses s.dev st 0 = none) ∧
    (∃ (st : Startup) (s : State) (r : RReq) (b : Nat), mayStart s r ∧ good s st ∧ fusesBad s st r = false ∧
      s.dev.rst.refclk = false ∧ fwBank s.fuses s.dev st 0 = some b) ∧
    (∃ (st : Startup) (s : State) (r : RReq), s.dev.rst.cur = some r ∧ s.dev.rst.awaitRefclk = true ∧ good s st) ∧
    (∃ (w : Writer) (a ver svn key : Nat) (e : Outside) (s : State) (rs : List (Nat × Nat)), updates s w a rs ∧ sound s ∧
      rs.all (runReady s.fuses s.dev s.dev.cmcWho) = true ∧ fwImage (runBytes s.dev rs) = some (ver, svn, key) ∧
      bits a 95 64 ≤ 24 * 2 ^ 20 ∧ s.fuses.revoked.testBit key = false ∧ obj s.fuses s.dev 0xA020 4 ≤ svn) ∧
    (∃ (w : Writer) (a : Nat) (e : Outside) (s : State) (rs : List (Nat × Nat)), updates s w a rs ∧
      rs.all (runReady s.fuses s.dev s.dev.cmcWho) = false) ∧
    (∃ (w : Writer) (a : Nat) (e : Outside) (s : State), a < 2 ^ 104 ∧ takes s w 0xA020 8 a ∧
      bits a 103 96 = ctr s.dev 0xA020 0) ∧
    (∃ (w : Writer) (v : Nat) (s : State), v < 64 ∧ takes s w 0xA020 9 v) :=
  ⟨⟨{}, off { cur := some ⟨.por, 1, 0⟩ }, ⟨.por, 1, 0⟩, 0, by decide +kernel⟩,
   ⟨{ fuseCrc := 1 }, off { cur := some ⟨.por, 1, 0⟩ }, ⟨.por, 1, 0⟩, by decide +kernel⟩,
   ⟨{ fwBad := 15 }, off { cur := some ⟨.por, 1, 0⟩ }, ⟨.por, 1, 0⟩, by decide +kernel⟩,
   ⟨{}, off { cur := some ⟨.por, 1, 0⟩, refclk := false }, ⟨.por, 1, 0⟩, 0, by decide +kernel⟩,
   ⟨{}, off { cur := some ⟨.por, 1, 0⟩, refclk := false, awaitRefclk := true }, ⟨.por, 1, 0⟩, by decide +kernel⟩,
   ⟨{ prin := 0 }, 4352 * 2 ^ 64 + 2 ^ 96, 5, 0, 0, {}, cst ctx0 { dev0 with mem := { bytes := image } }, [(0, 4352)],
     by decide +kernel⟩,
   ⟨{ prin := 0 }, 4352 * 2 ^ 64 + 2 ^ 96, {}, s_Bar2AndPciePorts_1, [(0, 4352)], by decide +kernel⟩,
   ⟨{ prin := 0 }, 4352 * 2 ^ 64, {}, s_PowerAndTemperature_1, by decide +kernel⟩,
   ⟨{ prin := 0 }, 3, s_PowerAndTemperature_1, by decide +kernel⟩⟩

def s_HeartbeatsAndEscalation_1 : State :=
  st { dev0 with recov := { standbyReady := false } }

def s_HeartbeatsAndEscalation_2 : State :=
  let x := hst { mgmtOnly := true } [(0, { boot := 0, seq := 0 })]
  { x with dev := { x.dev with objs := x.dev.objs.put (ob 0x4010 6) 3 } }

def s_HeartbeatsAndEscalation_3 : State :=
  st { (pst {}).dev with objs := (pst {}).dev.objs ++ [(ob 0xA031 0x13, 0)] }

def s_HeartbeatsAndEscalation_4 : State :=
  st { (wobj [(ob 0xA031 0x13, 0)]).dev with recov := { standbyReady := false } }

set_option maxRecDepth 30000 in
theorem witness_HeartbeatsAndEscalation :
    (∃ (s : State), calm s) ∧
    (∃ (s : State), calm s ∧ s.dev.recov.standbyReady = true) ∧
    (∃ (s : State), calm s ∧ s.dev.recov.standbyReady = false) ∧
    (∃ (p : Nat) (raw : List Byte) (s : State) (x : Flit), calm s ∧ ctrlHeard s p 0x0A raw x ∧ slotKey s.dev 3 = none ∧
      (s.dev.port p).mgmtOnly = false ∧
      let a := x.body.drop 1
      let n := field a 31 2 * 2 ^ 32 + field a 0 4
      (∀ b, SMap.find? s.dev.recov.beats p = some b → b.boot = field a 4 4 → b.seq < n)) ∧
    (∃ (p : Nat) (s : State), calm s ∧ p < 6 ∧ hbActive s.fuses s.dev = true ∧ (s.dev.port p).live = true) ∧
    (∃ (p : Nat) (s : State) (b : Beat), calm s ∧ hbActive s.fuses s.dev = true ∧ obj s.fuses s.dev 0xA050 4 ≠ 0 ∧
      (s.dev.port p).mgmtOnly = true ∧ obj s.fuses s.dev (pIdx p) 6 = 3 ∧ SMap.find? s.dev.recov.beats p = some b ∧
      b.resets < 10) ∧
    (∃ (p : Nat) (raw : List Byte) (s : State) (x : Flit), running s ∧ atRest s ∧ ctrlHeard s p 0x0B raw x ∧
      field (x.body.drop 1) 0 4 = ctr s.dev 0xE000 2) ∧
    (∃ (p : Nat) (raw : List Byte) (pulse : Bool) (s : State) (x : Flit), calm s ∧ ctrlHeard s p 0x0B raw x) ∧
    (∃ (v : Nat) (s : State), running s ∧ atRest s ∧ bits v 31 16 = ctr s.dev 0xE000 2 % 65536 ∧ bits v 15 0 = 1) ∧
    (∃ (hung : Option Nat) (es : List Outside) (pulse : Bool) (s : State), s.dev.recov.standbyStopped = false) ∧
    (∃ (es : List Outside) (pulse : Bool) (s : State), s.dev.recov.standbyReady = true) ∧
    (∃ (hung : Option Nat) (es : List Outside) (s : State), running s ∧ atRest s ∧ s.dev.recov.standbyReady = false) ∧
    (∃ (s : State), s.dev.recov.standbyStopped = false) :=
  ⟨⟨s_PowerAndTemperature_1, by decide +kernel⟩,
   ⟨st { dev0 with recov := { standbyReady := true } }, by decide +kernel⟩,
   ⟨s_HeartbeatsAndEscalation_1, by decide +kernel⟩,
   ⟨0, flitBytes (ctl 0x0A (leBytes 4 5 ++ leBytes 4 2 ++ zeros 30)), s_GroupsAndPortsByCommand_4,
     ctl 0x0A (leBytes 4 5 ++ leBytes 4 2 ++ zeros 30), by decide +kernel, by decide +kernel, by decide +kernel,
     by decide +kernel, none_of (by decide +kernel)⟩,
   ⟨0, hst {} [], by decide +kernel⟩,
   ⟨0, s_HeartbeatsAndEscalation_2, { boot := 0, seq := 0 }, by decide +kernel⟩,
   ⟨0, flitBytes (ctl 0x0B (zeros 4)), s_HeartbeatsAndEscalation_3, ctl 0x0B (zeros 4), by decide +kernel⟩,
   ⟨0, flitBytes (ctl 0x0B (zeros 4)), false, s_GroupsAndPortsByCommand_4, ctl 0x0B (zeros 4), by decide +kernel⟩,
   ⟨1, wobj [(ob 0xA031 0x13, 0)], by decide +kernel⟩,
   ⟨none, [], false, st { dev0 with recov := { standbyReady := true } }, by decide +kernel⟩,
   ⟨[], false, st { dev0 with recov := { standbyReady := true } }, by decide +kernel⟩,
   ⟨none, [], s_HeartbeatsAndEscalation_4, by decide +kernel⟩,
   ⟨s_HeartbeatsAndEscalation_1, by decide +kernel⟩⟩

def s_UnitsAreRecovered_1 : State :=
  st { (kst { f := { state := .wait } }).dev with objs := dev0.objs ++ [(ob 0xA031 0x10, 0)] }

def s_UnitsAreRecovered_2 : State :=
  st { dev0 with resets := [{ unit := coreUnit 0, trigger := 0, status := 0, handles := [1], cleared := true }],
                 handles := [(1, {})] }

theorem witness_UnitsAreRecovered :
    (∃ (u : Nat) (s : State), calm s ∧ 1 ≤ unitClass u ∧ unitClass u ≤ 8 ∧ unitExists s.fuses u = true ∧
      unitPending s.fuses s.dev u = true ∧ SMap.find? s.dev.recov.stalled u = none ∧
      bit (obj s.fuses s.dev 0xA031 0x10) (unitClass u) = false) ∧
    (∃ (w : Writer) (u : Nat) (s : State), u < 2 ^ 16 ∧ takes s w 0xA030 0 u ∧
      (unitClass u = 9 → ioActive s.fuses s.dev (unitTile u) = false) ∧ s.dev.resets = [] ∧
      (s.dev.proof.state ≠ 0 → s.dev.proof.handle ≠ newHandle s w) ∧ (∀ o ∈ s.dev.vault.ops, o.handle ≠ newHandle s w)) ∧
    (∃ (w : Writer) (u : Nat) (s : State), u < 2 ^ 16 ∧ takes s w 0xA030 0 u ∧ unitClass u = 9 ∧
      ioActive s.fuses s.dev (unitTile u) = true) ∧
    (∃ (u h : Nat) (s : State) (r : ResetRun), calm s ∧ s.dev.resets = [r] ∧ r.unit = u ∧ r.cleared = true ∧ r.handles = [h] ∧
      resetReady s.fuses s.dev u = true ∧ s.dev.recov.wd = [] ∧ heldOpen s h) ∧
    (∃ (w : Writer) (c : Nat) (s : State), c < s.fuses.cores ∧ c < 128 ∧ takes s w 0xA040 1 c ∧ withdrawn s.dev c = false ∧
      (s.dev.core c).busy = false ∧ withdrawnCount s.dev < 16 ∧ s.dev.recov.wd = [] ∧ s.dev.recov.wdBusy = false ∧
      s.dev.resets = []) ∧
    (∃ (w : Writer) (c : Nat) (s : State), c < s.fuses.cores ∧ c < 256 ∧ takes s w 0xA040 1 c ∧ withdrawn s.dev c = false ∧
      (s.dev.core c).busy = true ∧ s.dev.recov.wd = [] ∧ s.dev.recov.wdBusy = false) ∧
    (∃ (w : Writer) (c : Nat) (e : Outside) (s : State), c < s.fuses.cores ∧ c < 128 ∧ takes s w 0xA040 2 c ∧
      withdrawn s.dev c = true ∧ s.dev.recov.wd = [] ∧ s.dev.recov.wdBusy = false) ∧
    (∃ (w : Writer) (c : Nat) (s : State), c < s.fuses.cores ∧ c < 128 ∧ takes s w 0xA040 3 c ∧ withdrawn s.dev c = true ∧
      s.dev.recov.wd = [] ∧ s.dev.recov.wdBusy = false) :=
  ⟨⟨coreUnit 0, s_UnitsAreRecovered_1, by decide +kernel⟩,
   ⟨{ prin := 0 }, coreUnit 0, kst {}, by decide +kernel⟩,
   ⟨{ prin := 0 }, 0x9000, s_PowerAndTemperature_1, by decide +kernel⟩,
   ⟨coreUnit 0, 1, s_UnitsAreRecovered_2, { unit := coreUnit 0, trigger := 0, status := 0, handles := [1], cleared := true },
     by decide +kernel⟩,
   ⟨{ prin := 0 }, 0, s_PowerAndTemperature_1, by decide +kernel⟩,
   ⟨{ prin := 0 }, 0, kst { f := { state := .run } }, by decide +kernel⟩,
   ⟨{ prin := 0 }, 0, {}, wobj [(ob 0xA040 0, 1)], by decide +kernel⟩,
   ⟨{ prin := 0 }, 0, st { (wobj [(ob 0xA040 0, 1)]).dev with recov := { tested := 1 } }, by decide +kernel⟩⟩

theorem witness_UnitsRestUntilReady :
    ∃ (i : Instr) (s : State), unitRow i = true ∧ ready s.dev = false :=
  ⟨.nop 0 .F, off {}, by decide +kernel⟩

theorem witness_EveryStepKeepsSettled : ∃ s t : State, settled s ∧ step s = .next t :=
  ⟨{ kst (atF [(0, nopW)]) with pending := [.nop 0 .F] }, _, by decide +kernel, rfl⟩

end Sys2Proof.Tests
end

/-! # Number formats (chapter 03)

The rules of aligning an anchored partial (R61) and of the signs of zero results and NaNs (R71).  An alignment loses bits exactly
when the power of two it shifts by does not divide the magnitude.  What `toFloat` writes is the operand's sign over the encoding of
a number, or the canonical NaN; since a number's encoding stays below every NaN, reading the sign and the kind of a result back is
arithmetic modulo the sign bit. -/

namespace Sys2Proof.Machine

open Sys2Proof.Stmt

/-! ## Aligning an anchored partial (R61) -/

/-- The magnitude of an AP aligned by the distance `d`. -/
def alignMag (d mag : Nat) : Nat := if d ≥ 128 then 0 else mag >>> d

theorem AP.align_of_le {a : AP} {e2 : Int} (h : e2 ≤ a.e) : a.align e2 = a := if_pos h

theorem AP.align_of_lt {a : AP} {e2 : Int} (h : a.e < e2) :
    a.align e2 =
      { a with w := if a.w < 0 then -(alignMag (e2 - a.e).toNat a.w.natAbs : Int) else alignMag (e2 - a.e).toNat a.w.natAbs, e := e2,
               trunc := a.trunc || decide (alignMag (e2 - a.e).toNat a.w.natAbs * 2 ^ (e2 - a.e).toNat ≠ a.w.natAbs) } :=
  if_neg (Int.not_le.mpr h)

/-- The aligned magnitude under its sign, as the statement writes it. -/
theorem signed_alignMag (d : Nat) (w : Int) :
    (if w < 0 then -(alignMag d w.natAbs : Int) else alignMag d w.natAbs) =
      if d ≥ 128 then 0 else w.sign * ((w.natAbs >>> d : Nat) : Int) := by
  unfold alignMag
  rcases Int.lt_trichotomy w 0 with hw | rfl | hw
  · rw [if_pos hw, Int.sign_eq_neg_one_of_neg hw]
    split
    · rfl
    · rw [Int.neg_one_mul]
  · rw [if_neg (Int.lt_irrefl 0), Int.natAbs_zero, Nat.zero_shiftRight, Int.sign_zero, Int.zero_mul, ite_self, ite_self]
    rfl
  · rw [if_neg (Int.lt_asymm hw), Int.sign_eq_one_of_pos hw]
    split
    · rfl
    · rw [Int.one_mul]

/-- A window's magnitude is shifted back to itself exactly when 2^d divides it: from d = 128 on only 0 is a multiple. -/
theorem alignMag_mul_eq_iff {d mag : Nat} (h : mag ≤ 2 ^ 127) : alignMag d mag * 2 ^ d = mag ↔ 2 ^ d ∣ mag := by
  unfold alignMag
  split
  case isTrue hd =>
    have hlt : mag < 2 ^ d := Nat.lt_of_le_of_lt h (Nat.pow_lt_pow_right Nat.one_lt_two (by omega))
    rw [Nat.zero_mul, eq_comm]
    exact ⟨fun h0 => h0 ▸ Nat.dvd_zero _, fun hdvd => Nat.eq_zero_of_dvd_of_lt hdvd hlt⟩
  case isFalse => rw [Nat.shiftRight_eq_div_pow, Nat.dvd_iff_div_mul_eq]

/-- Settles O3: the shifted magnitude takes the sign back, and it is the whole magnitude when no bit is lost. -/
theorem alignmentTruncatesTowardZero : Obligations.AlignmentTruncatesTowardZero := by
  refine ⟨fun a e2 => AP.align_of_le, fun a e2 hlt hlo hhi => ?_⟩
  have hmag : a.w.natAbs ≤ 2 ^ 127 := by omega
  simp only [AP.align_of_lt hlt, signed_alignMag, ne_eq, alignMag_mul_eq_iff hmag]

/-! ## The encodings of a floating-point format (R48 to R50) -/

/-- The largest encoding of a magnitude that is a number: ∞ where the format has one. -/
def Fmt.topMag (f : Fmt) : Nat := if f.ieee then f.infEnc else f.maxEnc

/-- The format has a NaN (R50). -/
def Fmt.hasNan (f : Fmt) : Bool := f.ieee || f == .f8e4

theorem Fmt.infEnc_le_topMag {f : Fmt} (h : f.ieee = true) : f.infEnc ≤ f.topMag :=
  Nat.le_of_eq (if_pos h).symm

theorem Fmt.maxEnc_le_topMag (f : Fmt) : f.maxEnc ≤ f.topMag := by cases f <;> decide

theorem Fmt.topMag_lt_signBit {f : Fmt} (hf : f ∈ floats) : f.topMag < f.signBit := by
  revert f
  decide

theorem Fmt.canonNan_pos {f : Fmt} (h : f.hasNan = true) : 0 < f.canonNan := by
  revert h
  cases f <;> decide

theorem Fmt.canonNan_lt_signBit (f : Fmt) : f.canonNan < f.signBit := by cases f <;> decide

/-- The sign stands above the magnitude. -/
theorem withSign_mod {f : Fmt} {enc : Nat} (neg : Bool) (h : enc < f.signBit) : withSign f neg enc % f.signBit = enc := by
  cases neg with
  | false => exact Nat.mod_eq_of_lt h
  | true => exact (Nat.add_mod_right ..).trans (Nat.mod_eq_of_lt h)

/-- The encoding of ∞ has the exponent field of all ones and no mantissa (R49). -/
theorem Fmt.infEnc_eq {f : Fmt} (h : f.ieee = true) : f.infEnc = 2 ^ f.fields.2.1 * (2 ^ f.fields.1 - 1) := by
  revert h
  cases f <;> decide

theorem mod_signBit (f : Fmt) (b : Nat) :
    b % f.signBit = b % 2 ^ f.fields.2.1 + 2 ^ f.fields.2.1 * (b / 2 ^ f.fields.2.1 % 2 ^ f.fields.1) := by
  rw [Fmt.signBit, Nat.add_comm, Nat.pow_add, Nat.mod_mul]

/-- The encodings that read as NaN (R49, R50). -/
theorem nan_fields_of_decodeFloat {f : Fmt} {b : Nat} (h : decodeFloat f b = .nan) :
    (f.ieee = true ∧ b / 2 ^ f.fields.2.1 % 2 ^ f.fields.1 = 2 ^ f.fields.1 - 1 ∧ b % 2 ^ f.fields.2.1 ≠ 0) ∨
      (f = .f8e4 ∧ b % 128 = 127) := by
  simp only [decodeFloat, Nat.shiftRight_eq_div_pow] at h
  split at h
  case isTrue hones =>
    obtain ⟨hieee, hex⟩ := Bool.and_eq_true_iff.mp hones
    refine .inl ⟨hieee, eq_of_beq hex, fun hmant => ?_⟩
    rw [hmant] at h
    cases h
  case isFalse =>
    split at h
    case isTrue h8 => exact .inr h8
    case isFalse => split at h <;> cases h

/-- A NaN lies above every number (R49, R50). -/
theorem topMag_lt_of_decodeFloat_eq_nan {f : Fmt} {b : Nat} (h : decodeFloat f b = .nan) : f.topMag < b % f.signBit := by
  obtain ⟨hieee, hones, hmant⟩ | ⟨rfl, hb⟩ := nan_fields_of_decodeFloat h
  · rw [mod_signBit, hones, Fmt.topMag, if_pos hieee, Fmt.infEnc_eq hieee]
    omega
  · exact Nat.lt_of_lt_of_eq (by decide : Fmt.topMag .f8e4 < 127) hb.symm

/-- A zero is read with its sign (R49, R71). -/
theorem decodeFloat_withSign_zero {f : Fmt} (hf : f ∈ floats) (neg : Bool) :
    ∃ e, decodeFloat f (withSign f neg 0) = .fin neg 0 e := by
  refine ⟨1 - (f.fields.2.2 : Int) - f.fields.2.1, ?_⟩
  revert f neg
  decide

/-! ## Rounding to a floating-point format (R65 to R71) -/

/-- The sign that a conversion keeps; a NaN has none. -/
def Num.signOf : Num → Bool
  | .nan => false
  | .inf neg => neg
  | .fin neg _ _ => neg

theorem roundFloat_le_maxEnc (f : Fmt) (rnd n16 m : Nat) (e : Int) : (roundFloat f rnd n16 m e).1 ≤ f.maxEnc := by
  unfold roundFloat
  split
  case isTrue => exact Nat.zero_le _
  case isFalse =>
    dsimp only
    split <;> omega

@[simp] theorem roundFloat_zero (f : Fmt) (rnd n16 : Nat) (e : Int) : roundFloat f rnd n16 0 e = (0, true) := rfl

@[simp] theorem toFloat_fin_zero (f : Fmt) (rc : RC) (n16 : Nat) (neg : Bool) (e : Int) :
    (toFloat f rc n16 (.fin neg 0 e)).1 = withSign f neg 0 := rfl

/-- What `r` is as a result of converting `x` to `f`: a number under the sign of `x`, or the canonical NaN of a format that has one. -/
def IsFloatOf (f : Fmt) (x : Num) (r : Nat) : Prop :=
  (∃ enc ≤ f.topMag, r = withSign f x.signOf enc) ∨ (f.hasNan = true ∧ r = f.canonNan)

theorem toFloat_isFloatOf (f : Fmt) (rc : RC) (n16 : Nat) (x : Num) : IsFloatOf f x (toFloat f rc n16 x).1 := by
  have hmax := f.maxEnc_le_topMag
  cases x with
  | nan =>
    simp only [toFloat]
    split
    case isTrue hnan => exact .inr ⟨hnan, rfl⟩
    case isFalse => exact .inl ⟨0, Nat.zero_le _, rfl⟩
  | inf neg =>
    simp only [toFloat]
    split
    case isTrue hieee => exact .inl ⟨_, Fmt.infEnc_le_topMag hieee, rfl⟩
    split
    case isFalse => exact .inl ⟨_, hmax, rfl⟩
    case isTrue h8 =>
      split
      · exact .inl ⟨_, hmax, rfl⟩
      · exact .inr ⟨h8 ▸ rfl, rfl⟩
  | fin neg m e =>
    simp only [toFloat]
    split
    case isTrue => exact .inl ⟨_, Nat.le_trans (roundFloat_le_maxEnc ..) hmax, rfl⟩
    split
    case isTrue => exact .inl ⟨_, hmax, rfl⟩
    split
    case isTrue hieee => exact .inl ⟨_, Fmt.infEnc_le_topMag hieee, rfl⟩
    split
    case isTrue h8 => exact .inr ⟨h8 ▸ rfl, rfl⟩
    case isFalse => exact .inl ⟨_, hmax, rfl⟩

theorem AP.toNum_of_zero {a : AP} (hfin : a.isFinite = true) (hw : a.w = 0) : a.toNum = .fin false 0 0 := by
  simp only [AP.isFinite, Bool.and_eq_true, Bool.not_eq_true'] at hfin
  obtain ⟨⟨hnan, hovf⟩, hinf⟩ := hfin
  simp only [AP.toNum, AP.isNan, hnan, hovf, hinf, hw, Bool.or_self, Bool.false_eq_true, if_false, if_true]

theorem IsFloatOf.eq_withSign_zero {f : Fmt} {x : Num} {r : Nat} (hf : f ∈ floats) (h : IsFloatOf f x r)
    (h0 : r % f.signBit = 0) : r = withSign f x.signOf 0 := by
  obtain ⟨enc, hle, rfl⟩ | ⟨hn, rfl⟩ := h
  · rw [withSign_mod _ (Nat.lt_of_le_of_lt hle (Fmt.topMag_lt_signBit hf))] at h0
    rw [h0]
  · rw [Nat.mod_eq_of_lt f.canonNan_lt_signBit] at h0
    exact absurd h0 (Nat.ne_of_gt (Fmt.canonNan_pos hn))

theorem IsFloatOf.lt_signBit_of_nan {f : Fmt} {x : Num} {r : Nat} (hf : f ∈ floats) (h : IsFloatOf f x r)
    (hn : decodeFloat f r = .nan) : r < f.signBit := by
  obtain ⟨enc, hle, rfl⟩ | ⟨-, rfl⟩ := h
  · have hlt := topMag_lt_of_decodeFloat_eq_nan hn
    rw [withSign_mod _ (Nat.lt_of_le_of_lt hle (Fmt.topMag_lt_signBit hf))] at hlt
    exact absurd hle (Nat.not_le_of_lt hlt)
  · exact f.canonNan_lt_signBit

/-- Settles O4: a result is a number under its operand's sign or the canonical NaN, whose sign bit is 0. -/
theorem signsOfZeroResults : Obligations.SignsOfZeroResults := by
  refine ⟨?rounded, ?converted, ?partialZero, ?nan⟩
  case rounded =>
    intro f rc n16 m neg e hf h0
    exact (toFloat_isFloatOf f rc n16 (.fin neg m e)).eq_withSign_zero hf h0
  case converted =>
    intro f g rc n16 neg hf _
    obtain ⟨e, he⟩ := decodeFloat_withSign_zero hf neg
    rw [he, toFloat_fin_zero]
  case partialZero =>
    intro f rc n16 a _ hfin hw
    rw [AP.toNum_of_zero hfin hw, toFloat_fin_zero]
    rfl
  case nan =>
    intro f rc n16 x hf hn
    exact (toFloat_isFloatOf f rc n16 x).lt_signBit_of_nan hf hn

end Sys2Proof.Machine

/-! # The state after reset (chapter 09 and R442, R546)

Reset lists no object of the store, so every object holds its default, and RESET_CAUSE's default is 1 (R562).  `ctr` reads the
store with the default 0, which is right for a counter and not for this register: its clause of the statement does not hold.  All
that the statement says besides holds, and RESET_CAUSE is 1 where it is read with its own default, by `obj`. -/

namespace Sys2Proof.Machine

/-- Reset lists no object, so `ctr` reads its own default 0 of each. -/
theorem ctr_reset (idx sub : Nat) : ctr State.reset.dev idx sub = 0 := SMap.get_nil ..

theorem obj_reset (f : Fuses) (idx sub : Nat) : obj f State.reset.dev idx sub = objDefault f (idx % 65536) sub := rfl

/-- Every core is as an unlisted core reads. -/
theorem core_reset (c : Nat) : State.reset.dev.core c = {} := SMap.get_nil ..

/-- A memory with no byte listed reads 00h everywhere (R229). -/
theorem readByte_nil (a : Nat) : readByte [] a = 0#8 := SMap.get_nil ..

theorem counter_unlisted (r : CtrRef) : ({} : Core).counter r = 0 := by
  unfold Core.counter
  split <;> exact SMap.get_nil ..

/-- Context 0 is the one context reset lists (R461). -/
theorem ctx_reset_of_ne_zero {g : Nat} (hg : g ≠ 0) : State.reset.dev.ctx g = {} := if_neg hg

/-- RESET_CAUSE after reset is a power-on's, 1 (R562), for a reader that takes the object's own default. -/
theorem obj_reset_resetCause (f : Fuses) : obj f State.reset.dev 0xA000 1 = 1 := by
  rw [obj_reset]
  rfl

/-- What reset leaves, with RESET_CAUSE read through `obj`: the statement of O60 with its one false clause mended. -/
theorem reset_leaves :
    State.reset.pending = [] ∧ ctr State.reset.dev 0xA000 0 = 0 ∧ obj State.reset.fuses State.reset.dev 0xA000 1 = 1 ∧
      State.reset.dev.time = 0 ∧
      (∀ a, readByte State.reset.dev.mem.bytes a = 0#8) ∧ State.reset.dev.mem.poison = [] ∧
      (∀ c, (State.reset.dev.core c).f.state = .idle ∧ (State.reset.dev.core c).b.state = .idle ∧
        (∀ r, (State.reset.dev.core c).counter r = 0) ∧ ∀ a, readByte (State.reset.dev.core c).plate a = 0#8) ∧
      (∀ k, SMap.find? State.reset.dev.vault.slots k = none) ∧ (State.reset.dev.ctx 0).state = .opened ∧
      (∀ g, g ≠ 0 → (State.reset.dev.ctx g).state = .free) ∧ State.reset.dev.handles = [] := by
  refine ⟨rfl, ctr_reset .., obj_reset_resetCause _, rfl, readByte_nil, rfl, ?cores, fun _ => rfl, rfl, ?contexts, rfl⟩
  case cores =>
    intro c
    rw [core_reset]
    exact ⟨rfl, rfl, counter_unlisted, readByte_nil⟩
  case contexts =>
    intro g hg
    rw [ctx_reset_of_ne_zero hg]

/-- Refutes O60: at `State.reset` itself the clause on RESET_CAUSE reads A000h.01 as a counter, which is 0 and not 1; `reset_leaves`
has the other clauses. -/
theorem not_resetState : ¬ Obligations.ResetState := by
  unfold Obligations.ResetState
  rintro ⟨-, -, hcause, -⟩
  rw [ctr_reset] at hcause
  exact Nat.zero_ne_one hcause

end Sys2Proof.Machine
